-- ==== Sys2Proof/Word.lean ====
section
/-! DEFINITION. The words of the SZ1600: bytes, register words, double words, and the sparse map in which every
indexed store of the machine is held. -/

namespace Sys2Proof

/-- One byte. -/
abbrev Byte := BitVec 8

/-- One 32-bit register word (R179, R257). -/
abbrev Word := BitVec 32

/-- One 64-bit double word. -/
abbrev DWord := BitVec 64

/-- A sparse map from numbers, keys strictly rising. A number not listed has the map's default value, which is an
argument of the reading operation of `Machine/Map.lean`. -/
abbrev FMap (α : Type) := List (Nat × α)

end Sys2Proof
end

