-- ==== Sys2Proof/Syntax.lean ====
section
/-! DEFINITION. The commands of the SZ1600 (one constructor of Instr per row of spec/opcode_table.json) and the
operands they carry. An operand is either a field the command itself has in the spec or a fact of the part's
surroundings or of an unspecified choice that the event brings with it (notes/assumptions/2.md). -/

namespace Sys2Proof

/-- Who issues an access to the matrix or a register (R260): a vent, the MV, KC, a DMA channel, the host's function
(0 the PF), the JTAG debug access port, an LCE, or Intake with Easel. -/
inductive Master where
  | vent (v : Nat) | mv | kc | dma (n : Nat) | host (f : Nat) | jtag | lce (n : Nat) | intake
deriving DecidableEq, Repr

/-- Response codes of the matrix (R262). -/
inductive RespCode where
  | okay | error | domainOff | lockTimeout | ue
deriving DecidableEq, Repr

/-- How stage A of Priming ends (R322, R325): its steps succeed, a fuse bank holds an uncorrectable error (FAIL 10),
or a store fails its zeroing check (FAIL 11). -/
inductive StageAEnd where
  | ok | fuse (bank : Byte) | sram
deriving DecidableEq, Repr

/-- How stage B ends (R324, R325): success, or FAIL 12 to 14 with its detail. -/
inductive StageBEnd where
  | ok | hbmTrain (stack : Byte) | selfTest (unit : Byte) | caldera (c : Byte)
deriving DecidableEq, Repr

/-- What an I²C master's line check finds (R353): both lines free; SCL low for 25 ms; SDA low with SCL high, and
whether SDA is high after the nine pulses and the STOP. -/
inductive LineObs where
  | free | sclLow | sdaLow (released : Bool)
deriving DecidableEq, Repr

/-- How an I²C transfer of DIAG ends (R315, R353): done, a NAK, lost arbitration, or a line stuck during it, with
what step 2 of R353 then finds. -/
inductive I2cEnd where
  | done | nak | lostArb | stuck (released : Bool)
deriving DecidableEq, Repr

/-- What makes a vector unmasked (R298): its own Mask bit, the function's Function Mask, or MSI-X Enable. -/
inductive Unmask where
  | vectorMask | functionMask | enable
deriving DecidableEq, Repr

/-- A host request to a BAR (R285): a read of n bytes or a write of bytes. -/
inductive HostAccess where
  | read (n : Nat) | write (bytes : List Byte)
deriving DecidableEq, Repr

/-- What the debug access port does (R349, R351): the TAP selects it; it halts a vent, lets it run on, or lets it
execute one bundle; or it makes an access of matrix port 24. -/
inductive DapOp where
  | select
  | halt (v : Nat) | go (v : Nat) | single (v : Nat)
  | access (addr : Nat) (acc : HostAccess)
deriving DecidableEq, Repr

/-- Which of a DMA channel's accesses is answered with an error (R276): the descriptor fetch, or the read or the write
of the burst that starts when `left` bytes are left. -/
inductive DmaAccess where
  | fetch | readAt (left : Nat) | writeAt (left : Nat)
deriving DecidableEq, Repr

/-- The PCIe AtomicOps the part completes (R280), with their operands. -/
inductive AtomOp where
  | fetchAdd (a : DWord) | swap (a : DWord) | cas (cmp new : DWord)
deriving DecidableEq, Repr

/-- The parts of an AtomicOp (R264): the whole of it in one step, the locked read alone, or the holder's write. -/
inductive AtomPhase where
  | whole | lockedRead | holderWrite
deriving DecidableEq, Repr

/-- What patrol scrub finds at an address (R269); or an error that arises in the word and stands there, correctable or
not, until an access or a later scrub meets it (R266); or an uncorrectable error that arises in the register file of vent v
(R239), in the cell that Vent.badRegs numbers; or a parity error in a line of its I-cache (R149). -/
inductive ScrubFound where
  | clean | correctable | uncorrectable | arises (unc : Bool) | register (v cell : Nat)
  | codeLine (v block : Nat)
deriving DecidableEq, Repr

/-- What a vent decides for a frame that has no LCE job of its own (R20, R45): forward it unprotected to a queue,
deliver it to a frame-to-host ring, or drop it naming a code, or because its TICK has reached the expiry of the receive
slot selected (R64). `job` is a frame whose LCE work is done and goes to the queue its job names. -/
inductive Disposition where
  | job | bypass (q : Nat) | host | drop (code : Nat) | expired (slot : Nat)
deriving DecidableEq, Repr

/-- One decision of an Easel plan (R123 to R135): start a migration, change an LCE map entry, write a spill threshold,
relocate a replay window, choose the contexts that a caldera holds copies of, or the caldera to be sealed next (R75); or the
bundle occupancy that a caldera reported for the last period. -/
inductive PlanItem where
  | migrate (bank bucket vent spread : Nat)
  | lceMap (v l : Nat)
  | spillTh (q th : Nat)
  | moveWindow (ctx slot w : Nat)
  | copies (c : Nat) (ctxs : List Nat)
  | sealNext (c : Nat)
  | telemetry (c : Nat) (occ : Byte)
deriving DecidableEq, Repr

/-- An ADMSQ descriptor: its 256 bits (R293), taken apart in Sys2Proof/Decode.lean. -/
structure AdmDesc where
  bits : BitVec 256
deriving DecidableEq, Repr

/-- One encoded operation of a bundle (R175): its first word and the word that follows it, which is the operation's own
where LONG is 1. The fields are taken apart in Sys2Proof/Decode.lean. -/
structure OpEnc where
  w0 : Word
  w1 : Word
deriving DecidableEq, Repr

/-- One operation of the vent instruction set, as the bundle under assembly holds it (R187). SCNS.EQ and SCNS.NE
are the two opcodes of the row SCNS. -/
inductive OpKind where
  | mov | movi | add | sub | addi | neg | abs | adds | subs | min
  | max | minu | maxu | and | or | xor | andn | not | shl | shr
  | sar | rol | ror | extu | exts | ins | clz | popc | bswap | mul
  | mulhs | mulhu | cmpeq | cmpne | cmplt | cmpltu | cmple | cmpleu | tst | pand
  | por | pxor | br | brl | brf | brlf | jr | jrl | loop | mts
  | mfs | syscall | brk | hold | retm | rets | gobroad | barrier | isync | nop
  | ld | lds | ldf | st | stf | vld | vst | vldl | vstl | pref
  | fence | dcflush | dcinv | icinv | div | divu | rem | remu | fdiv | fsqrt
  | movs | fils | cmps | scnsEq | scnsNe | vkeccak | vntt | setvl | vadd | vsub
  | vmul | vmulh | vmin | vmax | vlog | vmov | vsel | vshl | vshr | vcmp
  | vcmpl | vadds | vsubs | vmulrh | vsrr | vred | vgete | vsete | vsldn | vslup
  | vbswap | klog | kmov | kpop | fadd | fsub | fmul | fma | fmin | fmax
  | fcmp | fcvt | fcvtf | fsgn | fmvx | fclass | vfadd | vfsub | vfmul | vfma
  | vfmin | vfmax | vfcmp | vfcvt | vfsgn
deriving DecidableEq, Repr

/-- The commands of the part, one constructor per row of spec/opcode_table.json. Each docstring names the rule the
table gives the row and its summary. -/
inductive Instr where
  /-- R321. Assertion of PORESET_N resets the whole part except the fuses, including during Priming. -/
  | poresetNAssert
  /-- R321. Release of PORESET_N starts Priming at stage A. -/
  | poresetNRelease
  /-- R322. Stage A ends once fuses are read, SRAM is zeroed and clocks and sensors are calibrated, and the MV sets
  PRIME_STAT.HOSTWAIT. -/
  | hostwait (r : StageAEnd)
  /-- R324. A write of 1 to GO clears HOSTWAIT and starts verification, or is ignored with GOIGN under R326. -/
  | primeCtlGo (m : Master) (w : Word)
  /-- R331. Verification of the board description and image ends: either a FAIL code is set, or VERIFY clears and stage B
  starts. -/
  | stageb
  /-- R324. Stage B ends: the initial state is written, PRIMED is set and the ball is driven, the vector 0 message falls
  due and the MV branches to MVENTRY. -/
  | primed (r : StageBEnd)
  /-- R343. A rail below 90 % of nominal for more than 1 µs holds the islands in reset, as a PORESET_N assertion would. -/
  | railLowReset (k : Nat)
  /-- R343. A rail outside its tolerance but at or above 90 % posts a RAIL event and sets POWER_ERR.RAIL. -/
  | rail (k : Nat) (mv : BitVec 12)
  /-- R361. Every 10 µs each sensor is sampled and compared with the thresholds. -/
  | thermalSample (rs : List (Nat × Byte))
  /-- R354. An open receive lane is detected, sets LOS, posts LANE_FAULT and makes its sub-port fall back or go down. -/
  | lossOfSignal (p n : Nat)
  /-- R354. A shorted transmit lane is current-limited, disabled and reported, and its sub-port falls back or goes down. -/
  | transmitShort (p n : Nat)
  /-- R356. A lane whose LOS has stayed clear for 100 ms returns, and a fully clear sub-port retrains at its configured
  width. -/
  | losClear (p n : Nat)
  /-- R356. A write of 1 re-enables a lane that was disabled for a short and checks it again. -/
  | portLaneclr (m : Master) (p : Nat) (w : Word)
  /-- R357. Loss of a port reference takes the port's sub-ports down and posts REFLOST. -/
  | reflost (p : Nat)
  /-- R357. A port reference stable for 10 ms makes the port recalibrate and link again. -/
  | referenceRestored (p : Nat)
  /-- R358. Loss of SYSCLK switches the islands to the internal oscillator, takes the ports down and sets SYSLOST and
  TBDRIFT. -/
  | sysclkLost
  /-- R358. SYSCLK stable for 10 ms returns the islands to it, clears SYSLOST and relinks the ports. -/
  | sysclkRestored
  /-- R366. A sub-port completes training and links, posting LINK_UP. -/
  | linkUp (src : Nat) (polinv : Byte)
  /-- R366. A sub-port loses its link partner, goes down and posts LINK_DOWN. -/
  | linkDown (src : Nat)
  /-- R367. A port finishes reconfiguring its MACs, PCS and lanes for a new breakout, and the PORT_SET completes. -/
  | breakoutReconfigured (p : Nat)
  /-- R359. A lane whose eye height falls below EYEMIN adapts at once and sets EYELOW. -/
  | immediateAdaptation (p n : Nat) (height : Byte)
  /-- R360. At the end of each 10 ms window FECDEG is set or cleared from the FEC error ratios, with an event. -/
  | fecdegWindow (p : Nat) (met : Byte)
  /-- R353. An I²C master checks its lines once per second or before a command, and recovers the bus or disables the master. -/
  | i2cLineCheck (n : Nat) (o : LineObs)
  /-- R353. A write of 1 re-enables an I²C master and checks its lines at once. -/
  | mgmtCtlI2cretry (m : Master) (w : Word) (os : List (Nat × LineObs))
  /-- R346. Assertion of PCIE_PERST_N resets the host-bridge functions as a hot reset does; its release lets the link train. -/
  | pciePerstN (asserted : Bool := true)
  /-- R320. Loss of the PCIe link stops host rings, and host-window requests receive ERROR. -/
  | pcieLinkDown
  /-- R320. On PCIe link-up the rings continue from their indices. -/
  | pcieLinkUp (speed width : Nat) (flit ari : Bool)
  /-- R319. FLR of a VF destroys its rings and resets its MSI-X state. -/
  | vfFlr (f : Nat)
  /-- R319. PF FLR or hot reset resets every function's rings and MSI-X state and clears ADM_CFG.EN, STAGEBASE and the
  HWIN registers. -/
  | pfFlr (hot : Bool := false)
  /-- R318. A change of a function's Bus Master Enable stops or resumes the part's requests for that function. -/
  | busMasterEnable (f : Nat) (on : Bool) (d3hot : Bool := false)
  /-- R298. A vector becoming unmasked sends its pending message from the PBA. -/
  | msixUnmask (f v : Nat) (how : Unmask)
  /-- R298. At t0 + 1,000 × TIME the vector's message is sent and its pending count is reset. -/
  | msixTimeout (f v : Nat)
  /-- R281. A device read of host memory that gets no completion within the completion timeout fails, setting RDERR. -/
  | hostReadTimeout (addr : DWord) (window : Bool := false)
  /-- R289. An 8-byte write to a ring's BAR2 slot updates its producer or consumer index, or is discarded. -/
  | doorbell (f off : Nat) (bytes : List Byte)
  /-- R285. A host request to BAR4 reaches matrix address STAGEBASE + x and completes according to the matrix response. -/
  | bar4Access (off : Nat) (acc : HostAccess)
  /-- R264. A PCIe AtomicOp to BAR4 performs a locked read and write on its target port. -/
  | atomicop (bar off size : Nat) (op : AtomOp) (phase : AtomPhase)
  /-- R264. A lock held for 256 F-layer cycles is ended, and the holder's write receives LOCKTIMEOUT. -/
  | lockTimeout (t : Nat)
  /-- R5. A register write without behaviour of its own acts by the field access codes, and an unmapped or narrow access
  sets ERR_STAT. -/
  | registerWrite (m : Master) (addr : Nat) (acc : HostAccess)
  /-- R287. A write to ADM_CFG sets EN to create admin rings 0 and 1, or clears it to stop acceptance. -/
  | admCfg (m : Master) (w : Word)
  /-- R284. A write to STAGEBASE moves the BAR4 base, or is ignored with CFGERR. -/
  | stagebase (m : Master) (w : DWord)
  /-- R255. An MV write of SWAP changes the view of region zero for requests accepted afterwards. -/
  | remapCtl (m : Master) (w : Word)
  /-- R317. RESUME rereads the descriptor at a halted ring's halt position and continues from it. -/
  | ringCtlResume (m : Master) (r : Nat)
  /-- R317. SKIP passes over the halted descriptor, completing it SKIPPED in the LATE case, and continues. -/
  | ringCtlSkip (m : Master) (r : Nat) (tag : BitVec 16 := 0)
  /-- R299. The completion of an admin command is written in ring order once its effects are in place and its
  predecessors are written. -/
  | admcqCompletion
  /-- R83. Writes a whole parameter block with VALID = 1 into Sketch. -/
  | ctxCreate (d : AdmDesc) (p : Option (List Byte))
  /-- R83. Writes the masked bytes of a Sketch parameter block. -/
  | ctxUpdate (d : AdmDesc) (p : Option (List Byte))
  /-- R72. Installs a host-supplied key in a transmit or receive slot after draining it. -/
  | keyLoad (d : AdmDesc) (p : Option (List Byte)) (b : Option (List Byte))
  /-- R79. Fills a SEALED seed slot and returns the ML-KEM-1024 encapsulation key. -/
  | keyDeriveKemGen (d : AdmDesc) (p : Option (List Byte))
  /-- R79. Decapsulates a ciphertext with a seed slot, derives key and salt, and installs them as KEY_LOAD would. -/
  | keyDeriveKemDecaps (d : AdmDesc) (p : Option (List Byte)) (b cs : Option (List Byte))
  /-- R78. Fills a SEALED scalar slot and returns the X25519 public value. -/
  | keyX25519Gen (d : AdmDesc) (p : Option (List Byte))
  /-- R78. Computes X25519 of a sealed scalar and a peer value, returning the result or sealing it in a slot. -/
  | keyX25519Agree (d : AdmDesc) (p : Option (List Byte))
  /-- R73. Drains a slot and empties it, returning any replay window. -/
  | keyRetire (d : AdmDesc) (p : Option (List Byte))
  /-- R306. Sets an exact-match entry or wildcard rule in Sketch. -/
  | ruleWriteSet (d : AdmDesc) (p : Option (List Byte))
  /-- R306. Removes an exact-match entry or wildcard rule from Sketch. -/
  | ruleWriteRemove (d : AdmDesc) (p : Option (List Byte))
  /-- R85. Checks SET_ISSUES, sets PENDING and asks Intake to flip every source to the Sketch epoch. -/
  | setSwap (d : AdmDesc) (p : Option (List Byte))
  /-- R85. A source flips to the new epoch between two of its frames, and SET_STAT.EPOCH changes when the last source has
  flipped. -/
  | epochFlip (src : Nat)
  /-- R85. When no frame stamped with the old epoch remains, the MV starts copying the new Canvas over the old set. -/
  | swapCopy
  /-- R85. The copy ends: PENDING clears, SWAPS increments and SWAP_DONE is posted. -/
  | swapDone
  /-- R94. Creates a QM queue, and for DKIND 2 its TOHOST ring. -/
  | queueCreateQueue (d : AdmDesc) (p : Option (List Byte))
  /-- R102. Writes one weight profile into Sketch. -/
  | queueCreateWprof (d : AdmDesc) (p : Option (List Byte))
  /-- R310. Creates a FROMHOST or EVENT ring. -/
  | queueCreateRing (d : AdmDesc) (p : Option (List Byte))
  /-- R95. Destroys a queue or ring, discarding its frames in DROP_FLUSH. -/
  | queueDestroy (d : AdmDesc) (p : Option (List Byte))
  /-- R308. Writes a sub-port's breakout and maximum frame size at once, and its set attributes into Sketch. -/
  | portSet (d : AdmDesc) (p : Option (List Byte))
  /-- R119. Writes a channel's shaping profile into Sketch. -/
  | glazeProfileProfile (d : AdmDesc) (p : Option (List Byte))
  /-- R117. Writes a distribution table pair into Sketch from a buffer. -/
  | glazeProfileTable (d : AdmDesc) (p : Option (List Byte)) (b : Option (List Byte))
  /-- R137. Gives calderas and sources to a reservation bank, migrating bank 0 entries away. -/
  | easelConstrainReserve (d : AdmDesc) (p : Option (List Byte))
  /-- R137. Ends a reservation and returns its sources and calderas to bank 0. -/
  | easelConstrainRelease (d : AdmDesc) (p : Option (List Byte))
  /-- R138. Sets or removes a tenant's cap on on-die PB bytes. -/
  | easelConstrainPbcap (d : AdmDesc) (p : Option (List Byte))
  /-- R139. Sets the excluded calderas and migrates their entries away. -/
  | easelConstrainExclude (d : AdmDesc) (p : Option (List Byte))
  /-- R139. Every newly excluded caldera is drained, and the EXCLUDE completes. -/
  | calderaDrained
  /-- R137. Once no earlier frame of a source remains with a vent or LCE, Intake switches the source to its new bank. -/
  | sourceBankSwitch (src : Nat)
  /-- R143. Writes a snapshot of the selected placement sections to a host buffer. -/
  | easelSnap (d : AdmDesc) (p : Option (List Byte))
  /-- R313. Returns, and can clear, the drop counters of a range of sources. -/
  | statsReadDrops (d : AdmDesc) (p : Option (List Byte))
  /-- R313. Returns the queue contexts of a range of queues. -/
  | statsReadQueues (d : AdmDesc) (p : Option (List Byte))
  /-- R313. Returns, and can clear, the statistics of a range of rings. -/
  | statsReadRings (d : AdmDesc) (p : Option (List Byte))
  /-- R313. Returns, and can clear, the GLAZE_LATE and GLAZE_DUMMY counters. -/
  | statsReadGlaze (d : AdmDesc) (p : Option (List Byte))
  /-- R336. Builds and signs an attestation report on the sealed caldera and writes it to the host. -/
  | attest (d : AdmDesc) (p : Option (List Byte))
  /-- R334. Verifies an image in HBM without changing anything. -/
  | fwStageCheck (d : AdmDesc) (p : Option (List Byte))
  /-- R335. Verifies an image and replaces the CALDERA sections of every caldera in turn. -/
  | fwStageApply (d : AdmDesc) (p : Option (List Byte))
  /-- R335. Once a caldera is drained, its vents are reset, the new sections are copied in and the vents are released. -/
  | calderaReplace (c : Nat)
  /-- R334. Burns SVN fuses until SVNMIN equals RUNSVN. -/
  | fwStageRaiseSvn (d : AdmDesc) (p : Option (List Byte))
  /-- R315. Reads registers of an optics device through an I²C master. -/
  | diagI2cRead (d : AdmDesc) (p : Option (List Byte)) (o : I2cEnd) (rx : List Byte)
  /-- R315. Writes registers of an optics device through an I²C master. -/
  | diagI2cWrite (d : AdmDesc) (p : Option (List Byte)) (o : I2cEnd)
  /-- R315. Reads a Clause 45 register through an MDIO master. -/
  | diagMdioRead (d : AdmDesc) (p : Option (List Byte)) (rx : BitVec 16)
  /-- R315. Writes a Clause 45 register through an MDIO master. -/
  | diagMdioWrite (d : AdmDesc) (p : Option (List Byte))
  /-- R295. The host bridge reads a FROMHOST descriptor and its frame, which enters Intake as source 32. -/
  | fromhostDescriptor (r : Nat) (desc : List Byte) (frame : Option (List Byte)) (cells : List Nat)
  /-- R296. A frame at the head of a DKIND 2 queue is written to a free ring buffer, followed by its completion. -/
  | tohostDelivery (r : Nat)
  /-- R30. Intake takes a received frame and stamps, buffers, checks, stores, parses, classifies and tickets it. -/
  | frameReceive (src : Nat) (frame : List Byte) (fcsOk : Bool) (cells : List Nat)
  /-- R155. The producer writes a frame entry, marker or slot record, its kind byte and the producer count into a vent's
  input ring once there is room. -/
  | inputEntryDelivery (v : Nat)
  /-- R38. An LCE splices, encrypts and authenticates a frame for an ENCRYPT job. -/
  | lceEncrypt (n : Nat) (ecc : Bool) (cells : List Nat)
  /-- R38. An LCE verifies and decrypts a frame, performs the final replay check and rebuilds the frame. -/
  | lceDecrypt (n : Nat) (ecc : Bool) (cells : List Nat)
  /-- R105. An LCE splices the header of a GLAZE = 1 job without enciphering, and the frame is staged to its queue. -/
  | lceStagingJob (n : Nat) (ecc : Bool) (cells : List Nat)
  /-- R107. An LCE encrypts a Glaze slot frame and returns it to Glaze. -/
  | lceSealJob (n : Nat) (ecc : Bool) (cells : List Nat)
  /-- R60. KC returns a transmit slot and number for a request, moving the slot pair's states as needed. -/
  | txtake (v : Nat)
  /-- R61. Every 10 ms KC scans the slots and posts KEY_SOFT_TIME where due. -/
  | keyScan
  /-- R66. When the jobs a draining slot waits for are done, the slot is zeroed or written and its command proceeds. -/
  | drainComplete (ctx slot : Nat)
  /-- R75. Once Easel has migrated its flows away, a caldera is sealed for KC key work. -/
  | calderaSeal (c : Nat)
  /-- R75. 1 ms after the key-work queue empties, the sealed caldera is zeroed, reloaded and released. -/
  | calderaUnseal
  /-- R96. The rack releases a frame and QM applies the guard and limits and places the frame on die or in HBM. -/
  | qmEntrance (pbh : Nat) (how : Disposition) (cells : List Nat)
  /-- R40. A ticket neither released nor retired within 100 µs of its stamp is retired by the rack. -/
  | rackTimeout (bucket : Nat) (ticket : Word)
  /-- R98. QM moves frames from a queue's HBM part on die when the on-die bytes fall below SPILLTH × 2,048. -/
  | spillReturn (q : Nat) (cells : List Nat)
  /-- R103. A sub-port node that can start a frame selects one by strict priority and deficit round robin and starts
  transmitting it. -/
  | subportPick (src : Nat)
  /-- R91. A frame's last byte leaves a port and its cells return to the free pool. -/
  | frameTransmitEnd (src : Nat)
  /-- R104. While a sub-port is down, QM removes head frames of its queues at its rate and counts them in DROP_PORT_DOWN. -/
  | portDownDrop (src : Nat)
  /-- R108. At a slot boundary Glaze picks the slot content, builds the slot plaintext and issues the slot record. -/
  | glazeSlotClose (p g : Nat) (cells : List Nat)
  /-- R114. At w_k the sealed slot frame starts on the wire, or starts late when it returns, counting GLAZE_LATE. -/
  | glazeWireTime (p g : Nat)
  /-- R118. After 2^24 draws Glaze reseeds a MASKED channel's SHAKE256 stream. -/
  | glazeReseed (p g : Nat)
  /-- R123. At the start of each period Easel forms and starts a plan of migrations, thresholds, window moves and throttling. -/
  | easelPlan (plan : List PlanItem)
  /-- R128. A vent stores MIGNO to acknowledge a migration marker. -/
  | easelMarkack (v : Nat) (migno : Word)
  /-- R127. After every acknowledgement Easel copies the bucket state, releases the held items to the new set and clears MIG. -/
  | migrationRelease (migno : Word)
  /-- R130. An acknowledgement missing 50 µs after its marker sets MARKLATE and posts an Easel event. -/
  | marklate (migno : Word) (v : Nat)
  /-- R135. A write to EASEL_CFG changes the context cache and bucket state layout, or is ignored with CFGERR. -/
  | easelCfg (m : Master) (w : Word)
  /-- R271. Starts a DMA channel's descriptor chain at DCH_DESC. -/
  | dchCtlStart (m : Master) (n : Nat)
  /-- R276. Halts a DMA channel with cause ABORT at the next burst boundary. -/
  | dchCtlAbort (m : Master) (n : Nat)
  /-- R271. When every write of a descriptor has its OKAY, the channel posts a notice, becomes DONE or fetches the next
  descriptor. -/
  | descriptorComplete (n : Nat)
  /-- R276. A non-OKAY response to a DMA burst or descriptor fetch stops the channel for retry. -/
  | busError (n : Nat) (what : DmaAccess) (code : RespCode)
  /-- R276. 1 µs after a bus error the channel retries the failed burst, or halts when the retries are used up. -/
  | dmaRetry (n : Nat) (ok : Bool) (last : Option RespCode := none)
  /-- R275. A change in a paced channel's source fill moves the channel between WAIT and RUN. -/
  | pacingFillChange (n : Nat)
  /-- R364. A write of 1 gates a drained, excluded caldera, or is refused with GATEREF. -/
  | pwrCalgateGate (m : Master) (c : Nat)
  /-- R364. A write of 0 powers a gated caldera again. -/
  | pwrCalgatePower (m : Master) (c : Nat)
  /-- R364. A caldera has powered up, its sections are copied in and it shows ON. -/
  | calderaPowerUp (c : Nat)
  /-- R277. 10 µs into a gating, transactions that remain are ended and MX_ERR.DOMOFF is set. -/
  | domainOffTimeout (c : Nat)
  /-- R278. A reset master leaves reset once its port isolator has absorbed every outstanding response. -/
  | isolationComplete (v : Nat)
  /-- R268. After PRIMED the controllers zero the next marked 1 MiB HBM region in the background. -/
  | hbmZeroing
  /-- R269. Patrol scrub reads a word, corrects correctable errors and poisons or reports uncorrectable ones. -/
  | patrolScrub (addr : Nat) (found : ScrubFound)
  /-- R154. A write to VIN_CFG configures or enables the input ring, zeroing the counts, or is ignored with CFGERR. -/
  | vinCfg (m : Master) (v : Nat) (w : Word)
  /-- R156. A write of the consumed count frees input ring entries, or is ignored with CONSERR. -/
  | vinCons (m : Master) (v : Nat) (w : Word)
  /-- R252. A write of 1 resets the vent. -/
  | vctlReset (m : Master) (v : Nat)
  /-- R240. A write of 1 makes NMI pending. -/
  | vnmiRaise (m : Master) (v : Nat)
  /-- R251. A write of 1 makes the MESSAGE interrupt pending. -/
  | vintSetMsg (m : Master) (v : Nat)
  /-- R251. A write of 1 makes the SOFT interrupt pending. -/
  | vintSetSoft (m : Master) (v : Nat)
  /-- R241. A write to VWDOG sets the period and reloads the watchdog count. -/
  | vwdog (m : Master) (v : Nat) (w : Word)
  /-- R241. The watchdog count expires, raising cause 50 or, on a second expiry, resetting the vent. -/
  | watchdog (v : Nat)
  /-- R251. The local TIMEBASE reaches VTIMECMP and the TIMER source becomes pending. -/
  | timer (v : Nat)
  /-- R235. HOLDCNT reaches 0 and the pending asynchronous events can be taken. -/
  | holdExpiry (v : Nat)
  /-- R230. At a permitted boundary the vent takes the highest pending asynchronous event and enters its handler. -/
  | asyncEntry (v : Nat)
  /-- R157. A fixed-delay load writes its destination at bundle i + d. -/
  | loadLanding (v : Nat)
  /-- R162. The response to a far or device-register load writes the destination and clears its scoreboard bit. -/
  | farLoadResponse (v n : Nat)
  /-- R165. A non-resumable long operation writes its result and clears its scoreboard bit. -/
  | longOperationComplete (v n : Nat)
  /-- R166. The oldest store buffer entry drains to caldera memory or the matrix. -/
  | storeBufferDrain (v : Nat)
  /-- R238. Writing 1 to DEFERQ.POP removes the oldest deferred-fault entry. -/
  | deferqPop (v : Nat)
  /-- R188. Copies a source to the destination. -/
  | mov (v : Nat) (e : OpEnc)
  /-- R188. Writes a 32-bit immediate to a register. -/
  | movi (v : Nat) (e : OpEnc)
  /-- R188. Adds two operands. -/
  | add (v : Nat) (e : OpEnc)
  /-- R188. Subtracts two operands. -/
  | sub (v : Nat) (e : OpEnc)
  /-- R188. Adds an immediate to a register in AG. -/
  | addi (v : Nat) (e : OpEnc)
  /-- R190. Negates a source. -/
  | neg (v : Nat) (e : OpEnc)
  /-- R190. Takes the absolute value of a source. -/
  | abs (v : Nat) (e : OpEnc)
  /-- R190. Adds with saturation. -/
  | adds (v : Nat) (e : OpEnc)
  /-- R190. Subtracts with saturation. -/
  | subs (v : Nat) (e : OpEnc)
  /-- R188. Signed minimum. -/
  | min (v : Nat) (e : OpEnc)
  /-- R188. Signed maximum. -/
  | max (v : Nat) (e : OpEnc)
  /-- R188. Unsigned minimum. -/
  | minu (v : Nat) (e : OpEnc)
  /-- R188. Unsigned maximum. -/
  | maxu (v : Nat) (e : OpEnc)
  /-- R188. Bitwise AND. -/
  | and (v : Nat) (e : OpEnc)
  /-- R188. Bitwise OR. -/
  | or (v : Nat) (e : OpEnc)
  /-- R188. Bitwise exclusive OR. -/
  | xor (v : Nat) (e : OpEnc)
  /-- R188. A AND NOT B. -/
  | andn (v : Nat) (e : OpEnc)
  /-- R188. Bitwise NOT. -/
  | not (v : Nat) (e : OpEnc)
  /-- R190. Logical shift left. -/
  | shl (v : Nat) (e : OpEnc)
  /-- R190. Logical shift right. -/
  | shr (v : Nat) (e : OpEnc)
  /-- R190. Arithmetic shift right. -/
  | sar (v : Nat) (e : OpEnc)
  /-- R188. Rotate left. -/
  | rol (v : Nat) (e : OpEnc)
  /-- R188. Rotate right. -/
  | ror (v : Nat) (e : OpEnc)
  /-- R190. Extracts a bit field with zero extension. -/
  | extu (v : Nat) (e : OpEnc)
  /-- R190. Extracts a bit field with sign extension. -/
  | exts (v : Nat) (e : OpEnc)
  /-- R190. Inserts a bit field into the destination. -/
  | ins (v : Nat) (e : OpEnc)
  /-- R190. Counts leading zeros. -/
  | clz (v : Nat) (e : OpEnc)
  /-- R188. Counts one bits. -/
  | popc (v : Nat) (e : OpEnc)
  /-- R188. Reverses the four bytes. -/
  | bswap (v : Nat) (e : OpEnc)
  /-- R188. Low 32 bits of a product. -/
  | mul (v : Nat) (e : OpEnc)
  /-- R188. High 32 bits of a signed product. -/
  | mulhs (v : Nat) (e : OpEnc)
  /-- R188. High 32 bits of an unsigned product. -/
  | mulhu (v : Nat) (e : OpEnc)
  /-- R186. Writes equality to a predicate. -/
  | cmpeq (v : Nat) (e : OpEnc)
  /-- R186. Writes inequality to a predicate. -/
  | cmpne (v : Nat) (e : OpEnc)
  /-- R186. Writes signed less-than to a predicate. -/
  | cmplt (v : Nat) (e : OpEnc)
  /-- R186. Writes unsigned less-than to a predicate. -/
  | cmpltu (v : Nat) (e : OpEnc)
  /-- R186. Writes signed less-or-equal to a predicate. -/
  | cmple (v : Nat) (e : OpEnc)
  /-- R186. Writes unsigned less-or-equal to a predicate. -/
  | cmpleu (v : Nat) (e : OpEnc)
  /-- R186. Writes (A AND B) ≠ 0 to a predicate. -/
  | tst (v : Nat) (e : OpEnc)
  /-- R186. Predicate AND with optional negation. -/
  | pand (v : Nat) (e : OpEnc)
  /-- R186. Predicate OR with optional negation. -/
  | por (v : Nat) (e : OpEnc)
  /-- R186. Predicate XOR with optional negation. -/
  | pxor (v : Nat) (e : OpEnc)
  /-- R189. Branches by a word offset. -/
  | br (v : Nat) (e : OpEnc)
  /-- R189. Branches by a word offset and links A15. -/
  | brl (v : Nat) (e : OpEnc)
  /-- R189. Branches by an immediate byte offset. -/
  | brf (v : Nat) (e : OpEnc)
  /-- R189. Branches by an immediate byte offset and links A15. -/
  | brlf (v : Nat) (e : OpEnc)
  /-- R189. Jumps to a register target. -/
  | jr (v : Nat) (e : OpEnc)
  /-- R189. Jumps to a register target and links A15. -/
  | jrl (v : Nat) (e : OpEnc)
  /-- R197. Sets up a zero-overhead loop level. -/
  | loop (v : Nat) (e : OpEnc)
  /-- R180. Writes a system register. -/
  | mts (v : Nat) (e : OpEnc)
  /-- R180. Reads a system register. -/
  | mfs (v : Nat) (e : OpEnc)
  /-- R232. Raises the system-call trap after its bundle completes. -/
  | syscall (v : Nat) (e : OpEnc)
  /-- R232. Raises the breakpoint trap after its bundle completes. -/
  | brk (v : Nat) (e : OpEnc)
  /-- R235. Opens a hold window of up to N cycles within the budget. -/
  | hold (v : Nat) (e : OpEnc)
  /-- R231. Returns from a machine handler, restoring STAT from STS_M. -/
  | retm (v : Nat) (e : OpEnc)
  /-- R231. Returns from a supervisor handler, restoring LEVEL and SIE. -/
  | rets (v : Nat) (e : OpEnc)
  /-- R147. Clears STAT.NARROW at M, entering Broad mode after the shadow. -/
  | gobroad (v : Nat) (e : OpEnc)
  /-- R238. Waits for the scoreboard and outstanding writes, and makes deferred faults precise. -/
  | barrier (v : Nat) (e : OpEnc)
  /-- R174. Empties the line buffer and refetches. -/
  | isync (v : Nat) (e : OpEnc)
  /-- R188. Does nothing. -/
  | nop (v : Nat) (e : OpEnc)
  /-- R157. Loads a zero-extended value into a register. -/
  | ld (v : Nat) (e : OpEnc)
  /-- R157. Loads a sign-extended byte or half-word. -/
  | lds (v : Nat) (e : OpEnc)
  /-- R188. Loads binary32 or binary64 into an F register. -/
  | ldf (v : Nat) (e : OpEnc)
  /-- R166. Stores the low bits of a register. -/
  | st (v : Nat) (e : OpEnc)
  /-- R166. Stores the low bits of an F register. -/
  | stf (v : Nat) (e : OpEnc)
  /-- R210. Loads active vector elements from VRES on. -/
  | vld (v : Nat) (e : OpEnc)
  /-- R210. Stores active vector elements from VRES on. -/
  | vst (v : Nat) (e : OpEnc)
  /-- R188. Loads an aligned 64-byte block into vector registers. -/
  | vldl (v : Nat) (e : OpEnc)
  /-- R168. Stores an aligned 64-byte block, submitting an LCE job when the target is VJOB. -/
  | vstl (v : Nat) (e : OpEnc)
  /-- R188. Prefetches a line into the D-cache. -/
  | pref (v : Nat) (e : OpEnc)
  /-- R169. Waits until the store buffer is empty. -/
  | fence (v : Nat) (e : OpEnc)
  /-- R171. Writes back and invalidates D-cache lines of a range. -/
  | dcflush (v : Nat) (e : OpEnc)
  /-- R171. Invalidates D-cache lines of a range. -/
  | dcinv (v : Nat) (e : OpEnc)
  /-- R174. Invalidates I-cache lines of a range. -/
  | icinv (v : Nat) (e : OpEnc)
  /-- R191. Signed 32-bit division, quotient. -/
  | div (v : Nat) (e : OpEnc)
  /-- R191. Unsigned 32-bit division, quotient. -/
  | divu (v : Nat) (e : OpEnc)
  /-- R191. Signed 32-bit division, remainder. -/
  | rem (v : Nat) (e : OpEnc)
  /-- R191. Unsigned 32-bit division, remainder. -/
  | remu (v : Nat) (e : OpEnc)
  /-- R216. Floating-point divide as a long operation. -/
  | fdiv (v : Nat) (e : OpEnc)
  /-- R216. Floating-point square root as a long operation. -/
  | fsqrt (v : Nat) (e : OpEnc)
  /-- R193. Copies a block of elements. -/
  | movs (v : Nat) (e : OpEnc) (stop : Option Nat)
  /-- R193. Fills a block with a value. -/
  | fils (v : Nat) (e : OpEnc) (stop : Option Nat)
  /-- R193. Compares two blocks element by element. -/
  | cmps (v : Nat) (e : OpEnc) (stop : Option Nat)
  /-- R193. Scans a block for an element equal or unequal to a value. -/
  | scns (v : Nat) (e : OpEnc) (ne : Bool) (stop : Option Nat)
  /-- R222. Applies Keccak-f[1600] to a palette state, resumably. -/
  | vkeccak (v : Nat) (e : OpEnc) (stop : Option Nat)
  /-- R222. Performs the forward or inverse ML-KEM NTT on palette coefficients, resumably. -/
  | vntt (v : Nat) (e : OpEnc) (stop : Option Nat)
  /-- R207. Sets VL from an element count. -/
  | setvl (v : Nat) (e : OpEnc)
  /-- R212. Vector add. -/
  | vadd (v : Nat) (e : OpEnc)
  /-- R212. Vector subtract. -/
  | vsub (v : Nat) (e : OpEnc)
  /-- R212. Vector multiply, low bits. -/
  | vmul (v : Nat) (e : OpEnc)
  /-- R212. Vector multiply, high bits. -/
  | vmulh (v : Nat) (e : OpEnc)
  /-- R212. Vector minimum. -/
  | vmin (v : Nat) (e : OpEnc)
  /-- R212. Vector maximum. -/
  | vmax (v : Nat) (e : OpEnc)
  /-- R212. Vector bitwise logic. -/
  | vlog (v : Nat) (e : OpEnc)
  /-- R212. Vector move. -/
  | vmov (v : Nat) (e : OpEnc)
  /-- R212. Vector select by mask. -/
  | vsel (v : Nat) (e : OpEnc)
  /-- R212. Vector shift left. -/
  | vshl (v : Nat) (e : OpEnc)
  /-- R212. Vector shift right. -/
  | vshr (v : Nat) (e : OpEnc)
  /-- R212. Vector compare into a mask. -/
  | vcmp (v : Nat) (e : OpEnc)
  /-- R212. Vector less-or-equal compare into a mask. -/
  | vcmpl (v : Nat) (e : OpEnc)
  /-- R212. Vector saturating add. -/
  | vadds (v : Nat) (e : OpEnc)
  /-- R212. Vector saturating subtract. -/
  | vsubs (v : Nat) (e : OpEnc)
  /-- R214. Vector fixed-point rounding multiply. -/
  | vmulrh (v : Nat) (e : OpEnc)
  /-- R214. Vector rounding shift right. -/
  | vsrr (v : Nat) (e : OpEnc)
  /-- R212. Vector reduction into element 0. -/
  | vred (v : Nat) (e : OpEnc)
  /-- R212. Reads one vector element into a scalar register. -/
  | vgete (v : Nat) (e : OpEnc)
  /-- R212. Writes one vector element from a scalar register. -/
  | vsete (v : Nat) (e : OpEnc)
  /-- R212. Vector slide down. -/
  | vsldn (v : Nat) (e : OpEnc)
  /-- R212. Vector slide up. -/
  | vslup (v : Nat) (e : OpEnc)
  /-- R212. Reverses the bytes of each vector element. -/
  | vbswap (v : Nat) (e : OpEnc)
  /-- R212. Mask register logic. -/
  | klog (v : Nat) (e : OpEnc)
  /-- R212. Moves mask halves to or from scalar registers. -/
  | kmov (v : Nat) (e : OpEnc)
  /-- R212. Counts mask bits or finds the lowest set bit. -/
  | kpop (v : Nat) (e : OpEnc)
  /-- R216. Scalar floating-point add. -/
  | fadd (v : Nat) (e : OpEnc)
  /-- R216. Scalar floating-point subtract. -/
  | fsub (v : Nat) (e : OpEnc)
  /-- R216. Scalar floating-point multiply. -/
  | fmul (v : Nat) (e : OpEnc)
  /-- R215. Scalar fused multiply-add. -/
  | fma (v : Nat) (e : OpEnc)
  /-- R217. Scalar minimumNumber. -/
  | fmin (v : Nat) (e : OpEnc)
  /-- R217. Scalar maximumNumber. -/
  | fmax (v : Nat) (e : OpEnc)
  /-- R217. Scalar floating-point compare into a predicate. -/
  | fcmp (v : Nat) (e : OpEnc)
  /-- R218. Converts between integer and floating point. -/
  | fcvt (v : Nat) (e : OpEnc)
  /-- R216. Converts between binary32 and binary64. -/
  | fcvtf (v : Nat) (e : OpEnc)
  /-- R216. Sets or copies a floating-point sign. -/
  | fsgn (v : Nat) (e : OpEnc)
  /-- R216. Moves bits between F and scalar registers. -/
  | fmvx (v : Nat) (e : OpEnc)
  /-- R216. Classifies a floating-point value. -/
  | fclass (v : Nat) (e : OpEnc)
  /-- R216. Vector binary32 add. -/
  | vfadd (v : Nat) (e : OpEnc)
  /-- R216. Vector binary32 subtract. -/
  | vfsub (v : Nat) (e : OpEnc)
  /-- R216. Vector binary32 multiply. -/
  | vfmul (v : Nat) (e : OpEnc)
  /-- R216. Vector binary32 fused multiply-add. -/
  | vfma (v : Nat) (e : OpEnc)
  /-- R217. Vector binary32 minimum. -/
  | vfmin (v : Nat) (e : OpEnc)
  /-- R217. Vector binary32 maximum. -/
  | vfmax (v : Nat) (e : OpEnc)
  /-- R217. Vector binary32 compare into a mask. -/
  | vfcmp (v : Nat) (e : OpEnc)
  /-- R218. Vector conversion between int32 and binary32. -/
  | vfcvt (v : Nat) (e : OpEnc)
  /-- R216. Vector sign operations. -/
  | vfsgn (v : Nat) (e : OpEnc)
  /-- R349. Asserting JTAG_TRST_N resets the TAP. -/
  | jtagTrstN
  /-- R350. Boundary-scan EXTEST takes the balls from the part's logic. -/
  | extest (caught shifted : List Bool := [])
  /-- R349. Selects the identification register. -/
  | idcode
  /-- R349. Samples or preloads the boundary cells without disturbing operation. -/
  | samplePreload (caught shifted : List Bool := [])
  /-- R350. IEEE 1149.1 CLAMP, taking the balls from the logic. -/
  | clamp
  /-- R350. IEEE 1149.1 HIGHZ, taking the balls from the logic. -/
  | highz
  /-- R350. IEEE 1149.6 EXTEST_PULSE on the lanes. -/
  | extestPulse (caught shifted : List Bool := [])
  /-- R350. IEEE 1149.6 EXTEST_TRAIN on the lanes. -/
  | extestTrain (caught shifted : List Bool := [])
  /-- R351. Selects the debug access port that masters matrix port 24. -/
  | dap (o : DapOp := .select)
  /-- R349. Selects the bypass register. -/
  | bypass (op : Byte := 0xFF)
  /-- R109. An OFF-mode shaping channel node selects a staged frame, and Glaze issues its KIND 0 record for sealing at
  its natural size. -/
  | channelNodeSelect (p g : Nat) (cells : List Nat)
  /-- R237. The response to a drained far store buffer entry arrives, is counted for BARRIER, and a non-OKAY code appends
  a deferred fault to DEFERQ. -/
  | farWriteResponse (v : Nat)
  /-- R364. The gating of a caldera completes: the island is gated, its state is lost, PWR_CALSTAT shows OFF and a
  CALPOWER event is posted. -/
  | calderaGated (c : Nat)
  /-- R343. Rails that fell below 90 % return, the islands leave reset, and Priming starts at stage A while PORESET_N is
  high. -/
  | railsRecovered
  /-- R356. Signal returns on an open receive lane, clearing its LOS bit and starting the 100 ms count after which the
  lane returns. -/
  | signalRestored (p n : Nat)
  /-- R324. The MV firmware releases a caldera's vents from the reset in which Priming, unsealing or power-up holds them,
  and they fetch from VBOOT. -/
  | ventRelease (c : Nat)
  /-- R280. The host enables or disables VFs through the SR-IOV capability, which changes HB_STAT.NUMVF and which ISSUER
  values are accepted. -/
  | vfEnable (n : Nat)
deriving DecidableEq, Repr

end Sys2Proof
end

