-- ==== Sys2Proof/Decode.lean ====
section
/-! DEFINITION. The fields of the words that commands carry: ADMSQ descriptors (R293) and operations of vents (R175,
R187); and the commands that words spell. Every row of spec/opcode_table.json is a command or an event of the part
with no bits of its own ("fields" is empty in all 292 rows), so no word spells one. The operations of the vents carry
their own encoding as an operand, whose header and opcode are read here and whose other fields in Machine/Operands.lean. -/

namespace Sys2Proof

/-! ### ADMSQ descriptors (R293) -/

/-- OPCODE. -/
def AdmDesc.opcode (d : AdmDesc) : Nat := (d.bits.extractLsb' 0 8).toNat
/-- FENCE. -/
def AdmDesc.fence (d : AdmDesc) : Bool := d.bits.getLsbD 8
/-- ISSUER. -/
def AdmDesc.issuer (d : AdmDesc) : BitVec 6 := d.bits.extractLsb' 16 6
/-- PLEN. -/
def AdmDesc.plen (d : AdmDesc) : BitVec 16 := d.bits.extractLsb' 32 16
/-- TAG. -/
def AdmDesc.tag (d : AdmDesc) : BitVec 16 := d.bits.extractLsb' 48 16
/-- PADDR. -/
def AdmDesc.paddr (d : AdmDesc) : DWord := d.bits.extractLsb' 64 64
/-- RADDR. -/
def AdmDesc.raddr (d : AdmDesc) : DWord := d.bits.extractLsb' 128 64
/-- RLEN. -/
def AdmDesc.rlen (d : AdmDesc) : Word := d.bits.extractLsb' 192 32
/-- Whether a reserved bit is set. -/
def AdmDesc.rsv (d : AdmDesc) : Bool :=
  d.bits.extractLsb' 9 7 != 0 || d.bits.extractLsb' 22 10 != 0 || d.bits.extractLsb' 224 32 != 0

/-- Whether an OPCODE is in the table of R300. -/
def admOpcode (n : Nat) : Bool := decide (1 ≤ n) && decide (n ≤ 0x12)

/-! ### The header of an operation (R175) -/

/-- LAST. -/
def OpEnc.last (e : OpEnc) : Bool := e.w0.getLsbD 0
/-- LONG. -/
def OpEnc.long (e : OpEnc) : Bool := e.w0.getLsbD 1
/-- CLASS. -/
def OpEnc.cls (e : OpEnc) : BitVec 3 := e.w0.extractLsb' 2 3
/-- GUARD. -/
def OpEnc.guard (e : OpEnc) : BitVec 4 := e.w0.extractLsb' 5 4
/-- OPC. -/
def OpEnc.opc (e : OpEnc) : BitVec 6 := e.w0.extractLsb' 9 6
/-- The bits [31:15] after the header. -/
def OpEnc.lo (e : OpEnc) : BitVec 17 := e.w0.extractLsb' 15 17
/-- The second word of a 64-bit operation. -/
def OpEnc.hi (e : OpEnc) : Word := e.w1

/-- The operation whose header and other fields are the ones given (R175). -/
def opEnc (last long : Bool) (cls : BitVec 3) (guard : BitVec 4) (opc : BitVec 6) (lo : BitVec 17) (hi : Word) : OpEnc :=
  { w0 := lo ++ opc ++ guard ++ cls ++ BitVec.ofBool long ++ BitVec.ofBool last, w1 := hi }

/-! ### The opcode maps (R187) -/

/-- The operation of opcode n among runs of consecutive opcodes, each given by its first opcode. -/
def opInRuns (n : Nat) : List (Nat × List OpKind) → Option OpKind
  | [] => none
  | (a, ks) :: r => if a ≤ n ∧ n < a + ks.length then ks[n - a]? else opInRuns n r

/-- S0 and S1. -/
def mapS : List (Nat × List OpKind) := [
  (0x00, [.mov, .add, .sub, .neg, .abs, .adds, .subs, .min, .max, .minu, .maxu, .and, .or, .xor, .andn, .not]),
  (0x10, [.shl, .shr, .sar, .rol, .ror, .extu, .exts, .ins, .clz, .popc, .bswap]), (0x1C, [.mul, .mulhs, .mulhu]),
  (0x20, [.cmpeq, .cmpne, .cmplt, .cmpltu, .cmple, .cmpleu, .tst]), (0x2F, [.movi])]

/-- AG. -/
def mapAG : List (Nat × List OpKind) := [
  (0x00, [.nop, .mov, .add, .sub, .and, .or, .shl, .shr, .movi, .addi]), (0x10, [.pand, .por, .pxor]),
  (0x18, [.br, .brl, .brf, .brlf, .jr, .jrl, .loop]),
  (0x20, [.mts, .mfs, .syscall, .brk, .hold, .retm, .rets, .gobroad, .barrier, .isync])]

/-- LS0 and LS1. -/
def mapLS : List (Nat × List OpKind) := [
  (0x00, [.ld, .lds, .ldf, .st, .stf, .vld, .vst, .vldl, .vstl, .pref, .fence, .dcflush, .dcinv, .icinv])]

/-- X. -/
def mapX : List (Nat × List OpKind) := [
  (0x00, [.div, .divu, .rem, .remu, .fdiv, .fsqrt]), (0x10, [.movs, .fils, .cmps, .scnsEq, .scnsNe]),
  (0x20, [.vkeccak, .vntt])]

/-- VA and VB, with the reserved opcodes of R212 and R216 left out. -/
def mapV : List (Nat × List OpKind) := [
  (0x00, [.vadd, .vsub, .vmul, .vmulh, .vmin, .vmax, .vlog, .vmov, .vsel, .vshl, .vshr, .vcmp, .vcmpl, .vadds, .vsubs,
    .vmulrh, .vsrr, .vred, .vgete, .vsete, .vsldn, .vslup, .vbswap]),
  (0x20, [.vfadd, .vfsub, .vfmul, .vfma, .vfmin, .vfmax, .vfcmp, .vfcvt, .vfsgn]),
  (0x2C, [.fadd, .fsub, .fmul, .fma, .fmin, .fmax, .fcmp, .fcvt, .fcvtf, .fsgn, .fmvx, .fclass])]

/-- The configuration and mask operations, which VB has not. -/
def mapVA : List (Nat × List OpKind) := [(0x38, [.setvl, .klog, .kmov, .kpop])]

/-- The operation that a class and an opcode name; none where the opcode is reserved (R187). -/
def opAt (cls opc : Nat) : Option OpKind :=
  opInRuns opc (match cls with
    | 0 | 1 => mapS
    | 2 => mapAG
    | 3 | 4 => mapLS
    | 5 => mapV ++ mapVA
    | 6 => mapV
    | _ => mapX)

/-- The operation that an encoding's header names. -/
def OpEnc.op (e : OpEnc) : Option OpKind := opAt e.cls.toNat e.opc.toNat

/-- The command that a word of the table's bits spells: none, since no row gives bits. -/
def decodeTableWord (_nbits _w : Nat) : Option Instr := none

end Sys2Proof
end

