-- ==== Sys2Proof/Machine/Bits.lean ====
section
/-! DEFINITION. Bit fields, byte strings and small arithmetic shared by every unit. Multi-byte values are
little-endian (R3); byte strings and network fields are taken byte by byte. -/

namespace Sys2Proof.Machine

/-- Bits [hi:lo] of a number. -/
def nbits (x hi lo : Nat) : Nat := (x >>> lo) % 2 ^ (hi + 1 - lo)

/-- Bit i of a number. -/
def nbit (x i : Nat) : Bool := x.testBit i

/-- A Boolean as 0 or 1. -/
def b2n (b : Bool) : Nat := if b then 1 else 0

/-- Bits [hi:lo] of a word. -/
def wbits {n : Nat} (w : BitVec n) (hi lo : Nat) : Nat := nbits w.toNat hi lo

/-- The number with bits [hi:lo] replaced. -/
def nput (x hi lo v : Nat) : Nat :=
  (x >>> (hi + 1)) <<< (hi + 1) + ((v % 2 ^ (hi + 1 - lo)) <<< lo) + x % 2 ^ lo

/-- The little-endian number of a byte string. -/
def leNat : List Byte → Nat
  | [] => 0
  | b :: r => b.toNat + 256 * leNat r

/-- The n low bytes of a number, little-endian. -/
def leBytes : Nat → Nat → List Byte
  | 0, _ => []
  | n + 1, x => BitVec.ofNat 8 x :: leBytes n (x / 256)

/-- The big-endian (network) number of a byte string. -/
def beNat (bs : List Byte) : Nat := bs.foldl (fun a b => a * 256 + b.toNat) 0

/-- The n low bytes of a number, big-endian. -/
def beBytes (n x : Nat) : List Byte := (leBytes n x).reverse

/-- n bytes of a string from offset i, zeros beyond its end. -/
def slice (bs : List Byte) (i n : Nat) : List Byte :=
  let t := (bs.drop i).take n
  t ++ List.replicate (n - t.length) 0

/-- A string cut or zero-filled to n bytes. -/
def fit (bs : List Byte) (n : Nat) : List Byte := slice bs 0 n

/-- Byte i of a string, zero beyond its end. -/
def byteAt (bs : List Byte) (i : Nat) : Nat := (bs.getD i 0).toNat

/-- A string with its bytes from offset i replaced by `t`. -/
def splice (bs : List Byte) (i : Nat) (t : List Byte) : List Byte :=
  fit bs i ++ t ++ bs.drop (i + t.length)

/-- Exclusive OR of two strings, over the length of the first. -/
def xorBytes : List Byte → List Byte → List Byte
  | [], _ => []
  | a :: r, [] => a :: r
  | a :: r, b :: t => (a ^^^ b) :: xorBytes r t

/-- The bytes of a string of ASCII characters. -/
def ascii (s : String) : List Byte := s.toList.map (fun c => BitVec.ofNat 8 c.toNat)

/-- A string cut into pieces of n bytes (the last may be shorter); `fuel` bounds their number. -/
def chunks (n : Nat) : Nat → List Byte → List (List Byte)
  | 0, _ => []
  | _ + 1, [] => []
  | f + 1, bs => bs.take n :: chunks n f (bs.drop n)

/-- The least multiple of n that is at least x. -/
def roundUp (x n : Nat) : Nat := (x + n - 1) / n * n

/-- x as a signed number of w bits. -/
def sgn (w x : Nat) : Int := if x % 2 ^ w < 2 ^ (w - 1) then ((x % 2 ^ w : Nat) : Int) else ((x % 2 ^ w : Nat) : Int) - ((2 ^ w : Nat) : Int)

/-- The low w bits of a signed number. -/
def unsgn (w : Nat) (x : Int) : Nat := (x % ((2 ^ w : Nat) : Int)).toNat

/-- Bit-reversal of the low n bits. -/
def revBits : Nat → Nat → Nat
  | 0, _ => 0
  | n + 1, x => (x % 2) * 2 ^ n + revBits n (x / 2)

/-- The number of one bits among the low n. -/
def popCount : Nat → Nat → Nat
  | 0, _ => 0
  | n + 1, x => x % 2 + popCount n (x / 2)

/-- The numbers below n whose bit of x is 1. -/
def bitList (n x : Nat) : List Nat := (List.range n).filter (fun i => x.testBit i)

end Sys2Proof.Machine
end

