-- ==== Sys2Proof/Machine/Float.lean ====
section
/-! DEFINITION. IEEE 754-2019 binary32 and binary64 as R215 to R221 use it: exact results as a sign, a natural
mantissa and a power of two, rounded once. Flags are a 5-bit number in the order of FPFLAGS: NV 1, DZ 2, OF 4, UF 8,
NX 16. -/

namespace Sys2Proof.Machine

/-- A binary format: exponent width, fraction width. -/
structure FFmt where
  ew : Nat
  mw : Nat
deriving DecidableEq, Repr

/-- binary32. -/
def fmt32 : FFmt := ⟨8, 23⟩
/-- binary64. -/
def fmt64 : FFmt := ⟨11, 52⟩

/-- The format that SZ or EW 2 or 3 names (R204). -/
def fmtOf (ew : Nat) : FFmt := if ew = 3 then fmt64 else fmt32

/-- A value: a NaN (signalling or not), an infinity, or sign and mantissa times two to the exponent. -/
inductive FVal where
  | nan (signalling : Bool)
  | inf (neg : Bool)
  | fin (neg : Bool) (m : Nat) (e : Int)
deriving DecidableEq, Repr

/-- How an operation rounds and detects tininess: FPCTL.RM and FPCTL.UFE. -/
structure FCtl where
  rm : Nat
  ufe : Bool
deriving DecidableEq, Repr

/-- The exponent bias. -/
def FFmt.bias (f : FFmt) : Nat := 2 ^ (f.ew - 1) - 1
/-- The width in bits. -/
def FFmt.width (f : FFmt) : Nat := f.ew + f.mw + 1
/-- The exponent of the least quantum. -/
def FFmt.qmin (f : FFmt) : Int := 1 - (f.bias : Int) - f.mw
/-- The canonical NaN (R217). -/
def FFmt.qnan (f : FFmt) : Nat := (2 ^ (f.ew + 1) - 1) * 2 ^ (f.mw - 1)
/-- An infinity. -/
def FFmt.infBits (f : FFmt) (neg : Bool) : Nat := b2n neg * 2 ^ (f.ew + f.mw) + (2 ^ f.ew - 1) * 2 ^ f.mw
/-- The largest finite value. -/
def FFmt.maxBits (f : FFmt) (neg : Bool) : Nat := f.infBits neg - 1
/-- A zero. -/
def FFmt.zeroBits (f : FFmt) (neg : Bool) : Nat := b2n neg * 2 ^ (f.ew + f.mw)

/-- The value of an encoding. -/
def fdec (f : FFmt) (x : Nat) : FVal :=
  let neg := x.testBit (f.ew + f.mw)
  let e := nbits x (f.ew + f.mw - 1) f.mw
  let m := x % 2 ^ f.mw
  if e = 2 ^ f.ew - 1 then (if m = 0 then .inf neg else .nan (!m.testBit (f.mw - 1)))
  else if e = 0 then .fin neg m f.qmin
  else .fin neg (m + 2 ^ f.mw) (f.qmin + (e : Int) - 1)

/-- The number of bits of a mantissa. -/
def bitLen (m : Nat) : Nat := if m = 0 then 0 else Nat.log2 m + 1

/-- Whether a magnitude with quotient `keep`, remainder `rem` of 2^k and a sticky tail rounds up. -/
def roundsUp (rm : Nat) (neg : Bool) (keep rem k : Nat) (sticky : Bool) : Bool :=
  let inexact := decide (rem ≠ 0) || sticky
  match rm with
  | 0 =>
    let half := 2 ^ k / 2
    if k = 0 then false
    else decide (half < rem) || (decide (rem = half) && (sticky || keep % 2 = 1))
  | 1 => false
  | 2 => inexact && !neg
  | _ => inexact && neg

/-- m × 2^e, plus a positive tail too small to show when `sticky`, cut at the quantum 2^q and rounded. The second
component says whether it was inexact. -/
def cutAt (rm : Nat) (neg : Bool) (m : Nat) (e q : Int) (sticky : Bool) : Nat × Bool :=
  if q ≤ e then (m * 2 ^ (e - q).toNat, sticky)
  else
    let k := (q - e).toNat
    let keep := m / 2 ^ k
    let rem := m % 2 ^ k
    (keep + b2n (roundsUp rm neg keep rem k sticky), decide (rem ≠ 0) || sticky)

/-- Rounding of an exact non-zero result to a format: its encoding and flags (R215). Tininess is detected after
rounding; UF is set when the result is tiny and inexact, or tiny while FPCTL.UFE is 1. -/
def fround (f : FFmt) (c : FCtl) (neg : Bool) (m : Nat) (e : Int) (sticky : Bool) : Nat × Nat :=
  if m = 0 && !sticky then (f.zeroBits neg, 0)
  else
    let top : Int := e + (bitLen m : Int) - 1
    let emin : Int := f.qmin + f.mw
    let q : Int := max (top - f.mw) f.qmin
    let (r, inexact) := cutAt c.rm neg m e q sticky
    let tiny := decide (top < emin) &&
      !(decide (top = emin - 1) && (cutAt c.rm neg m e (top - f.mw) sticky).1 == 2 ^ (f.mw + 1))
    -- r is at most 2^(mw + 1), where the encoding's carry into the exponent is exact
    let ex : Int := q - f.qmin
    let enc := ex.toNat * 2 ^ f.mw + r
    if (2 ^ f.ew - 1) * 2 ^ f.mw ≤ enc then
      let toInf := c.rm = 0 || (c.rm = 2 && !neg) || (c.rm = 3 && neg)
      (if toInf then f.infBits neg else f.maxBits neg, 4 + 16)
    else (f.zeroBits neg + enc,
      (if inexact then 16 else 0) + (if tiny && (inexact || c.ufe) then 8 else 0))

/-- The sign of an exact zero sum of operands of opposite sign (R215). -/
def zeroSign (c : FCtl) : Bool := c.rm == 3

/-- Whether a value is a signalling NaN. -/
def FVal.isSnan : FVal → Bool
  | .nan s => s
  | _ => false

/-- Whether a value is a NaN. -/
def FVal.isNan : FVal → Bool
  | .nan _ => true
  | _ => false

/-- NV for a signalling NaN among the operands (R217). -/
def nvOf (vs : List FVal) : Nat := if vs.any FVal.isSnan then 1 else 0

/-- The exact sum of two finite values, rounded. -/
def faddFin (f : FFmt) (c : FCtl) (na : Bool) (ma : Nat) (ea : Int) (nb : Bool) (mb : Nat) (eb : Int) : Nat × Nat :=
  let e := min ea eb
  let xa := ma * 2 ^ (ea - e).toNat
  let xb := mb * 2 ^ (eb - e).toNat
  if na = nb then fround f c na (xa + xb) e false
  else if xa = xb then (f.zeroBits (zeroSign c), 0)
  else if xb < xa then fround f c na (xa - xb) e false
  else fround f c nb (xb - xa) e false

/-- Addition. -/
def faddV (f : FFmt) (c : FCtl) (a b : FVal) : Nat × Nat :=
  match a, b with
  | .nan _, _ => (f.qnan, nvOf [a, b])
  | _, .nan _ => (f.qnan, nvOf [a, b])
  | .inf x, .inf y => if x = y then (f.infBits x, 0) else (f.qnan, 1)
  | .inf x, _ => (f.infBits x, 0)
  | _, .inf y => (f.infBits y, 0)
  | .fin na ma ea, .fin nb mb eb => faddFin f c na ma ea nb mb eb

/-- A value with its sign changed. -/
def FVal.flip : FVal → FVal
  | .nan s => .nan s
  | .inf n => .inf (!n)
  | .fin n m e => .fin (!n) m e

/-- Multiplication. -/
def fmulV (f : FFmt) (c : FCtl) (a b : FVal) : Nat × Nat :=
  match a, b with
  | .nan _, _ => (f.qnan, nvOf [a, b])
  | _, .nan _ => (f.qnan, nvOf [a, b])
  | .inf x, .inf y => (f.infBits (x != y), 0)
  | .inf x, .fin y m _ => if m = 0 then (f.qnan, 1) else (f.infBits (x != y), 0)
  | .fin x m _, .inf y => if m = 0 then (f.qnan, 1) else (f.infBits (x != y), 0)
  | .fin na ma ea, .fin nb mb eb => fround f c (na != nb) (ma * mb) (ea + eb) false

/-- Fused d + a × b: rounded once; infinity times zero raises NV whatever d is (R215). -/
def fmaV (f : FFmt) (c : FCtl) (d a b : FVal) : Nat × Nat :=
  let bad := match a, b with
    | .inf _, .fin _ 0 _ => true
    | .fin _ 0 _, .inf _ => true
    | _, _ => false
  if bad then (f.qnan, 1)
  else if a.isNan || b.isNan || d.isNan then (f.qnan, nvOf [a, b, d])
  else match a, b with
    | .fin na ma ea, .fin nb mb eb =>
      match d with
      | .fin nd md ed => faddFin f c nd md ed (na != nb) (ma * mb) (ea + eb)
      | .inf x => (f.infBits x, 0)
      | .nan _ => (f.qnan, 0)
    | .inf x, .inf y => faddV f c d (.inf (x != y))
    | .inf x, .fin y _ _ => faddV f c d (.inf (x != y))
    | .fin x _ _, .inf y => faddV f c d (.inf (x != y))
    | _, _ => (f.qnan, 0)

/-- Division. -/
def fdivV (f : FFmt) (c : FCtl) (a b : FVal) : Nat × Nat :=
  match a, b with
  | .nan _, _ => (f.qnan, nvOf [a, b])
  | _, .nan _ => (f.qnan, nvOf [a, b])
  | .inf _, .inf _ => (f.qnan, 1)
  | .inf x, .fin y _ _ => (f.infBits (x != y), 0)
  | .fin x _ _, .inf y => (f.zeroBits (x != y), 0)
  | .fin na ma ea, .fin nb mb eb =>
    if mb = 0 then (if ma = 0 then (f.qnan, 1) else (f.infBits (na != nb), 2))
    else
      let k := 2 * f.mw + 8 + bitLen mb
      let n := ma * 2 ^ k
      fround f c (na != nb) (n / mb) (ea - eb - k) (decide (n % mb ≠ 0))

/-- The integer square root of m by bits, from bit `n - 1` down. -/
def isqrt (m : Nat) : Nat → Nat → Nat
  | 0, r => r
  | n + 1, r => let t := r + 2 ^ n; isqrt m n (if t * t ≤ m then t else r)

/-- Square root. -/
def fsqrtV (f : FFmt) (c : FCtl) (a : FVal) : Nat × Nat :=
  match a with
  | .nan _ => (f.qnan, nvOf [a])
  | .inf n => if n then (f.qnan, 1) else (f.infBits false, 0)
  | .fin n m e =>
    if m = 0 then (f.zeroBits n, 0)
    else if n then (f.qnan, 1)
    else
      -- an even exponent and enough bits for one rounding
      let k := 2 * f.mw + 8 + (if (e - (2 * f.mw + 8 : Nat)) % 2 = 0 then 0 else 1)
      let x := m * 2 ^ k
      let r := isqrt x (bitLen x / 2 + 1) 0
      fround f c false r ((e - k) / 2) (decide (r * r ≠ x))

/-- Order of two finite or infinite values: negative, zero or positive difference. -/
def fcmpV (a b : FVal) : Int :=
  match a, b with
  | .inf x, .inf y => if x = y then 0 else if x then -1 else 1
  | .inf x, _ => if x then -1 else 1
  | _, .inf y => if y then 1 else -1
  | .fin na ma ea, .fin nb mb eb =>
    let e := min ea eb
    let xa : Int := (ma * 2 ^ (ea - e).toNat : Nat)
    let xb : Int := (mb * 2 ^ (eb - e).toNat : Nat)
    (if na then -xa else xa) - (if nb then -xb else xb)
  | _, _ => 0

/-- FCMP of R217: sub-operation EQ, LT, LE or UNORD. -/
def fcmpOp (sub : Nat) (a b : FVal) : Bool × Nat :=
  let un := a.isNan || b.isNan
  let nv := if un && (sub = 1 || sub = 2) then 1 else nvOf [a, b]
  match sub with
  | 0 => (!un && fcmpV a b == 0, nv)
  | 1 => (!un && decide (fcmpV a b < 0), nv)
  | 2 => (!un && decide (fcmpV a b ≤ 0), nv)
  | _ => (un, nv)

/-- minimumNumber and maximumNumber on encodings, with −0 below +0 (R216, R217). -/
def fminmax (f : FFmt) (mx : Bool) (xa xb : Nat) : Nat × Nat :=
  let a := fdec f xa
  let b := fdec f xb
  let nv := nvOf [a, b]
  if a.isNan && b.isNan then (f.qnan, nv)
  else if a.isNan then (xb, nv)
  else if b.isNan then (xa, nv)
  else
    let d := fcmpV a b
    let aNeg := xa.testBit (f.ew + f.mw)
    let aLess := decide (d < 0) || (d == 0 && aNeg)
    (if aLess != mx then xa else xb, nv)

/-- Conversion of an integer. -/
def fofInt (f : FFmt) (c : FCtl) (x : Int) : Nat × Nat :=
  if x = 0 then (f.zeroBits false, 0) else fround f c (decide (x < 0)) x.natAbs 0 false

/-- Conversion to int32 (signed) or uint32, as the 32-bit result and flags (R218). -/
def ftoInt (c : FCtl) (signed : Bool) (a : FVal) : Nat × Nat :=
  let hi : Nat := if signed then 0x7FFFFFFF else 0xFFFFFFFF
  let lo : Nat := if signed then 0x80000000 else 0
  match a with
  | .nan _ => (hi, 1)
  | .inf n => (if n then lo else hi, 1)
  | .fin n m e =>
    let (r, inexact) := cutAt c.rm n m e 0 false
    let lim : Nat := if signed then (if n then 0x80000000 else 0x7FFFFFFF) else (if n then 0 else 0xFFFFFFFF)
    if lim < r then (if n then lo else hi, 1)
    else (if n then (2 ^ 32 - r) % 2 ^ 32 else r, if inexact then 16 else 0)

/-- Conversion between formats. -/
def fcvtFmt (dst : FFmt) (c : FCtl) (a : FVal) : Nat × Nat :=
  match a with
  | .nan _ => (dst.qnan, nvOf [a])
  | .inf n => (dst.infBits n, 0)
  | .fin n m e => if m = 0 then (dst.zeroBits n, 0) else fround dst c n m e false

/-- FCLASS (R216). -/
def fclassOf (f : FFmt) (x : Nat) : Nat :=
  let neg := x.testBit (f.ew + f.mw)
  let e := nbits x (f.ew + f.mw - 1) f.mw
  let m := x % 2 ^ f.mw
  let k := if e = 2 ^ f.ew - 1 then (if m = 0 then 3 else if m.testBit (f.mw - 1) then 4 else 5)
    else if e = 0 then (if m = 0 then 0 else 1) else 2
  k + 8 * b2n neg

/-- FSGN: absolute value, negation, or the sign of b (R216). -/
def fsgnOp (f : FFmt) (sub xa xb : Nat) : Nat :=
  let s := f.ew + f.mw
  let mag := xa % 2 ^ s
  let neg := match sub with
    | 0 => false
    | 1 => !xa.testBit s
    | _ => xb.testBit s
  b2n neg * 2 ^ s + mag

end Sys2Proof.Machine
end

