-- ==== Sys2Proof/Config.lean ====
section
/-! DEFINITION. What the spec leaves to the part: choices it calls unspecified and values it leaves open.
Each is an uninterpreted constant, so nothing proved of the model can rest on a particular value.
notes/assumptions/4.md lists them with the rule that leaves each open. -/

namespace Sys2Proof.Config

/-- R32: "The hash function itself is not specified". It covers the source number and the flow key, and
nothing else; BUCKET is the low 12 bits of its value. -/
opaque flowHash : Nat → List Byte → BitVec 32

/-- R306: the 8 positions that an exact-match key's hash names "are not specified". Argument 1 is the key,
argument 2 the position's number 0 to 7. -/
opaque emPosition : List Byte → Nat → Nat

/-- Random bytes: KC's random bit generator (R78), Glaze's SHAKE256 seeds (R118) and the hedging bytes of the
attestation signature (R336). Argument 1 is the draw's number (State.freeCtr), argument 2 the byte's number. -/
opaque randomByte : Nat → Nat → Byte

/-- A value the spec leaves open: argument 1 is the draw's number (State.freeCtr). -/
opaque freeNat : Nat → Nat

/-- R170 gives the D-cache 4 ways and no replacement rule: which way of a full set is given up. -/
opaque dcacheVictim : Nat → Nat

/-- R349: Olifoar's JEDEC manufacturer code, which the manual does not give. -/
opaque jedecCode : BitVec 11

/-- R281: Olifoar's PCIe Vendor ID, which the manual does not give. -/
opaque vendorId : BitVec 16

/-- R142: Easel does not promise "the placement at any instant". The vent that entry b of bank 0 names before any
migration, taken modulo the vents present. -/
opaque initialVent : Nat → Nat

/-- R132: the LCE that the map names for vent v before Easel changes it, taken modulo the LCEs present. -/
opaque initialLce : Nat → Nat

/-- R260: which of the four PB ports serves a cell, modulo 4; the spec gives no interleaving. -/
opaque pbPort : Nat → Nat

/-- R260: which of its caldera's two ports a vent's far accesses take, modulo 2; the spec does not say. -/
opaque calPort : Nat → Nat

/-- R260: which of its caldera's two ports a DMA channel's accesses take, modulo 2; the spec does not say. -/
opaque dmaPort : Nat → Nat

/-- R285: whether the completion that failed the part's read of a host address at a time was poisoned data; the command that
brings the failure does not say. -/
opaque poisonedTlp : Nat → Nat → Bool

end Sys2Proof.Config
end

