-- ==== Sys2Proof/Machine/State.lean ====
section
/-! DEFINITION. The state of the SZ1600 as plain data: every register, store, queue, counter, mode and ball that the
spec gives the part, and the queue of commands that wait. Every structure's field defaults are its values at reset;
INVENTORY.md lists each field with its rule. -/

namespace Sys2Proof.Machine

/-- Why a step stops with a fault. No command of the part has one: an event the part does not admit leaves it as it
stands, and an error the spec describes is recorded in registers (R7, R262). `nothing` closes the type; no meaning
raises it (safe). -/
inductive Fault where
  | nothing
deriving DecidableEq, Repr

/-- Why a step has no meaning. `notModelled`: an arm of exec not yet given its meaning (raised by exec's arms alone;
safe). `noSuchEncoding`: an operation whose CLASS has no opcode for its mnemonic, so no word of R187 spells it (raised
by the operations of the vents; safe). -/
inductive Refusal where
  | notModelled (mnemonic : String)
  | noSuchEncoding (mnemonic : String)
deriving DecidableEq, Repr

/-! ### Vents -/

/-- A write of a register of a vent: a scalar register (R179), a predicate (R186), bits of a V register (the mask
names them; F registers are bits [63:0] of V, R202), bits of a K register. -/
inductive RegW where
  | gpr (n : Nat) (w : Word)
  | pred (n : Nat) (b : Bool)
  | vreg (n : Nat) (val mask : BitVec 512)
  | kreg (n : Nat) (val mask : DWord)
deriving DecidableEq, Repr

/-- A store buffer entry (R166): one aligned 64-byte block at its matrix address, with the enabled bytes, the level
and vent address it issued with, and whether it is far and cacheable (R259, R168). -/
structure SbEntry where
  block : Nat := 0
  bytes : FMap Byte := []
  far : Bool := false
  cache : Bool := false
  level : BitVec 2 := 3
  vaddr : Nat := 0
  seq : Nat := 0
deriving DecidableEq, Repr

/-- A fixed-delay load that has issued (R157): its writes, and the number of the first bundle that reads them. -/
structure FixedLoad where
  due : Nat := 0
  writes : List RegW := []
deriving DecidableEq, Repr

/-- Where a far load's data go: a scalar register (width in bytes, sign), an F register (width 4 or 8), or a V
register. -/
inductive FarDest where
  | gpr (n w : Nat) (signed : Bool)
  | freg (n w : Nat)
  | vreg (n : Nat)
deriving DecidableEq, Repr

/-- One piece of a far load: matrix address, bytes, the byte of the destination it fills, the element it belongs to, and
whether it goes through the D-cache. `accepted`: the island it reads was being gated while it was already on its way;
`ended`: the island's converters have ended it with DOMAIN_OFF (R277). -/
structure FarPiece where
  maddr : Nat := 0
  len : Nat := 0
  dst : Nat := 0
  vaddr : Nat := 0
  elem : Nat := 0
  cache : Bool := false
  accepted : Bool := false
  ended : Bool := false
deriving DecidableEq, Repr

/-- An outstanding far load or device-register load (R162). `ready`: elements' bytes that were found at issue (element,
byte of the destination, bytes) and are written with the rest of their element (R209). `kept`: bytes as they stood before
a younger write of the vent's own palette or caldera memory (R144). `later`: registers and bits that an operation later in the
load's own bundle writes, which prevails (R144). `depth`: the handlers under way below every one that has been entered since
the load issued (R246). -/
structure FarLoad where
  dest : FarDest := .gpr 0 4 false
  pieces : List FarPiece := []
  ready : List (Nat × Nat × List Byte) := []
  kept : FMap Byte := []
  level : BitVec 2 := 3
  seq : Nat := 0
  absorbed : Bool := false
  later : List RegW := []
  depth : Nat := 0
deriving DecidableEq, Repr

/-- An outstanding non-resumable long operation (R162): its writes and the FPFLAGS it sets when it ends (R219). -/
structure LongOp where
  writes : List RegW := []
  flags : BitVec 5 := 0
deriving DecidableEq, Repr

/-- An entry of the deferred-fault queue (R238). `wait`: of a load that was outstanding as a handler was entered, the number of
handlers under way at which its fault can be taken (R246). -/
structure DeferEntry where
  kind : BitVec 2 := 0
  store : Bool := false
  vec : Bool := false
  reg : BitVec 5 := 0
  level : BitVec 2 := 3
  addr : Word := 0
  wait : Option Nat := none
deriving DecidableEq, Repr

/-- A line of the D-cache (R170): its matrix address, data, and whether it is dirty. -/
structure DLine where
  block : Nat := 0
  data : BitVec 512 := 0
  dirty : Bool := false
deriving DecidableEq, Repr

/-- A line of the I-cache or of the line buffer (R149, R174): its matrix address and data; `bad`: a parity error stands in an
I-cache line. -/
structure ILine where
  block : Nat := 0
  data : BitVec 512 := 0
  bad : Bool := false
deriving DecidableEq, Repr

/-- The registers a handler of one level finds (R230): RTA, STS, CAUSE, FADDR, TBASE. -/
structure ExcRegs where
  rta : Word := 0
  sts : Word := 0
  cause : Word := 0
  faddr : Word := 0
  tbase : Word := 0
deriving DecidableEq, Repr

/-- Zero-overhead loops and circular buffers: LCNTn, LBEGn, LENDn, CBn, CLn (R197, R183). -/
structure LoopRegs where
  lcnt : FMap Word := []
  lbeg : FMap Word := []
  lend : FMap Word := []
  cb : FMap Word := []
  cl : FMap Word := []
deriving DecidableEq, Repr

/-- Vector and floating-point state (R202, R203, R215): V0–V31 (F0–F31 are their bits [63:0]), K1–K7, VL, VTYPE,
VRES, LPROG, FPCTL, FPFLAGS. -/
structure VecRegs where
  v : FMap (BitVec 512) := []
  k : FMap DWord := []
  vl : Word := 0
  vtype : Word := 0
  vres : Word := 0
  lprog : Word := 0
  fpctl : Word := 0
  fpflags : Word := 0
deriving DecidableEq, Repr

/-- The hold window (R235, R236). -/
structure HoldRegs where
  count : BitVec 12 := 0
  budget : BitVec 12 := 0x200
  ovr : Bool := false
  max : BitVec 12 := 0x200
  haddr : Word := 0
deriving DecidableEq, Repr

/-- What a vent has under way: the bundle being handed over, loads and long operations not yet written, the store
buffer, far writes awaiting their response (code, entry), the D-cache, the deferred-fault queue (R162 to R170, R237), the
I-cache with the line used last first, and the line buffer (R174). `handlers`: the causes whose handlers have been entered
and have not returned, innermost first (R238, R246). `narrowFault`: a far store of Narrow mode failed and the next bundle
raises cause 10 (R145). -/
structure VentFlight where
  bundle : List (OpKind × OpEnc × Option Nat) := []
  loads : List FixedLoad := []
  far : List FarLoad := []
  longs : List LongOp := []
  sbuf : List SbEntry := []
  farWrites : List (RespCode × SbEntry) := []
  dcache : List DLine := []
  deferq : List DeferEntry := []
  deferOvf : Bool := false
  handlers : List Nat := []
  icache : List ILine := []
  lbuf : List ILine := []
  narrowFault : Bool := false
  seq : Nat := 0
  bno : Nat := 0
deriving DecidableEq, Repr

/-- The input ring of a vent and the items that wait to enter it (R154, R155). -/
inductive Item where
  | frame (fid : Nat)
  | marker (migno : Nat)
  | slot (p g : Nat) (fid : Nat)
deriving DecidableEq, Repr

/-- VIN_CFG, VIN_CONS, VIN_PROD, VIN_STAT[2:0], the items waiting at the producer (R154 to R156), and the number of items
delivered since the ring was enabled, of which VIN_PROD holds the low 32 bits. -/
structure VentIn where
  cfg : Word := 0
  cons : Word := 0
  prod : Word := 0
  stat : BitVec 3 := 0
  items : List Item := []
  count : Nat := 0
deriving DecidableEq, Repr

/-- The event registers of a vent in its caldera's block (R251), NMI and watchdog (R240, R241), VPERF_ISSUE. -/
structure VentEvt where
  pend : BitVec 6 := 0
  en : Word := 0
  timecmp : DWord := BitVec.allOnes 64
  wdog : Word := 0
  wdDue : DWord := 0
  wdPend : Bool := false
  wdOnce : Bool := false
  nmiPend : Bool := false
  mcPend : Option Word := none
  excStat : BitVec 8 := 0
  mcAddr : Word := 0
  boot : Word := 0x0010_0000
  perfIssue : DWord := 0
deriving DecidableEq, Repr

/-- One vent, or the MV (number 96). `held`: kept in reset until released (R324). `isolating`: reset and waiting for
its port isolator (R278). `halted`: by the debug access port, which lets it execute one more bundle while `single` holds
(R351). `shadowStat` and `shadowRgn`: writes of STAT and RGN that the mode shadow still holds back
(R244); `shadowOpen` says that the next bundle is the shadow. `badRegs`: cells of the register file that are uncorrectable
(R239): n for scalar register n, 32 + 16n + k for bits [32k + 31:32k] of V register n. `upAt`, `downAt`: the ticks since which
it has reported to Easel in every period, and at which it was last put in reset (R123). -/
structure Vent where
  held : Bool := true
  isolating : Bool := false
  upAt : DWord := 0
  downAt : DWord := 0
  halted : Bool := false
  single : Bool := false
  pc : Word := 0x0010_0000
  r : FMap Word := []
  pred : Byte := 1
  stat : Word := 7
  astat : Word := 0
  deleg : Word := 0
  tbLatch : Word := 0
  m : ExcRegs := {}
  s : ExcRegs := {}
  loop : LoopRegs := {}
  vec : VecRegs := {}
  hold : HoldRegs := {}
  winbase : FMap Word := []
  rgn : FMap DWord := []
  shadowOpen : Bool := false
  shadowStat : Option Word := none
  shadowRgn : List (Nat × Word) := []
  badRegs : List Nat := []
  fl : VentFlight := {}
  inp : VentIn := {}
  evt : VentEvt := {}
deriving DecidableEq, Repr

/-! ### Calderas, power, ports -/

/-- PWR_CALSTAT of a caldera (R364). -/
inductive CalPower where
  | off | gating | powering | on
deriving DecidableEq, Repr

/-- One caldera: power, clock in MHz (R362), the island's copy of TIMEBASE (R12), the write-protected ranges
(R332), the last Easel period's telemetry (R143), the highest reading of each period not yet planned on, by its number
(R123, R362), whether it has reached the throttling threshold and not cooled since (R140), and the tick at which a gating
began (R277). -/
structure Cal where
  power : CalPower := .off
  clk : Nat := 0
  tbCopy : DWord := 0
  prot : List (Nat × Nat) := []
  occ : Byte := 0
  temp : Byte := 0
  hot : FMap Byte := []
  warm : Bool := false
  gateTick : DWord := 0
deriving DecidableEq, Repr

/-- Power and thermal registers (POWER block). TEMP: reading and VALID by sensor. -/
structure Power where
  shut : Bool := false
  syslost : Bool := false
  tbdrift : Bool := false
  rstsrc : BitVec 2 := 0
  err : BitVec 7 := 0
  alerten : BitVec 7 := 0
  throttle : Byte := 100
  shutdown : Byte := 110
  calgate : BitVec 12 := 0
  vclk : BitVec 12 := 1500
  temp : FMap (BitVec 9) := []
  vmon : FMap (BitVec 12) := []
  railLow : Bool := false
  tripped : Bool := false
deriving DecidableEq, Repr

/-- One port (PORTS block): links, breakout, lanes with signal, lane faults, eye registers, polarity, reference, fallback
permissions, and a breakout change in progress with its command (R367). `lanes`: the lanes a sub-port has used since its
last link-up
(R355). `losPend`, `losTick`: lanes whose LOS has cleared less than 100 ms ago, and when (R356). -/
structure Port where
  link : Byte := 0
  brkout : BitVec 2 := 0
  signal : Byte := 0
  los : Byte := 0
  losPend : Byte := 0
  losTick : FMap DWord := []
  txfault : Byte := 0
  eyelow : Byte := 0
  polinv : Byte := 0
  fecdeg : Byte := 0
  reflost : Bool := false
  refb : Bool := false
  fallPerm : BitVec 3 := 0
  eye : FMap (BitVec 16) := []
  lanes : FMap Byte := []
  lanemap : FMap Nat := []
  newBrk : Option (BitVec 2 × Nat) := none
deriving DecidableEq, Repr

/-- A sub-port: maximum frame size (R29), the frame being transmitted with its bytes and whether its FCS is inverted (R92),
frames transmitted, and its node's class lists (R103). -/
structure SubPort where
  maxframe : Nat := 1518
  txing : Option Nat := none
  txBytes : List Byte := []
  txBad : Bool := false
  sent : Nat := 0
  active : FMap (List Nat) := []
deriving DecidableEq, Repr

/-- A transfer that a management master drives onto its bus (R315): an MDIO or I²C master, the device, the register, the
MDIO device address, and the bytes written (none: a read). -/
structure MgmtXfer where
  mdio : Bool := false
  bus : Nat := 0
  dev : Nat := 0
  wide : Bool := false
  reg : Nat := 0
  devad : Nat := 0
  data : Option (List Byte) := none
deriving DecidableEq, Repr

/-- Optics management (R352, R353): I²C and MDIO masters' speeds of MGMTBUS, enabled and stuck bits. -/
structure Mgmt where
  out : Option MgmtXfer := none
  i2cSpeed : FMap Nat := []
  mdioSpeed : FMap Nat := []
  i2cEn : BitVec 4 := 0
  i2cStuck : BitVec 4 := 0
  mdioEn : BitVec 2 := 0
deriving DecidableEq, Repr

/-- The data register that a TAP instruction selects (R349, IEEE 1149.1). -/
inductive TapReg where
  | ident | boundary | bypass | debug
deriving DecidableEq, Repr

/-- The JTAG TAP (R349): the instruction register, the data register it selects, the word it captures, the bypass bit,
the boundary-scan cells as captured and as shifted in (in the chain's order), whether the balls have been taken (R350),
and the last read of the debug access port (R351). -/
structure Jtag where
  ir : Byte := 1
  sel : TapReg := .ident
  dr : Word := 0
  bypassBit : Bool := false
  caught : List Bool := []
  cells : List Bool := []
  taken : Bool := false
  dapData : List Byte := []
  dapCode : RespCode := .okay
deriving DecidableEq, Repr

/-! ### Context and key store -/

/-- Key slot states (R55). -/
inductive SlotState where
  | empty | ready | live | spent | slotSealed | draining
deriving DecidableEq, Repr

/-- Slot metadata (R50). -/
structure SlotMeta where
  expiry : DWord := 0
  limit : BitVec 56 := 0
  an : BitVec 2 := 0
  state : SlotState := .empty
  klen : BitVec 2 := 0
  softSent : Bool := false
deriving DecidableEq, Repr

/-- A window word (R50). -/
structure WinWord where
  handle : Nat := 0
  wok : Bool := false
  wue : Bool := false
deriving DecidableEq, Repr

/-- A context record (R49): both parameter blocks, slot metadata, NEXTNUM, HIGH, window words, status; and whether
an uncorrectable error stands in what each slot keeps in the record (R71), bit s for slot s. -/
structure CtxRec where
  blk0 : BitVec 384 := 0
  blk1 : BitVec 384 := 0
  slots : FMap SlotMeta := []
  next : FMap DWord := []
  high : FMap DWord := []
  win : FMap WinWord := []
  curTx : Bool := false
  noKeySent : Bool := false
  ue : Byte := 0
deriving DecidableEq, Repr

/-- A key slot (R52): 64 bytes as byte strings, byte i of a field in bits [8i+7:8i]. -/
structure KeySlot where
  key : BitVec 256 := 0
  salt : BitVec 96 := 0
  hsub : BitVec 128 := 0
  tagid : Word := 0
deriving DecidableEq, Repr

/-- A key command that waits for its slot's drain (R60, R66): the write that follows it, or the emptying; the frames with
vents that have selected the slot, and whether the command is KEY_DERIVE_KEM (R75). -/
structure DrainJob where
  ctx : Nat := 0
  slot : Nat := 0
  load : Option (KeySlot × SlotMeta × DWord) := none
  cmd : Nat := 0
  frames : List Nat := []
  kem : Bool := false
deriving DecidableEq, Repr

/-- KEY_DERIVE_KEM, KEY_X25519 and ATTEST work that waits for a sealed caldera (R75, R336). -/
inductive KeyWork where
  | kemGen (ctx slot : Nat) (raddr : DWord)
  | kemDecaps (ctx slot q : Nat) (ct cs info : List Byte) (load : SlotMeta × Nat × Word × DWord)
  | xGen (ctx slot : Nat) (raddr : DWord)
  | xAgree (ctx slot q : Nat) (toSlot : Bool) (peer : List Byte) (raddr : DWord)
  | attest (nonce : List Byte) (raddr : DWord)
deriving DecidableEq, Repr

/-- The store's registers (CTX block), replay windows and their owners, drains, TXTAKE ports with the requests not yet
performed in the order in which they reached the store (R59), the TXTAKE results that no job has used yet (vent, key slot,
R66), the number of the last 10 ms period whose scan is done (R61), final checks of this Easel period and the last (key
16·period
+ bank, R134), sealed key work. -/
structure Store where
  ctxs : FMap CtxRec := []
  keys : FMap KeySlot := []
  windows : FMap (BitVec 1024) := []
  winOwner : FMap Nat := []
  drains : List DrainJob := []
  txReq : FMap (BitVec 128) := []
  txQueue : List Nat := []
  picks : List (Nat × Nat) := []
  txRes : FMap (BitVec 128) := []
  err : BitVec 7 := 0
  errAddr : Word := 0
  softTime : DWord := 0x3B9A_CA00
  scanned : Nat := 0
  finals : FMap Nat := []
  ueKeys : List Nat := []
  kemSealed : Option Nat := none
  kemQueue : List (Nat × KeyWork) := []
  kemIdleAt : DWord := 0
deriving DecidableEq, Repr

/-! ### Configuration sets -/

/-- Set attributes of a sub-port (R26, R308). -/
structure SubAttr where
  cipher : Bool := false
  partner : Nat := 0xFF
  missHost : Bool := false
  check : Bool := true
  missq : Nat := 0
deriving DecidableEq, Repr

/-- The result of a rule (R32): ACTION, CTX, RDATA. -/
structure RuleRes where
  action : Nat := 0
  ctx : Nat := 0
  rdata : Nat := 0
deriving DecidableEq, Repr

/-- An exact-match entry, or no entry (R306). -/
structure EmEntry where
  key : List Byte := []
  res : RuleRes := {}
deriving DecidableEq, Repr

/-- A wildcard rule: value, mask and result (R32). -/
structure WildRule where
  value : List Byte := []
  mask : List Byte := []
  res : RuleRes := {}
deriving DecidableEq, Repr

/-- A distribution table pair (R117). -/
structure TablePair where
  sizes : List Nat := []
  intervals : List Nat := []
deriving DecidableEq, Repr

/-- One configuration set (R81) less the context parameter blocks, which the context records hold. -/
structure ConfigSet where
  sub : FMap SubAttr := []
  em : FMap EmEntry := []
  wild : FMap WildRule := []
  wprof : FMap (BitVec 19) := []
  gprof : FMap (BitVec 512) := []
  tables : FMap TablePair := []
deriving DecidableEq, Repr

/-- Both sets and SET_STAT (R85). `flipped` lists the sources that stamp the new epoch while a flip runs. -/
structure Sets where
  set0 : ConfigSet := {}
  set1 : ConfigSet := {}
  epoch : Bool := false
  pending : Bool := false
  flipping : Bool := false
  copying : Bool := false
  swaps : BitVec 24 := 0
  flipped : List Nat := []
  cmd : Nat := 0
deriving DecidableEq, Repr

/-! ### Frames -/

/-- Where a frame is on its path. -/
inductive Stage where
  | waiting (v : Nat)        -- steered to vent v, its entry not yet delivered (R155)
  | heldSrc                  -- kept in the port buffer until its source is switched (R137)
  | heldMig (bank bucket : Nat)   -- held by a migration (R127)
  | atVent (v : Nat)
  | chained                  -- between the two jobs of a chain (R38)
  | inRack                   -- its job done; waits in the rack (R40)
  | piece                    -- a joined or waiting carrier piece (R116)
  | queued (q : Nat)
  | spilled (q : Nat)
  | staged (p g : Nat)       -- carried by a Glaze channel
  | slotPlain (p g : Nat)    -- a slot plaintext awaiting sealing (R107)
  | slotSealed (p g : Nat)
  | txing (src : Nat)
deriving DecidableEq, Repr

/-- What the LCE recognised in a decrypted frame (R116): a carrier's FID, OFF, PLEN and TOTAL with its slot. -/
structure Carrier where
  ctx : Nat := 0
  slot : Nat := 0
  fid : Nat := 0
  off : Nat := 0
  plen : Nat := 0
  total : Nat := 0
deriving DecidableEq, Repr

/-- What a vent tests of a received frame's security header (R35, R36), kept from its header record (R31): a SecTAG's TCI and
AN, its SCI, and the bytes from an ESP header to the datagram's end. -/
structure SecHdr where
  tci : Nat := 0
  sci : List Byte := []
  espLen : Nat := 0
deriving DecidableEq, Repr

/-- A frame in the part: its cells, the fields of its frame descriptor (R31), the records kept beside it (R43, R69),
and its place on the path. `qtick` is the ready tick of a staged frame (R108); `spillAt` the matrix address of its bytes
while in HBM (R98, R99);
`wire` and `desc` the wire time and descriptor of a slot frame (R107, R108), `gfid` the number of the frame that a piece
belongs to; `hfunc` the function of a host frame's ring (R124); `bad`: an uncorrectable error was met in a cell (R92). -/
structure Frame where
  stage : Stage := .inRack
  cells : List Nat := []
  len : Nat := 0
  tick : DWord := 0
  epoch : Bool := false
  role : Bool := false
  src : Nat := 0
  bucket : Nat := 0
  kind : Nat := 0
  trunc : Bool := false
  frag : Bool := false
  ticket : Word := 0
  l3off : Nat := 0xFF
  l4off : Nat := 0xFF
  secoff : Nat := 0xFF
  sec : SecHdr := {}
  nvlan : Nat := 0
  rule : Nat := 0
  rtype : Bool := false
  hit : Bool := false
  action : Nat := 0
  ctx : Nat := 0
  rdata : Nat := 0
  win : Nat := 0
  encDone : Bool := false
  decDone : Bool := false
  stagedJob : Bool := false
  jobGlaze : Bool := false
  jobGchan : Nat := 0
  queue : Nat := 0
  qtick : DWord := 0
  carrier : Option Carrier := none
  spillAt : Nat := 0
  wire : Nat := 0
  desc : BitVec 256 := 0
  hfunc : Nat := 0
  bad : Bool := false
  gfid : Option Nat := none
deriving DecidableEq, Repr

/-- An LCE job accepted from a vent (R37, R168): the LCE, the vent, whether it follows a CHAIN = 1 job of the vent, the
64 bytes. -/
structure Job where
  lce : Nat := 0
  vent : Nat := 0
  follows : Bool := false
  desc : BitVec 512 := 0
deriving DecidableEq, Repr

/-- An open ticket of the rack (R40): bucket, ticket, stamp. -/
structure OpenTicket where
  bucket : Nat := 0
  ticket : Word := 0
  tick : DWord := 0
deriving DecidableEq, Repr

/-- A frame that carrier pieces are rebuilding in the rack (R116). -/
structure OpenPiece where
  ctx : Nat := 0
  slot : Nat := 0
  fid : Nat := 0
  frame : Nat := 0
  got : Nat := 0
  total : Nat := 0
deriving DecidableEq, Repr

/-- Intake and the frames on the path: role alarms, drop counters (key 64·s + c, R45), the limiter's tokens (R23),
tickets, by bank and bucket the next vent of a dealt bucket (R125) and the last ticket delivered (R127), frames, jobs,
the vents whose last job was CHAIN = 1 with its LCE, those
whose CHAIN = 1 job failed before its successor ran (R37), the rack. -/
structure Path where
  alarmP : Word := 0
  alarmC : Word := 0
  alarmAlert : Bool := false
  drops : FMap DWord := []
  tokens : Nat := 2097152
  lastTicket : FMap Word := []
  deal : FMap Nat := []
  dealtTo : FMap Word := []
  frames : FMap Frame := []
  nextFid : Nat := 0
  jobs : List Job := []
  chain : FMap (Option Nat) := []
  chainBad : List Nat := []
  opens : List OpenTicket := []
  pieces : List OpenPiece := []
deriving DecidableEq, Repr

/-! ### Queues and Glaze -/

/-- A QM queue: the fields of its context (R93) that are not derived, its frames on die and in HBM, and its spill
segments with the bytes used in the last (R99). -/
structure Queue where
  valid : Bool := false
  dkind : Nat := 0
  subport : Nat := 0
  gchan : Nat := 0
  wprof : Nat := 0
  tenant : Nat := 0
  spilled : Bool := false
  limit : Nat := 0
  spillth : Nat := 0
  deficit : Nat := 0
  ondie : List Nat := []
  hbm : List Nat := []
  segs : List (Nat × List Nat) := []
  tailUsed : Nat := 0
  cmd : Option Nat := none
deriving DecidableEq, Repr

/-- QM's registers, the cache's contents (most recent first, R97), segments in use, tenant caps (R138). -/
structure Qm where
  queues : FMap Queue := []
  cache : List Nat := []
  spillBase : Nat := 0x0010_0200
  spillSegs : Nat := 0x10_0000
  segUsed : List Nat := []
  caps : FMap Nat := []
  err : BitVec 5 := 0
  errAddr : Nat := 0
deriving DecidableEq, Repr

/-- A Glaze shaping channel (R108): the profile epoch in force (R86) and the open slot's, the profile that the open slot
opened under (R120), whether a slot schedule runs, the open slot's start and length in 1/64 ns, its nominal size, slot number,
an epoch that reached the channel after the open slot's end with the tick at which it did (R4, R120), FID, the frame
carried in pieces with the bytes
sent, the slot frames issued in slot order, the frames carried in pieces that a drop has counted (R113), the generator's seed
and its draws since that seed (R118), and the node's class lists (R103). `stale` marks an open slot whose profile is of a set
that has left (R88). FID starts at 0, which the spec does not say
(notes/assumptions/51.md). -/
structure Channel where
  epoch : Bool := false
  slotEp : Bool := false
  prof : BitVec 512 := 0
  stale : Bool := false
  turn : Option (Bool × Nat) := none
  running : Bool := false
  start : Nat := 0
  len : Nat := 0
  size : Nat := 0
  slotNo : Nat := 0
  fid : BitVec 16 := 0
  carry : Option (Nat × Nat) := none
  slots : List Nat := []
  counted : List Nat := []
  draws : Nat := 0
  seed : List Byte := []
  active : FMap (List Nat) := []
deriving DecidableEq, Repr

/-- Glaze's channels (key 1024·p + g) and registers. -/
structure Glaze where
  chans : FMap Channel := []
  err : BitVec 2 := 0
  late : FMap DWord := []
  dummy : FMap DWord := []
deriving DecidableEq, Repr

/-! ### Easel -/

/-- A steering entry (R124) with the tick at which its last migration ended (R131). -/
structure Steer where
  vent : Nat := 0
  spread : Nat := 0
  mig : Bool := false
  valid : Bool := false
  fromV : Nat := 0
  fromSpr : Nat := 0
  ended : Option DWord := none
deriving DecidableEq, Repr

/-- A migration in progress (R127): vents that have not acknowledged, those whose markers have reached the palette with
the tick, those already reported late (R130), and what it holds. -/
structure Migration where
  migno : Word := 0
  bank : Nat := 0
  bucket : Nat := 0
  fromV : Nat := 0
  toV : Nat := 0
  start : DWord := 0
  unacked : List Nat := []
  arrived : FMap DWord := []
  late : List Nat := []
  lastTicket : Word := 0
  held : List Item := []
deriving DecidableEq, Repr

/-- A reservation (R137): function, calderas, sources. -/
structure Reserve where
  func : Nat := 0
  cals : BitVec 12 := 0
  srcs : Word := 0
deriving DecidableEq, Repr

/-- Which constraint is in progress (R136). -/
inductive ConstraintOp where
  | reserve | release | exclude
deriving DecidableEq, Repr

/-- An EASEL_CONSTRAIN in progress (R137, R139): its command, reservation or newly excluded calderas, and whether the
bank has been filled. -/
structure Constraint where
  cmd : Nat := 0
  op : ConstraintOp := .exclude
  group : Nat := 0
  cals : BitVec 12 := 0
  filled : Bool := false
deriving DecidableEq, Repr

/-- Easel: banks (key 4096·j + b), LCE map, bank of each source (host rings of function f are source 32 + f), the
sources being switched with their new bank, migrations and their count, reservations, exclusions, registers, the last
period planned and its migrations still to start, the constraint in progress, contexts copied by caldera (R135), calderas
being replaced (R335), the slot records (port, channel, frame) that wait in Glaze while their source is switched, and the
caldera that Easel empties to be sealed (R75). -/
structure Easel where
  steer : FMap Steer := []
  lceMap : FMap Nat := []
  srcBank : FMap Nat := []
  switching : List (Nat × Nat) := []
  migs : List Migration := []
  migno : Word := 0
  reserves : FMap Reserve := []
  excl : BitVec 12 := 0
  cfg : Word := 0x0080_0000
  err : BitVec 2 := 0
  planned : Nat := 0
  todo : List (Nat × Nat × Nat × Nat) := []
  constrain : Option Constraint := none
  ctxCache : FMap (List Nat) := []
  draining : BitVec 12 := 0
  heldSlots : List (Nat × Nat × Nat) := []
  toSeal : Option Nat := none
deriving DecidableEq, Repr

/-! ### Host bridge -/

/-- Ring kinds (R287). -/
inductive RingKind where
  | admsq | admcq | tohost | fromhost | event
deriving DecidableEq, Repr

/-- A ring (R288): registers, whether it is halted, its statistics (R313). `phase` is the
PHASE of a part-produced ring's present pass; `nosnoop` marks the part's accesses for the ring (R292); `skip` is a SKIP
that waits until the part can issue requests for the ring's function, with the TAG of the descriptor passed over (R317,
R318). -/
structure Ring where
  kind : RingKind := .admsq
  func : Nat := 0
  log : Nat := 6
  rbase : DWord := 0
  bbase : DWord := 0
  blog : Nat := 11
  vec : Option Nat := none
  nosnoop : Bool := false
  prod : Nat := 0
  cons : Nat := 0
  phase : Bool := true
  halted : Bool := false
  late : Bool := false
  hstat : Byte := 0
  entries : DWord := 0
  bytes : DWord := 0
  halts : Word := 0
  skip : Option (BitVec 16) := none
deriving DecidableEq, Repr

/-- An MSI-X vector (R298): table entry, Mask, PBA bit, pending count and first tick, moderation, messages sent. -/
structure MsixVec where
  addr : DWord := 0
  data : Word := 0
  mask : Bool := true
  pba : Bool := false
  n : Nat := 0
  t0 : DWord := 0
  count : Byte := 1
  time : BitVec 10 := 0
  sent : Nat := 0
deriving DecidableEq, Repr

/-- A held event (R297), with the number of events lost just before it and the tick of the last of them. -/
structure HeldEvent where
  lost : Nat := 0
  lostTick : DWord := 0
  word : BitVec 128 := 0
deriving DecidableEq, Repr

/-- A function's PCIe state: Bus Master Enable, power state D3hot (R280), MSI-X Enable and Function Mask, events held, and
those lost since the last of them (R297). -/
structure Func where
  bme : Bool := false
  d3hot : Bool := false
  msixEn : Bool := false
  msixMask : Bool := false
  held : List HeldEvent := []
  lost : Nat := 0
  lostTick : DWord := 0
deriving DecidableEq, Repr

/-- A completion the host received for a BAR request (R283, R285). -/
inductive Cpl where
  | none | ok (data : List Byte) | poisoned | abort | unsupported
deriving DecidableEq, Repr

/-- A locked AtomicOp whose write is not yet sent (R264): target port, matrix address, bytes to write, the bytes that the
locked read returned, the tick it started at, and whether the matrix has ended it. -/
structure Lock where
  target : Nat := 0
  addr : Nat := 0
  bytes : List Byte := []
  old : List Byte := []
  start : DWord := 0
  ended : Bool := false
deriving DecidableEq, Repr

/-- A request that the part sends to the host: the requester's function, No Snoop (R286, R292), write or read, address
and length. -/
structure HostReq where
  func : Nat := 0
  nosnoop : Bool := false
  write : Bool := false
  addr : Nat := 0
  len : Nat := 0
deriving DecidableEq, Repr

/-- Host windows (R286). -/
structure HostWin where
  base : DWord := 0
  cfg : BitVec 8 := 0
deriving DecidableEq, Repr

/-- The host bridge: link, registers, rings, vectors (key 2048·f + v), functions, the last completion returned, the
requests sent, the last of them first, the host address of a window read that is failing (R285, R286), and the PF's AER
uncorrectable error status (R280). -/
structure Hb where
  linkup : Bool := false
  speed : BitVec 3 := 0
  width : BitVec 5 := 0
  flit : Bool := false
  ari : Bool := false
  numvf : Nat := 0
  err : BitVec 7 := 0
  errAddr : DWord := 0
  sqbase : DWord := 0
  cqbase : DWord := 0
  cfg : BitVec 24 := 0
  stagebase : DWord := 0x0100_0000
  hwin : FMap HostWin := []
  rings : FMap Ring := []
  vecs : FMap MsixVec := []
  funcs : FMap Func := []
  cpl : Cpl := .none
  req : List HostReq := []
  failing : Option Nat := none
  aer : Word := 0
deriving DecidableEq, Repr

/-- What an admin command names for the waiting rule (R372). -/
inductive AdmObj where
  | ctxBlock (c : Nat) | keySlot (c s : Nat) | emKey (k : List Byte) | wildIdx (i : Nat) | subport (s : Nat)
  | queue (q : Nat) | wprof (w : Nat) | chan (p g : Nat) | table (t : Nat) | i2c (n : Nat) | mdio (n : Nat)
  | alone
deriving DecidableEq, Repr

/-- An admin command whose completion is not yet written (R294, R299). STATUS is none while it is in progress. -/
structure AdmCmd where
  id : Nat := 0
  tag : BitVec 16 := 0
  status : Option Nat := none
  detail : Nat := 0
  result : Nat := 0
  sqhead : Nat := 0
  atAccept : Bool := false
  discard : Bool := false
  objs : List AdmObj := []
deriving DecidableEq, Repr

/-- An FW_STAGE APPLY in progress (R335): its command, the locked range (R334), the image's SVN and digest, and the
calderas replaced so far. -/
structure FwJob where
  cmd : Nat := 0
  addr : Nat := 0
  len : Nat := 0
  svn : Nat := 0
  dig : List Byte := []
  done : List Nat := []
deriving DecidableEq, Repr

/-- The MV's admin command queue: accepted commands in ring order, and whether acceptance has stopped at a failure
(R316). `closing`: ADM_CFG.EN was cleared and the rings end with the last completion. -/
structure Adm where
  cmds : List AdmCmd := []
  nextId : Nat := 1
  stopped : Bool := false
  closing : Bool := false
  fw : Option FwJob := none
deriving DecidableEq, Repr

/-! ### DMA, matrix, HBM -/

/-- DMA channel states (R271). -/
inductive DmaState where
  | idle | run | wait | done | halted
deriving DecidableEq, Repr

/-- What a channel's registers held before it fetched its present descriptor. -/
structure DmaBefore where
  src : DWord := 0
  dst : DWord := 0
  left : Word := 0
  fill : BitVec 16 := 0
deriving DecidableEq, Repr

/-- A DMA channel: registers, the current descriptor (valid once fetched), and a failed burst awaiting its retry with the
address of its access that failed and the tick of its last response. -/
structure Dma where
  state : DmaState := .idle
  cause : Nat := 0
  retries : Nat := 0
  limit : Nat := 0
  failed : Option RespCode := none
  failAddr : Nat := 0
  failTick : Nat := 0
  evt : Bool := false
  desc : DWord := 0
  cur : Option (BitVec 256) := none
  before : DmaBefore := {}
  src : DWord := 0
  dst : DWord := 0
  left : Word := 0
  pace : Word := 0
  level : Word := 0
  fill : BitVec 16 := 0
  errAddr : DWord := 0
deriving DecidableEq, Repr

/-- The matrix registers (R265, R264), locks held, DMA_RETRY, the channels, and those whose descriptor fetch waits for a lock,
in the order of their arrival (R279). -/
structure Mx where
  park : FMap (BitVec 6) := []
  err : BitVec 3 := 0
  errInfo : BitVec 12 := 0
  lockTo : Word := 0
  locks : List Lock := []
  dma : FMap Dma := []
  dmaRetry : BitVec 4 := 3
  mvNotice : Nat := 0
  waiting : List Nat := []
deriving DecidableEq, Repr

/-- HBM: trained stacks, zero map (marked 1 MiB regions as the number next to zero and the set zeroed out of order,
R268), registers, poisoned 32-byte words, words with an error that nothing has met yet and whether it is uncorrectable (R266),
and the uncorrectable words of on-die stores (R239, R92). -/
structure Hbm where
  trained : BitVec 4 := 0
  zeroing : Bool := false
  zeroNext : Nat := 0
  zeroed : List Nat := []
  err : BitVec 4 := 0
  errAddr : DWord := 0
  ceCount : Word := 0
  scrubPass : Word := 0
  poison : List Nat := []
  latent : FMap Bool := []
  badWords : List Nat := []
deriving DecidableEq, Repr

/-! ### The whole part -/

/-- The variants (R1). -/
inductive Variant where
  | sz1600A | sz1600X | sz1200A | sz0800A
deriving DecidableEq, Repr

/-- The fuses (R333), the only state a reset keeps. -/
structure Fuses where
  variant : Variant := .sz1600A
  rootDig : BitVec 256 := 0
  idSeed : BitVec 768 := 0
  svn : BitVec 64 := 0
  serial : DWord := 0
  testLock : Bool := true
deriving DecidableEq, Repr

/-- Where Priming stands (R322 to R326). `reset` holds while PORESET_N or a rail keeps the islands in reset. -/
inductive Phase where
  | reset | stageA | hostWait | verify | stageB | primed | failed
deriving DecidableEq, Repr

/-- GLOBAL block state and what Priming and APPLY leave: whether HOSTWAIT has been set since PORESET_N (`cfgReady`,
R322), whether the staging area is closed (`stagingShut`, from GO to a retryable FAIL, R327), the sections in force
(DEST, bytes),
digests, IDPK. The thermal and other records of the board description are in the structures that they configure. -/
structure Global where
  errStat : BitVec 3 := 0
  swap : Bool := false
  phase : Phase := .reset
  cfgReady : Bool := false
  stagingShut : Bool := false
  goIgn : Bool := false
  fail : Byte := 0
  failDetail : Byte := 0
  attempts : Byte := 0
  runSvn : BitVec 7 := 0
  appSvn : BitVec 7 := 0
  applied : Bool := false
  sections : List (Nat × List Byte) := []
  primImg : List Byte := []
  appImg : List Byte := []
  mvDigs : List (List Byte) := []
  bdDig : List Byte := []
  idpk : List Byte := []
  mvEntry : Nat := 0
deriving DecidableEq, Repr

/-- The input balls (R347, R346): PORESET_N, TEST_EN, PCIE_PERST_N (high at reset, notes/assumptions/5.md). The output balls
PRIMED, ALERT_N and SHUTREQ_N are functions of the state (Machine/Views.lean). -/
structure Balls where
  poresetN : Bool := false
  perstN : Bool := true
  testEn : Bool := false
deriving DecidableEq, Repr

/-- The 64-bit registers' latches (R257): high words latched by a read of the low word and low words latched by a
write, by the matrix address of the register. -/
structure Latches where
  rd : FMap Word := []
  wr : FMap Word := []
deriving DecidableEq, Repr

/-- The state of the part. `mem` holds every byte-addressed store at its matrix address in the SWAP = 0 view (boot
ROM, MV SRAM, caldera memories, palettes, PB cells, HBM); `hostMem` the host memory the part has written; unlisted
bytes read as zero. `freeCtr` numbers the draws of values the spec leaves open (the model's own). -/
structure State where
  pending : List Instr := []
  timebase : DWord := 0
  freeCtr : Nat := 0
  balls : Balls := {}
  fuses : Fuses := {}
  glob : Global := {}
  latch : Latches := {}
  mem : List Host.Cell := []
  hostMem : List Host.Cell := []
  vents : FMap Vent := []
  cals : FMap Cal := []
  power : Power := {}
  ports : FMap Port := []
  subs : FMap SubPort := []
  mgmt : Mgmt := {}
  jtag : Jtag := {}
  store : Store := {}
  sets : Sets := {}
  path : Path := {}
  qm : Qm := {}
  glaze : Glaze := {}
  easel : Easel := {}
  hb : Hb := {}
  adm : Adm := {}
  mx : Mx := {}
  hbm : Hbm := {}
deriving DecidableEq, Repr

/-- The part right after reset: PORESET_N low, every store empty, every register at its reset value (R321). -/
def State.reset : State := {}

end Sys2Proof.Machine
end

