-- ==== Sys2Proof/Machine/Operands.lean ====
section
/-! DEFINITION. The encodings of the vents' operations (R175 to R187, R204, formats, fields, the operands an
operation names, which encodings raise cause 0, and which registers an operation touches. -/

namespace Sys2Proof.Machine

/-- The encoding formats of R176. V0: the vector and floating-point forms; K: VKECCAK and VNTT. -/
inductive Format where
  | rm | r | m | l | b | j | s | i | p | x | n | v | vmem | k
deriving DecidableEq, Repr

/-- What an operand position takes: nothing, a source (register, memory or immediate), a destination (register or
memory), a scalar register, a predicate, an F or V register, or an address specifier. -/
inductive OKind where
  | none | src | dst | gReg | pReg | fReg | vReg | kReg | mem
deriving DecidableEq, Repr

/-- An operand as format R or M names it. -/
inductive Opnd where
  | absent | reg (n : Nat) | spec (sp : Nat)
deriving DecidableEq, Repr

/-- The format of each operation (R187). -/
def opFormat : OpKind → Format
  | .mov | .add | .sub | .neg | .abs | .adds | .subs | .min | .max | .minu | .maxu | .and | .or | .xor | .andn | .not
  | .shl | .shr | .sar | .rol | .ror | .extu | .exts | .ins | .clz | .popc | .bswap | .mul | .mulhs | .mulhu
  | .cmpeq | .cmpne | .cmplt | .cmpltu | .cmple | .cmpleu | .tst | .div | .divu | .rem | .remu => .rm
  | .jr | .jrl | .dcflush | .dcinv | .icinv | .fdiv | .fsqrt => .r
  | .ld | .lds | .ldf | .st | .stf | .vldl | .vstl | .pref => .m
  | .movi | .addi | .brf | .brlf => .l
  | .br | .brl => .b
  | .loop => .j
  | .mts | .mfs => .s
  | .syscall | .brk | .hold => .i
  | .pand | .por | .pxor => .p
  | .movs | .fils | .cmps | .scnsEq | .scnsNe => .x
  | .nop | .fence | .retm | .rets | .gobroad | .barrier | .isync => .n
  | .vld | .vst => .vmem
  | .vkeccak | .vntt => .k
  | .setvl | .vadd | .vsub | .vmul | .vmulh | .vmin | .vmax | .vlog | .vmov | .vsel | .vshl | .vshr | .vcmp | .vcmpl
  | .vadds | .vsubs | .vmulrh | .vsrr | .vred | .vgete | .vsete | .vsldn | .vslup | .vbswap | .klog | .kmov | .kpop
  | .fadd | .fsub | .fmul | .fma | .fmin | .fmax | .fcmp | .fcvt | .fcvtf | .fsgn | .fmvx | .fclass
  | .vfadd | .vfsub | .vfmul | .vfma | .vfmin | .vfmax | .vfcmp | .vfcvt | .vfsgn => .v

/-- Whether a command's mnemonic and its encoding agree: the header names the operation, or an opcode that is reserved,
which no mnemonic has and which raises cause 0 (R187). -/
def opSpelt (k : OpKind) (e : OpEnc) : Bool :=
  match e.op with
  | some k' => k' == k
  | none => true

/-- Operands D, A and B of the operations of formats R and M (R188). -/
def opSig : OpKind → OKind × OKind × OKind
  | .mov | .neg | .abs | .not | .clz | .popc | .bswap => (.dst, .src, .none)
  | .cmpeq | .cmpne | .cmplt | .cmpltu | .cmple | .cmpleu | .tst => (.pReg, .src, .src)
  | .div | .divu | .rem | .remu => (.gReg, .src, .src)
  | .fdiv => (.fReg, .fReg, .fReg)
  | .fsqrt => (.fReg, .fReg, .none)
  | .jr | .jrl => (.none, .gReg, .none)
  | .dcflush | .dcinv | .icinv => (.none, .gReg, .gReg)
  | .ld | .lds => (.gReg, .mem, .none)
  | .ldf => (.fReg, .mem, .none)
  | .st => (.mem, .gReg, .none)
  | .stf => (.mem, .fReg, .none)
  | .vldl => (.vReg, .mem, .none)
  | .vstl => (.mem, .vReg, .none)
  | .pref => (.none, .mem, .none)
  | _ => (.dst, .src, .src)

/-- Operations that extend memory sources with their sign (R188). -/
def opSigned : OpKind → Bool
  | .add | .sub | .neg | .abs | .adds | .subs | .min | .max | .sar | .mulhs | .cmplt | .cmple | .div | .rem => true
  | _ => false

/-! ### Fields -/

/-- Bits [hi:lo] of the first word, numbered as in the word (bit 15 is the lowest after the header). -/
def fld (e : OpEnc) (hi lo : Nat) : Nat := nbits e.lo.toNat (hi - 15) (lo - 15)

/-- The second word, zero in a 32-bit operation. -/
def hiw (e : OpEnc) : Nat := if e.long then e.hi.toNat else 0

/-- Bits [hi:lo] of the second word, numbered from 32 as in R176. -/
def fldH (e : OpEnc) (hi lo : Nat) : Nat := nbits (hiw e) (hi - 32) (lo - 32)

/-- SZ or EW. -/
def fSZ (e : OpEnc) : Nat := fld e 16 15
/-- D, REG1. -/
def fD (e : OpEnc) : Nat := fld e 21 17
/-- A, REG2. -/
def fA (e : OpEnc) : Nat := fld e 26 22
/-- B. -/
def fB (e : OpEnc) : Nat := fld e 31 27
/-- KIND. -/
def fKIND (e : OpEnc) : Nat := fld e 29 27
/-- KM. -/
def fKM (e : OpEnc) : Nat := fldH e 34 32
/-- BX. -/
def fBX (e : OpEnc) : Bool := fldH e 35 35 == 1
/-- BI. -/
def fBI (e : OpEnc) : Bool := fldH e 36 36 == 1
/-- SUB. -/
def fSUB (e : OpEnc) : Nat := fldH e 38 37
/-- IMM of format V. -/
def fIMM (e : OpEnc) : Nat := fldH e 63 48

/-- The words of an operation. -/
def opWords (e : OpEnc) : Nat := if e.long then 2 else 1

/-- Takes the next register and specifier fields for operand positions in order (R176). -/
def fillOp (k : OKind) (isSpec : Bool) (regs specs : List Nat) : Opnd × List Nat × List Nat :=
  match k with
  | .none => (.absent, regs, specs)
  | _ => if isSpec then (.spec (specs.headD 0), regs, specs.tail) else (.reg (regs.headD 0), regs.tail, specs)

/-- Operands D, A and B, and the register and specifier fields of format M left unused, which are zero (R176). Format R has
no reserved field, and R200 names no fault for a field of it that the operation does not use. -/
def opOperands (k : OpKind) (e : OpEnc) : (Opnd × Opnd × Opnd) × List Nat :=
  let (kd, ka, kb) := opSig k
  if e.long then
    let kind := fKIND e
    let (d, r1, s1) := fillOp kd (nbit kind 0) [fD e, fA e] [fldH e 47 32, fldH e 63 48]
    let (a, r2, s2) := fillOp ka (nbit kind 1) r1 s1
    let (b, r3, s3) := fillOp kb (nbit kind 2) r2 s2
    ((d, a, b), r3 ++ s3)
  else
    let one := fun (kk : OKind) (n : Nat) => if kk = .none then Opnd.absent else Opnd.reg n
    ((one kd (fD e), one ka (fA e), one kb (fB e)), [])

/-! ### Specifiers -/

/-- MODE, REG and EXT of a specifier (R181). -/
def spMode (sp : Nat) : Nat := nbits sp 15 12
/-- REG. -/
def spReg (sp : Nat) : Nat := nbits sp 11 8
/-- EXT. -/
def spExt (sp : Nat) : Nat := nbits sp 7 0
/-- The immediate of mode 8, sign-extended to 32 bits (R177). -/
def spImm (sp : Nat) : Int := sgn 12 (nbits sp 11 0)

/-- Whether a specifier's fields are admitted (R182): `dest` for a D operand, `ag` for an AG operation. -/
def specOk (sp : Nat) (dest ag : Bool) : Bool :=
  let m := spMode sp
  decide (m ≤ 8) && !(dest && m == 8) && (!ag || m == 8) &&
  !((m == 3 || m == 4 || m == 5 || m == 6) && decide (8 ≤ spExt sp)) && !(m == 5 && decide (3 < spReg sp))

/-- Whether a specifier makes a memory access. -/
def specMem (sp : Nat) : Bool := spMode sp != 8

/-- Whether an operand suits its position (R179, R200). -/
def opndOk (k : OKind) (o : Opnd) (dest ag : Bool) : Bool :=
  match k, o with
  | .none, .absent => true
  | .src, .reg n => decide (n < 28)
  | .src, .spec sp => specOk sp false ag
  | .dst, .reg n => decide (n < 28)
  | .dst, .spec sp => specOk sp true ag
  | .gReg, .reg n => decide (n < 28)
  | .pReg, .reg n => decide (n < 8)
  | .kReg, .reg n => decide (n < 8)
  | .fReg, .reg _ => true
  | .vReg, .reg _ => true
  | .mem, .spec sp => specOk sp dest ag
  | _, _ => false

/-- Whether an operand is a memory operand. -/
def opndMem : Opnd → Bool
  | .spec sp => specMem sp
  | _ => false

/-- Whether SZ is admitted (R177, R188). DESIGN CHOICE: a load admits its sizes with a specifier of mode 8 too, which is no
memory operand (notes/assumptions/10.md). -/
def szOk (k : OpKind) (e : OpEnc) : Bool :=
  let ((d, a, b), _) := opOperands k e
  let z := fSZ e
  match k with
  | .fdiv | .fsqrt | .ldf => z == 2 || z == 3
  | .stf => true
  | .lds => z == 0 || z == 1
  | .ld | .st | .pref => z != 3
  | .vldl | .vstl => z == 2
  | _ => if opndMem d || opndMem a || opndMem b then z != 3 else z == 2

/-- Formats R and M: every check of R176, R177, R179, R181 and R182. -/
def rmOk (k : OpKind) (e : OpEnc) : Bool :=
  let (kd, ka, kb) := opSig k
  let ((d, a, b), unused) := opOperands k e
  let ag := e.cls.toNat == 2
  unused.all (· == 0) && szOk k e && opndOk kd d true ag && opndOk ka a false ag && opndOk kb b false ag &&
  (!e.long || (fKIND e != 0 && fKIND e != 7 && fld e 31 30 == 0 &&
    !(kd == .none && nbit (fKIND e) 0) && !(ka == .none && nbit (fKIND e) 1) && !(kb == .none && nbit (fKIND e) 2))) &&
  !((k == .vldl && fD e % 2 == 1) || (k == .vstl && fD e % 2 == 1))

/-! ### Format V -/

/-- What format V's operand B takes besides a register: nothing else, a scalar by BX or BI, or only those. -/
inductive BKind where
  | vec | opt | need | imm | movb
deriving DecidableEq, Repr

/-- The register kinds of D, A and B, how B can be scalar, the SUB values, the EW values, and whether KM is used
(R205, R207, R212, R216). -/
def vSig : OpKind → OKind × OKind × OKind × BKind × List Nat × List Nat × Bool
  | .setvl => (.gReg, .gReg, .none, .imm, [0], [0, 1, 2, 3], false)
  | .vadd | .vsub | .vmul => (.vReg, .vReg, .vReg, .opt, [0], [0, 1, 2], true)
  | .vmulh | .vmin | .vmax => (.vReg, .vReg, .vReg, .opt, [0, 1], [0, 1, 2], true)
  | .vlog => (.vReg, .vReg, .vReg, .opt, [0, 1, 2, 3], [0, 1, 2, 3], true)
  | .vmov => (.vReg, .vReg, .none, .movb, [0], [0, 1, 2, 3], true)
  | .vsel => (.vReg, .vReg, .vReg, .opt, [0], [0, 1, 2, 3], true)
  | .vshl => (.vReg, .vReg, .vReg, .opt, [0], [0, 1, 2], true)
  | .vshr => (.vReg, .vReg, .vReg, .opt, [0, 1], [0, 1, 2], true)
  | .vcmp => (.kReg, .vReg, .vReg, .opt, [0, 1, 2, 3], [0, 1, 2], true)
  | .vcmpl => (.kReg, .vReg, .vReg, .opt, [0, 1], [0, 1, 2], true)
  | .vadds | .vsubs => (.vReg, .vReg, .vReg, .opt, [0, 1], [0, 1, 2], true)
  | .vmulrh => (.vReg, .vReg, .vReg, .opt, [0], [1, 2], true)
  | .vsrr => (.vReg, .vReg, .vReg, .opt, [0, 1], [0, 1, 2], true)
  | .vred => (.vReg, .vReg, .vReg, .vec, [0, 1, 2], [0, 1, 2], true)
  | .vgete => (.gReg, .vReg, .none, .need, [0], [0, 1, 2], true)
  | .vsete => (.vReg, .gReg, .none, .need, [0], [0, 1, 2, 3], true)
  | .vsldn | .vslup => (.vReg, .vReg, .none, .need, [0], [0, 1, 2, 3], true)
  | .vbswap => (.vReg, .vReg, .none, .vec, [0], [1, 2], true)
  | .klog => (.kReg, .kReg, .kReg, .vec, [0, 1, 2, 3], [0], false)
  | .kmov => (.gReg, .kReg, .none, .vec, [0, 1, 2, 3], [0], false)
  | .kpop => (.gReg, .kReg, .none, .vec, [0, 1], [0, 1, 2, 3], false)
  | .fadd | .fsub | .fmul | .fma | .fmin | .fmax => (.fReg, .fReg, .fReg, .vec, [0], [2, 3], false)
  | .fcmp => (.pReg, .fReg, .fReg, .vec, [0, 1, 2, 3], [2, 3], false)
  | .fcvt => (.fReg, .gReg, .none, .vec, [0, 1, 2, 3], [2, 3], false)
  | .fcvtf => (.fReg, .fReg, .none, .vec, [0], [2, 3], false)
  | .fsgn => (.fReg, .fReg, .fReg, .vec, [0, 1, 2], [2, 3], false)
  | .fmvx => (.fReg, .gReg, .none, .vec, [0, 1, 2, 3], [2, 3], false)
  | .fclass => (.gReg, .fReg, .none, .vec, [0], [2, 3], false)
  | .vfadd | .vfsub | .vfmul | .vfma | .vfmin | .vfmax => (.vReg, .vReg, .vReg, .vec, [0], [2], true)
  | .vfcmp => (.kReg, .vReg, .vReg, .vec, [0, 1, 2, 3], [2], true)
  | .vfcvt => (.vReg, .vReg, .none, .vec, [0, 1, 2, 3], [2], true)
  | .vfsgn => (.vReg, .vReg, .vReg, .vec, [0, 1, 2], [2], true)
  | _ => (.none, .none, .none, .vec, [], [], false)

/-- The kinds of D and A, which SUB of KMOV, FCVT and FMVX decides (R212, R216), and of B, which FSGN without a sign
source and VMOV of a scalar do not use. -/
def vKinds (k : OpKind) (e : OpEnc) : OKind × OKind × OKind :=
  let (d, a, b, _, _, _, _) := vSig k
  match k with
  | .kmov => if 2 ≤ fSUB e then (.kReg, .gReg, .none) else (.gReg, .kReg, .none)
  | .fcvt => if 2 ≤ fSUB e then (.gReg, .fReg, .none) else (.fReg, .gReg, .none)
  | .fmvx => if 2 ≤ fSUB e then (.gReg, .fReg, .none) else (.fReg, .gReg, .none)
  | .fsgn | .vfsgn => if fSUB e = 2 then (d, a, b) else (d, a, .none)
  | .vmov => if fBX e || fBI e then (d, .none, .none) else (d, a, .none)
  | .setvl => if fBI e then (d, .none, .none) else (d, a, .none)
  | _ => (d, a, b)

/-- Whether a register field suits its kind; a field not used is zero. -/
def fieldOk (k : OKind) (n : Nat) : Bool :=
  match k with
  | .none => n == 0
  | .gReg => decide (n < 28)
  | .pReg | .kReg => decide (n < 8)
  | _ => true

/-- Format V: R204 and R205. -/
def vOk (k : OpKind) (e : OpEnc) : Bool :=
  let (_, _, _, bk, subs, ews, mask) := vSig k
  let (d, a, b) := vKinds k e
  let sc := fBX e || fBI e
  fieldOk d (fD e) && fieldOk a (fA e) && subs.contains (fSUB e) && ews.contains (fSZ e) &&
  (if fBX e then decide (fB e < 28) else if fBI e then fB e == 0 else fieldOk b (fB e)) &&
  !(fBX e && fBI e) &&
  (match bk with
    | .vec => !sc
    | .opt => true
    | .need => sc
    | .imm => !fBX e
    | .movb => true) &&
  (fBI e || fIMM e == 0) && fldH e 47 39 == 0 && (mask || fKM e == 0)

/-- VLD and VST (R208). -/
def vmemOk (k : OpKind) (e : OpEnc) : Bool :=
  e.long && fA e == 0 && fB e == 0 && !fBX e && !fBI e && fSUB e == 0 && fldH e 47 39 == 0 &&
  specOk (fIMM e) (k == .vst) false

/-- VKECCAK and VNTT. -/
def kOk (k : OpKind) (e : OpEnc) : Bool :=
  fSZ e == 0 && fD e == 0 && fB e == 0 && decide (fA e < 28) && fKM e == 0 && !fBX e && !fBI e && fIMM e == 0 &&
  fldH e 47 39 == 0 && (if k = .vntt then decide (fSUB e ≤ 1) else fSUB e == 0)

/-! ### Cause 0 of one operation -/

/-- System register numbers that R179's table gives. -/
def sregOk (n : Nat) : Bool :=
  decide (n ≤ 0x0C) || n == 0x0E || n == 0x0F || (decide (0x10 ≤ n) && decide (n ≤ 0x24)) ||
  (decide (0x40 ≤ n) && decide (n ≤ 0x44)) || (decide (0x48 ≤ n) && decide (n ≤ 0x4C)) ||
  (decide (0x50 ≤ n) && decide (n ≤ 0x53)) || (decide (0x60 ≤ n) && decide (n ≤ 0x7F))

/-- Whether the encoding of an operation raises no cause 0 by itself (R200): its opcode is not reserved, and its fields are
admitted. `words` is the length of its bundle; `mv` says that the MV executes it. -/
def encOk (k : OpKind) (e : OpEnc) (words : Nat) (mv : Bool) : Bool :=
  e.op == some k && match opFormat k with
  | .rm => rmOk k e
  | .r => !e.long && rmOk k e
  | .m => e.long && rmOk k e
  | .l => e.long && fSZ e == 2 && fA e == 0 && fB e == 0 &&
      (match k with
        | .brf | .brlf => hiw e % 4 == 0
        | _ => decide (fD e < 28))
  | .b => !e.long
  | .j => e.long && (if fld e 22 22 = 1 then fld e 21 17 == 0 else fldH e 63 48 == 0 && decide (fld e 21 17 < 28)) &&
      decide (words ≤ fld e 31 23) && decide (fld e 31 23 ≤ fldH e 47 32)
  | .s => !e.long && fSZ e == 0 && decide (fD e < 28) && sregOk (fld e 31 22)
  | .i => !e.long && fSZ e == 0 && fld e 31 29 == 0
  | .p => !e.long && fld e 31 26 == 0
  | .x => !e.long && fSZ e != 3 && fld e 22 19 != fld e 26 23 && fld e 31 30 == 0 &&
      !((k == .movs || k == .fils) && fld e 29 27 != 0)
  | .n => !e.long && fld e 31 15 == 0 && !(k == .gobroad && mv)
  | .v => vOk k e
  | .vmem => vmemOk k e
  | .k => kOk k e

/-- Whether an operation must stand alone in its bundle (R178). -/
def opAlone : OpKind → Bool
  | .movs | .fils | .cmps | .scnsEq | .scnsNe | .vkeccak | .vntt => true
  | _ => false

/-! ### Registers an operation touches (R162) -/

/-- Scalar registers a specifier names. -/
def specRegs (sp : Nat) : List Nat :=
  match spMode sp with
  | 0 | 1 | 2 => [spReg sp]
  | 3 | 4 | 5 | 6 => [spReg sp, 16 + spExt sp % 8]
  | _ => []

/-- Scalar registers and V registers of an operand. -/
def opndRegs (k : OKind) : Opnd → List Nat × List Nat
  | .absent => ([], [])
  | .spec sp => (specRegs sp, [])
  | .reg n => match k with
    | .fReg => ([], [n])
    | .vReg => ([], [n, n + 1])
    | .pReg | .kReg => ([], [])
    | _ => ([n], [])

/-- Scalar registers and V registers of a register field of format V. -/
def fieldRegs (k : OKind) (n : Nat) : List Nat × List Nat :=
  match k with
  | .gReg => ([n], [])
  | .vReg | .fReg => ([], [n])
  | _ => ([], [])

/-- The scalar and V registers that an operation reads or writes. -/
def opRegs (k : OpKind) (e : OpEnc) : List Nat × List Nat :=
  match opFormat k with
  | .rm | .r | .m =>
    let (kd, ka, kb) := opSig k
    let ((d, a, b), _) := opOperands k e
    let x := opndRegs kd d; let y := opndRegs ka a; let z := opndRegs kb b
    (x.1 ++ y.1 ++ z.1 ++ (if k = .jrl then [15] else []), x.2 ++ y.2 ++ z.2)
  | .l => (match k with
    | .brf => []
    | .brlf => [15]
    | _ => [fD e], [])
  | .b => (if k = .brl then [15] else [], [])
  | .j => (if fld e 22 22 = 1 then [] else [fld e 21 17], [])
  | .s => ([fD e], [])
  | .x => ([24 + fld e 18 17, fld e 22 19, fld e 26 23], [])
  | .v =>
    let (d, a, b) := vKinds k e
    let x := fieldRegs d (fD e); let y := fieldRegs a (fA e)
    let z := if fBX e then ([fB e], []) else if fBI e then ([], []) else fieldRegs b (fB e)
    (x.1 ++ y.1 ++ z.1, x.2 ++ y.2 ++ z.2)
  | .vmem => (specRegs (fIMM e), [fD e])
  | .k => ([fA e], [])
  | .i | .p | .n => ([], [])

/-- The scalar and V registers that an operation reads as operands: all it touches but destinations that it does not read
(R239). -/
def opReads (k : OpKind) (e : OpEnc) : List Nat × List Nat :=
  match opFormat k with
  | .rm | .r | .m =>
    let (kd, ka, kb) := opSig k
    let ((d, a, b), _) := opOperands k e
    let x := match d with
      | .reg _ => if k == OpKind.ins then opndRegs kd d else ([], [])
      | _ => opndRegs kd d
    let y := opndRegs ka a; let z := opndRegs kb b
    (x.1 ++ y.1 ++ z.1, x.2 ++ y.2 ++ z.2)
  | .l => (if k = .addi then [fD e] else [], [])
  | .b => ([], [])
  | .s => (if k = .mts then [fD e] else [], [])
  | .v =>
    let (d, a, b) := vKinds k e
    let x := if k = .fma || k = .vfma then fieldRegs d (fD e) else ([], [])
    let y := fieldRegs a (fA e)
    let z := if fBX e then ([fB e], []) else if fBI e then ([], []) else fieldRegs b (fB e)
    (x.1 ++ y.1 ++ z.1, x.2 ++ y.2 ++ z.2)
  | .vmem => (specRegs (fIMM e), if k = .vst then [fD e] else [])
  | _ => opRegs k e

/-- Whether an operation reads a cell of the register file that is uncorrectable (R239), with registers of vl bytes: with VLENB
64 a VSTL reads one register alone (R188). -/
def readsBad (vl : Nat) (bad : List Nat) (k : OpKind) (e : OpEnc) : Bool :=
  let rs := (opReads k e).1
  let vs := if vl = 64 ∧ k = .vstl then (opReads k e).2.take 1 else (opReads k e).2
  bad.any (fun x => if x < 32 then rs.contains x else vs.contains ((x - 32) / 16))

end Sys2Proof.Machine
end

