-- ==== Sys2Proof/Machine/Map.lean ====
section
/-! DEFINITION. Sparse maps (State's indexed stores) and the sparse byte memory. -/

namespace Sys2Proof.Machine

/-- The value a map gives number n, `d` where it lists none. -/
def fget {α : Type} (d : α) : FMap α → Nat → α
  | [], _ => d
  | (k, v) :: r, n => if k = n then v else fget d r n

/-- The map with number n set to x. -/
def fset {α : Type} (n : Nat) (x : α) : FMap α → FMap α
  | [] => [(n, x)]
  | (k, v) :: r => if n < k then (n, x) :: (k, v) :: r else if n = k then (n, x) :: r else (k, v) :: fset n x r

/-- The map with number n changed by f, from `d` where it lists none. -/
def fupd {α : Type} (d : α) (n : Nat) (f : α → α) (m : FMap α) : FMap α := fset n (f (fget d m n)) m

/-- The map without number n. -/
def fdel {α : Type} (n : Nat) (m : FMap α) : FMap α := m.filter (fun p => p.1 != n)

/-- Whether the map lists number n. -/
def fhas {α : Type} (m : FMap α) (n : Nat) : Bool := m.any (fun p => p.1 == n)

/-- The map's value of number n, none where it lists none. -/
def ffind {α : Type} : FMap α → Nat → Option α
  | [], _ => none
  | (k, v) :: r, n => if k = n then some v else ffind r n

/-! ### Byte memory -/

/-- A byte of memory; an unlisted byte reads as zero (notes/assumptions/6.md). -/
def memGet : List Host.Cell → Nat → Byte
  | [], _ => 0
  | (k, b) :: r, a => if k = a then b else memGet r a

/-- Memory with address a unlisted. -/
def memErase (a : Nat) (m : List Host.Cell) : List Host.Cell := m.filter (fun c => c.1 != a)

/-- Memory with byte b listed at address a, in its place. -/
def memInsert (a : Nat) (b : Byte) : List Host.Cell → List Host.Cell
  | [] => [(a, b)]
  | (k, v) :: r => if a < k then (a, b) :: (k, v) :: r else if a = k then (a, b) :: r else (k, v) :: memInsert a b r

/-- Memory with byte b written at address a: zero, the value of an unlisted byte, removes the entry. -/
def memPut (a : Nat) (b : Byte) (m : List Host.Cell) : List Host.Cell :=
  if b = 0 then memErase a m else memInsert a b m

/-- Memory with the listed bytes written, in order. -/
def memPuts (w : List (Nat × Byte)) (m : List Host.Cell) : List Host.Cell :=
  w.foldl (fun m c => memPut c.1 c.2 m) m

/-- Memory with every byte of [lo, lo + n) zeroed. -/
def memZero (lo n : Nat) (m : List Host.Cell) : List Host.Cell :=
  m.filter (fun c => decide (c.1 < lo) || decide (lo + n ≤ c.1))

/-- The n bytes from address a. -/
def memBytes (m : List Host.Cell) (a n : Nat) : List Byte := (List.range n).map (fun i => memGet m (a + i))

/-- Each byte of a string with its address. -/
def addrBytes (a : Nat) (bs : List Byte) : List (Nat × Byte) := (List.range bs.length).zip bs |>.map (fun p => (a + p.1, p.2))

/-- The canonical form of a memory: addresses strictly rise and no entry is zero. -/
def memWf : List Host.Cell → Bool
  | [] => true
  | (k, b) :: r => b != 0 && r.all (fun c => decide (k < c.1)) && memWf r

/-- The canonical form of State's two memories, of the part and of the host. -/
abbrev Memory.wf (m : List Host.Cell) : Prop := memWf m = true

end Sys2Proof.Machine
end

