-- ==== Sys2Proof/Machine/Base.lean ====
section
/-! DEFINITION. Accessors of State: the variant's fitted units (R1, R2), vents, calderas, frames, contexts, and draws of
values the spec leaves open. -/

namespace Sys2Proof.Machine

/-! ### The variant -/

/-- Calderas fitted. -/
def nCals (s : State) : Nat :=
  match s.fuses.variant with
  | .sz1600A | .sz1600X => 12
  | .sz1200A => 9
  | .sz0800A => 6

/-- LCEs fitted. -/
def nLces (s : State) : Nat :=
  match s.fuses.variant with
  | .sz1600A | .sz1600X => 8
  | .sz1200A => 6
  | .sz0800A => 4

/-- HBM stacks fitted. -/
def nStacks (s : State) : Nat := match s.fuses.variant with
  | .sz0800A => 2
  | _ => 4

/-- VLENB (R202). -/
def vlenb (s : State) : Nat := match s.fuses.variant with
  | .sz0800A => 32
  | _ => 64

/-- Whether Glaze, VKECCAK and VNTT are fitted. -/
def hasGlaze (s : State) : Bool := match s.fuses.variant with
  | .sz0800A => false
  | _ => true

/-- Whether a caldera is fitted. -/
def calFitted (s : State) (c : Nat) : Bool := decide (c < nCals s)

/-- Whether a DMA channel is fitted (R270). -/
def dmaFitted (s : State) (n : Nat) : Bool := decide (n < 256) && (decide (192 ≤ n) || calFitted s (n / 16))

/-- The number of the MV among the vents (notes/assumptions/8.md). -/
def mvNum : Nat := 96

/-- Whether a vent is fitted, or is the MV. -/
def ventFitted (s : State) (v : Nat) : Bool := decide (v < 8 * nCals s) || v == mvNum

/-! ### Vents and calderas -/

/-- A vent. -/
def ventAt (s : State) (v : Nat) : Vent := fget {} s.vents v

/-- The state with vent v replaced. -/
def setVent (s : State) (v : Nat) (x : Vent) : State := { s with vents := fset v x s.vents }

/-- The state with vent v changed. -/
def updVent (s : State) (v : Nat) (f : Vent → Vent) : State := setVent s v (f (ventAt s v))

/-- A caldera. -/
def calAt (s : State) (c : Nat) : Cal := fget {} s.cals c

/-- The state with caldera c changed. -/
def updCal (s : State) (c : Nat) (f : Cal → Cal) : State := { s with cals := fset c (f (calAt s c)) s.cals }

/-- The island of a vent: its caldera, or 12 for the MV. -/
def islandOf (v : Nat) : Nat := v / 8

/-! ### Open values -/

/-- A value the spec leaves open, drawn fresh (notes/assumptions/4.md). -/
def drawFree (s : State) : Nat × State := (Config.freeNat s.freeCtr, { s with freeCtr := s.freeCtr + 1 })

/-- n random bytes, drawn fresh. -/
def drawRandom (s : State) (n : Nat) : List Byte × State :=
  ((List.range n).map (Config.randomByte s.freeCtr), { s with freeCtr := s.freeCtr + 1 })

/-- A reading of TIMEBASE in an island: never decreasing, at most 4 ticks behind (R12); which is left open. -/
def localTime (s : State) (island : Nat) : DWord × State :=
  let lo := max (calAt s island).tbCopy.toNat (s.timebase.toNat - 4)
  let (x, s1) := drawFree s
  let t : DWord := BitVec.ofNat 64 (lo + x % (s.timebase.toNat - lo + 1))
  (t, updCal s1 island (fun c => { c with tbCopy := t }))

/-! ### Memory -/

/-- The state with bytes written to memory. -/
def putMem (s : State) (w : List (Nat × Byte)) : State := { s with mem := memPuts w s.mem }

/-- The state with n bytes of memory zeroed from address a. -/
def zeroMem (s : State) (a n : Nat) : State := { s with mem := memZero a n s.mem }

/-- n bytes of memory from address a. -/
def getMem (s : State) (a n : Nat) : List Byte := memBytes s.mem a n

/-- The state with bytes written to the host's memory. -/
def putHost (s : State) (w : List (Nat × Byte)) : State := { s with hostMem := memPuts w s.hostMem }

/-- Matrix address of a palette (R253). -/
def palBase (v : Nat) : Nat := 0x20000000 + v * 0x40000
/-- Matrix address of a caldera memory (R253). -/
def calBase (c : Nat) : Nat := 0x10000000 + c * 0x1000000
/-- Matrix address of a PB cell (R253). -/
def cellBase (n : Nat) : Nat := 0x60000000 + 256 * n
/-- Matrix address of HBM (R253). -/
def hbmBase : Nat := 0x1000000000
/-- Matrix address of MV SRAM in the SWAP = 0 view (R255). -/
def mvBase : Nat := 0x01000000
/-- Bytes of HBM fitted. -/
def hbmSize (s : State) : Nat := nStacks s * 0x900000000

end Sys2Proof.Machine
end

