-- ==== Sys2Proof/Machine/VentBase.lean ====
section
/-! DEFINITION. One vent without the matrix: address space (R258), region table (R242, R243), registers (R179, R180),
landing of loads, store buffer lookup (R166, R167), reset (R252), interrupt latches (R251). -/

namespace Sys2Proof.Machine

/-! ### Address space -/

/-- Where a vent address leads: own palette, own caldera memory, a matrix address through a window (and whether it is
cacheable), a device register, or nowhere. -/
inductive VLoc where
  | pal (off : Nat) | cal (off : Nat) | far (ma : Nat) (cache : Bool) | dev (ma : Nat) | none
deriving DecidableEq, Repr

/-- Whether a matrix address is a device register. -/
def isDevAddr (a : Nat) : Bool := decide (0x80000000 ≤ a) && decide (a < 0xA0000000)

/-- Targets that R168 forces uncached: context and key store, PB, device registers. -/
def forcedUncached (a : Nat) : Bool :=
  (decide (0x40000000 ≤ a) && decide (a < 0x60000000)) || (decide (0x60000000 ≤ a) && decide (a < 0x63000000)) ||
  isDevAddr a

/-- R258. The MV (number 96) has windows and device registers only. -/
def ventLoc (vt : Vent) (v a : Nat) : VLoc :=
  if a < 0x40000 && v != mvNum then .pal a
  else if 0x100000 ≤ a && a < 0x500000 && v != mvNum then .cal (a - 0x100000)
  else if 0x40000000 ≤ a && a < 0x80000000 then
    let w := fget 0 vt.winbase ((a - 0x40000000) / 0x10000000)
    if wbits w 0 0 = 0 then .none
    else
      let ma := wbits w 31 12 * 0x10000000 + a % 0x10000000
      if isDevAddr ma then .dev ma else .far ma (wbits w 1 1 == 1 && !forcedUncached ma)
  else if 0x80000000 ≤ a && a < 0x8FF00000 then .dev a
  else if 0x8FF00000 ≤ a && a < 0x90000000 && v != mvNum then .dev (0x90000000 + v / 8 * 0x100000 + (a - 0x8FF00000))
  else .none

/-- The matrix address of a local location. -/
def localAddr (v : Nat) : VLoc → Nat
  | .pal o => palBase v + o
  | .cal o => calBase (v / 8) + o
  | .far a _ => a
  | .dev a => a
  | .none => 0

/-- Whether a location is the vent's own palette or caldera memory. -/
def VLoc.isLocal : VLoc → Bool
  | .pal _ => true
  | .cal _ => true
  | _ => false

/-- The matrix master of a vent. -/
def ventMaster (v : Nat) : Master := if v = mvNum then .mv else .vent v

/-! ### STAT -/

/-- STAT.LEVEL. -/
def ventLevel (vt : Vent) : Nat := wbits vt.stat 1 0
/-- STAT.NARROW. -/
def ventNarrow (vt : Vent) : Bool := vt.stat.getLsbD 2
/-- STAT.MCACT. -/
def ventMcact (vt : Vent) : Bool := vt.stat.getLsbD 5
/-- STAT.NMIACT. -/
def ventNmiact (vt : Vent) : Bool := vt.stat.getLsbD 6
/-- VEXC_STAT.LOCKUP. -/
def ventLocked (vt : Vent) : Bool := vt.evt.excStat.getLsbD 0

/-- Whether the vent can issue: released, not halted or let execute one bundle by a step (R351), not locked up, not
isolating. -/
def ventRuns (s : State) (v : Nat) : Bool :=
  let vt := ventAt s v
  ventFitted s v && !vt.held && (!vt.halted || vt.single) && !vt.isolating && !ventLocked vt

/-! ### Region table -/

/-- A synchronous fault candidate: its place in the order of R232, its cause, FADDR. -/
structure VFault where
  rank : Nat
  cause : Nat
  faddr : Nat
deriving DecidableEq, Repr

/-- Whether region entry x covers address a (R242). -/
def rgnCovers (x : DWord) (a : Nat) : Bool :=
  let sz := wbits x 5 1
  x.getLsbD 0 && decide (12 ≤ sz) && a / 2 ^ sz == (wbits x 63 44 * 4096) / 2 ^ sz

/-- The lowest-numbered entry that covers an address, from n on. -/
def rgnFind (vt : Vent) (a : Nat) : Nat → Nat → Option DWord
  | 0, _ => none
  | k + 1, n => if rgnCovers (fget 0 vt.rgn n) a then some (fget 0 vt.rgn n) else rgnFind vt a k (n + 1)

/-- Kinds of access: read, write, execute. -/
inductive Acc where
  | rd | wr | ex
deriving DecidableEq, Repr

/-- The permission bit of an entry for a level and a kind of access. -/
def rgnBit (lvl : Nat) (k : Acc) : Nat :=
  (if lvl = 0 then 6 else if lvl = 1 then 9 else 12) + (match k with
    | .rd => 0
    | .wr => 1
    | .ex => 2)

/-- Why the region table refuses a byte: 6 denied by an entry, 7 no entry below M (R242, R243). -/
def rgnRefuses (vt : Vent) (lvl a : Nat) (k : Acc) : Option Nat :=
  match rgnFind vt a 16 0 with
  | some x => if x.getLsbD (rgnBit lvl k) then none else some 6
  | none => if lvl = 3 then none else some 7

/-- Place of causes 5, 7 and 6 of a memory access in R232. -/
def memRank (cause : Nat) : Nat := if cause = 5 then 50 else if cause = 7 then 51 else 52

/-- The faults of one byte of a data access: region refusal, unmapped address (R184). -/
def byteFaults (vt : Vent) (v lvl a : Nat) (k : Acc) : List VFault :=
  (match rgnRefuses vt lvl a k with
    | some c => [⟨memRank c, c, a⟩]
    | none => []) ++
  (if ventLoc vt v a = .none then [⟨52, 6, a⟩] else [])

/-! ### Registers -/

/-- A scalar register (R179). -/
def gp (vt : Vent) (n : Nat) : Nat := (fget 0 vt.r n).toNat

/-- The vent with a scalar register written. -/
def setGp (vt : Vent) (n x : Nat) : Vent := { vt with r := fset n (BitVec.ofNat 32 x) vt.r }

/-- A K register; K0 reads as all ones (R202). -/
def kReg (vt : Vent) (n : Nat) : Nat := if n = 0 then 2 ^ 64 - 1 else (fget 0 vt.vec.k n).toNat

/-- A V register. -/
def vReg (vt : Vent) (n : Nat) : Nat := (fget 0 vt.vec.v n).toNat

/-- Whether cell x of the register file (Vent.badRegs) is written whole by a write of the bits m of V register n. -/
def cellWritten (n : Nat) (m : BitVec 512) (x : Nat) : Bool :=
  decide (32 + 16 * n ≤ x) && decide (x < 48 + 16 * n) && wbits m (32 * (x - 32 - 16 * n) + 31) (32 * (x - 32 - 16 * n)) == 2 ^ 32 - 1

/-- The vent with one write made (R144, R186, R202). A write of P0 or K0 is ignored. A cell of the register file that is
written whole is good again (notes/assumptions/6.md). -/
def writeReg (vt : Vent) : RegW → Vent
  | .gpr n w => { vt with r := fset n w vt.r, badRegs := vt.badRegs.filter (· != n) }
  | .pred n b => if n = 0 then vt else
      { vt with pred := (vt.pred &&& ~~~((1 : Byte) <<< n)) ||| (if b then (1 : Byte) <<< n else 0) }
  | .vreg n val m => { vt with
      vec := { vt.vec with v := fupd 0 n (fun o => (o &&& ~~~m) ||| (val &&& m)) vt.vec.v }
      badRegs := vt.badRegs.filter (fun x => !cellWritten n m x) }
  | .kreg n val m => if n = 0 then vt else
      { vt with vec := { vt.vec with k := fupd 0 n (fun o => (o &&& ~~~m) ||| (val &&& m)) vt.vec.k } }

/-- The vent with writes made in order. -/
def writeRegs (ws : List RegW) (vt : Vent) : Vent := ws.foldl writeReg vt

/-- The write of an F register: bits [63:0] of V (R202); a binary32 value clears bits [63:32] (R216). -/
def fregW (n x : Nat) : RegW := .vreg n (BitVec.ofNat 512 (x % 2 ^ 64)) (BitVec.ofNat 512 (2 ^ 64 - 1))

/-- Every fixed-delay load that is due before bundle `b` lands, in issue order (R157, R160). -/
def landLoads (vt : Vent) (b : Nat) : Vent :=
  let due := vt.fl.loads.filter (fun l => decide (l.due ≤ b))
  let vt1 := due.foldl (fun x l => writeRegs l.writes x) vt
  { vt1 with fl := { vt1.fl with loads := vt.fl.loads.filter (fun l => !decide (l.due ≤ b)) } }

/-- Every fixed-delay load lands (R230 step 2), in the order of issue; where two of one register were due at different bundles,
the spec does not say which is written last (notes/assumptions/53.md). -/
def landAll (vt : Vent) : Vent :=
  let vt1 := vt.fl.loads.foldl (fun x l => writeRegs l.writes x) vt
  { vt1 with fl := { vt1.fl with loads := [] } }

/-- STAT as MFS reads it: HOLDING shows whether a hold is in force. -/
def statRead (vt : Vent) : Nat := nput vt.stat.toNat 7 7 (if vt.hold.count = 0 then 0 else 1)

/-- DEFERQ as MFS reads it (R238). -/
def deferqRead (vt : Vent) : Nat :=
  let q := vt.fl.deferq
  let e := q.headD {}
  q.length % 8 + 8 * b2n vt.fl.deferOvf + 16 * e.kind.toNat + 64 * b2n e.store + 128 * b2n e.vec + 256 * e.reg.toNat +
    0x2000 * (if q.isEmpty then 0 else e.level.toNat)

/-- R238: the oldest entry of the deferred-fault queue is removed. -/
def deferPop (vt : Vent) : Vent :=
  let q := vt.fl.deferq.tail
  { vt with fl := { vt.fl with deferq := q, deferOvf := vt.fl.deferOvf && !q.isEmpty } }

/-- Whether cause 10 is due (R238, R246): the queue holds an entry that does not wait for a handler to return, and no handler
of cause 10 is under way. -/
def deferDue (vt : Vent) : Bool :=
  !vt.fl.handlers.contains 10 && vt.fl.deferq.any (fun e => match e.wait with
    | none => true
    | some n => decide (vt.fl.handlers.length ≤ n))

/-- A handler returns: what waited for it waits no longer (R246). -/
def handlerEnd (fl : VentFlight) : VentFlight :=
  let hs := fl.handlers.tail
  { fl with
      handlers := hs
      far := fl.far.map (fun l => { l with depth := min l.depth hs.length })
      deferq := fl.deferq.map (fun e => match e.wait with
        | some n => if hs.length ≤ n then { e with wait := none } else e
        | none => e) }

/-- R237: a deferred fault is appended; a fifth entry is discarded and sets OVF. -/
def deferAdd (vt : Vent) (e : DeferEntry) : Vent :=
  if vt.fl.deferq.length < 4 then { vt with fl := { vt.fl with deferq := vt.fl.deferq ++ [e] } }
  else { vt with fl := { vt.fl with deferOvf := true } }

/-- KIND of a deferred fault by its response code (R238). -/
def deferKind : RespCode → BitVec 2
  | .ue => 1
  | .domainOff => 2
  | _ => 0

/-- The lowest level at which a system register can be read, and written (R179). Level 4 marks a register that no level
writes. -/
def sregLevels (n : Nat) : Nat × Nat :=
  if n = 0x00 then (1, 3)
  else if n = 0x07 then (0, 4)
  else if n = 0x09 then (1, 4)
  else if n = 0x0A || n = 0x0B then (1, 3)
  else if n = 0x0C then (1, 1)
  else if n = 0x0E || n = 0x0F then (0, 4)
  else if n < 0x40 then (0, 0)
  else if n ≤ 0x44 then (3, 3)
  else if n ≤ 0x4C then (1, 1)
  else (3, 3)

/-- The registers of one level that MFS 0x40 to 0x44 or 0x48 to 0x4C reads. -/
def excRead (x : ExcRegs) (i : Nat) : Nat :=
  match i with
  | 0 => x.rta.toNat
  | 1 => x.sts.toNat
  | 2 => x.cause.toNat
  | 3 => x.faddr.toNat
  | _ => x.tbase.toNat

/-- The same registers written, reserved bits discarded. -/
def excWrite (x : ExcRegs) (i : Nat) (w : Word) : ExcRegs :=
  match i with
  | 0 => { x with rta := w &&& 0xFFFFFFFC }
  | 1 => { x with sts := w &&& 0xFF }
  | 2 => { x with cause := w &&& 0x0FFF7F3F }
  | 3 => { x with faddr := w }
  | _ => { x with tbase := w &&& 0xFFFFFF00 }

/-- MFS of a system register whose reading changes nothing (R179, R180). HOLDCNT and TIMEBASE are read in
Machine/VentEval.lean. TIMEBASEH gives the word that the last MFS of TIMEBASE latched, zero before the first one since reset,
of which the spec says nothing (notes/assumptions/11.md). -/
def sregRead (s : State) (vt : Vent) (n : Nat) : Nat :=
  if n = 0x00 then statRead vt
  else if n = 0x01 then vt.astat.toNat
  else if n = 0x02 then vt.vec.fpctl.toNat
  else if n = 0x03 then vt.vec.fpflags.toNat
  else if n = 0x04 then vt.vec.vl.toNat
  else if n = 0x05 then vt.vec.vtype.toNat
  else if n = 0x06 then vt.vec.vres.toNat
  else if n = 0x07 then vlenb s
  else if n = 0x08 then vt.vec.lprog.toNat
  else if n = 0x0A then vt.hold.max.toNat
  else if n = 0x0B then vt.deleg.toNat
  else if n = 0x0C then deferqRead vt
  else if n = 0x0F then vt.tbLatch.toNat
  else if n < 0x14 then (fget 0 vt.loop.lcnt (n - 0x10)).toNat
  else if n < 0x18 then (fget 0 vt.loop.lbeg (n - 0x14)).toNat
  else if n < 0x1C then (fget 0 vt.loop.lend (n - 0x18)).toNat
  else if n < 0x20 then (fget 0 vt.loop.cb (n - 0x1C)).toNat
  else if n < 0x24 then (fget 0 vt.loop.cl (n - 0x20)).toNat
  else if n = 0x24 then vt.pred.toNat ||| 1
  else if n < 0x48 then excRead vt.m (n - 0x40)
  else if n < 0x50 then excRead vt.s (n - 0x48)
  else if n < 0x60 then (fget 0 vt.winbase (n - 0x50)).toNat
  else
    let x := (fget 0 vt.rgn ((n - 0x60) / 2)).toNat
    if n % 2 = 0 then x % 2 ^ 32 else x / 2 ^ 32

/-- STAT after an MTS of w over `old` (R225): LEVEL, MIE, SIE, MCACT, NMIACT; a LEVEL of 2 leaves LEVEL unchanged. -/
def statMts (old w : Word) : Word :=
  let lvl := if wbits w 1 0 = 2 then old &&& 3 else w &&& 3
  (old &&& 4) ||| lvl ||| (w &&& 0x78)

/-- A 64-bit region entry with one word written, reserved bits discarded (R242). -/
def rgnWrite (old : DWord) (high : Bool) (w : Word) : DWord :=
  let x := w.toNat
  if high then BitVec.ofNat 64 (old.toNat % 2 ^ 32 + nbits x 31 12 * 2 ^ 44)
  else BitVec.ofNat 64 (old.toNat / 2 ^ 32 * 2 ^ 32 + nbits x 14 0)

/-- MTS of a system register other than STAT and the region table, whose writes wait for the mode shadow (R180). -/
def sregWrite (s : State) (vt : Vent) (n : Nat) (w : Word) : Vent :=
  if n = 0x01 then { vt with astat := w &&& 0x107 }
  else if n = 0x02 then { vt with vec := { vt.vec with fpctl := w &&& 0x1F03 } }
  else if n = 0x03 then { vt with vec := { vt.vec with fpflags := w &&& 0x1F } }
  else if n = 0x04 then { vt with vec := { vt.vec with vl := BitVec.ofNat 32 (min w.toNat (vlenb s)) } }
  else if n = 0x05 then { vt with vec := { vt.vec with vtype := w &&& 3 } }
  else if n = 0x06 then { vt with vec := { vt.vec with vres := w &&& 0x3F } }
  else if n = 0x08 then { vt with vec := { vt.vec with lprog := w &&& 0x7F } }
  else if n = 0x0A then { vt with hold := { vt.hold with max := w.truncate 12 } }
  else if n = 0x0B then { vt with deleg := w &&& 0x00FF1FFF }
  else if n = 0x0C then (if w.getLsbD 31 then deferPop vt else vt)
  else if n < 0x10 then vt
  else if n < 0x14 then { vt with loop := { vt.loop with lcnt := fset (n - 0x10) w vt.loop.lcnt } }
  else if n < 0x18 then { vt with loop := { vt.loop with lbeg := fset (n - 0x14) (w &&& 0xFFFFFFFC) vt.loop.lbeg } }
  else if n < 0x1C then { vt with loop := { vt.loop with lend := fset (n - 0x18) (w &&& 0xFFFFFFFC) vt.loop.lend } }
  else if n < 0x20 then { vt with loop := { vt.loop with cb := fset (n - 0x1C) w vt.loop.cb } }
  else if n < 0x24 then { vt with loop := { vt.loop with cl := fset (n - 0x20) (w &&& 0x7FFFF) vt.loop.cl } }
  else if n = 0x24 then { vt with pred := (w.truncate 8 : Byte) ||| 1 }
  else if n < 0x40 then vt
  else if n < 0x48 then { vt with m := excWrite vt.m (n - 0x40) w }
  else if n < 0x50 then { vt with s := excWrite vt.s (n - 0x48) w }
  else if n < 0x60 then { vt with winbase := fset (n - 0x50) (w &&& 0xFFFFF003) vt.winbase }
  else vt

/-- The writes that the mode shadow held back take effect (R244). -/
def applyShadow (vt : Vent) : Vent :=
  let st := match vt.shadowStat with
    | some w => w
    | none => vt.stat
  let rg := vt.shadowRgn.foldl (fun m (p : Nat × Word) => fupd 0 (p.1 / 2) (fun o => rgnWrite o (p.1 % 2 == 1) p.2) m) vt.rgn
  { vt with stat := st, rgn := rg, shadowStat := none, shadowRgn := [], shadowOpen := false }

/-! ### Store buffer and D-cache lookups -/

/-- The parts of [a, a + n) by aligned 64-byte block; `fuel` bounds their number. -/
def blocksOf : Nat → Nat → Nat → List (Nat × Nat)
  | 0, _, _ => []
  | f + 1, a, n => if n = 0 then [] else
      let k := min n (64 - a % 64)
      (a, k) :: blocksOf f (a + k) (n - k)

/-- What a lookup finds: the bytes, an entry that holds only some of them, or nothing. -/
inductive Found where
  | bytes (bs : List Byte) | partly | miss
deriving DecidableEq, Repr

/-- A store buffer's bytes for a part of one block, from the youngest entry (R167). Argument: the entries, youngest
first. -/
def sbLook : List SbEntry → Nat → Nat → Found
  | [], _, _ => .miss
  | x :: r, a, n =>
    let got := (List.range n).map (fun i => ffind x.bytes (a + i))
    if got.all Option.isSome then .bytes (got.map (fun o => o.getD 0))
    else if got.any Option.isSome then .partly
    else sbLook r a n

/-- A line's bytes for a part of one block. -/
def dcLook : List DLine → Nat → Nat → Option (List Byte)
  | [], _, _ => none
  | x :: r, a, n => if x.block = a / 64 * 64 then some (leBytes n (x.data.toNat >>> (8 * (a - x.block)))) else dcLook r a n

/-- A store buffer's bytes for a whole load of the addresses `ads` (R167): from the youngest entry that holds any of them,
which must hold all. Argument: the entries, youngest first. -/
def sbWhole (ads : List Nat) : List SbEntry → Option SbEntry × Bool
  | [] => (none, false)
  | x :: r =>
    if ads.any (fun a => fhas x.bytes a) then (if ads.all (fun a => fhas x.bytes a) then (some x, false) else (none, true))
    else sbWhole ads r

/-- Whether an access at a matrix address reaches registers, or the ports and records of the context and key store: a write
there can change what another address of the same unit reads. -/
def inUnit (a b : Nat) : Bool :=
  (isDevAddr a && isDevAddr b) ||
  (decide (0x40000000 ≤ a) && decide (a < 0x60000000) && decide (0x40000000 ≤ b) && decide (b < 0x60000000))

/-- Whether a store buffer entry could change what a far load reads: its bytes overlap the load's, or both are of one unit
that inUnit names, as the request and the result of a TXTAKE are (R58, R168). -/
def sbMeets (x : SbEntry) (l : FarLoad) : Bool :=
  x.bytes.any (fun p => l.pieces.any (fun q => decide (q.maddr ≤ p.1) && decide (p.1 < q.maddr + q.len))) ||
  l.pieces.any (fun q => inUnit x.block q.maddr)

/-- A store buffer with bytes of one block added: merged into the youngest entry when that covers the same block (R166),
unless it could change what a far load younger than that entry reads: the entry then counts as having begun to drain, so that
the load still finds what stood there before this store (R144, R148; notes/assumptions/53.md). That stores to the
device-register range take entries and merge too is the model's choice (notes/assumptions/53.md). Stores to one block that
come by different paths, one local and one through a window or one cacheable and one not, do not merge, of which the spec says
nothing (notes/assumptions/53.md). -/
def sbPush (far : List FarLoad) (sb : List SbEntry) (x : SbEntry) : List SbEntry :=
  match sb.getLast? with
  | some y =>
    if y.block = x.block ∧ y.far = x.far ∧ y.cache = x.cache ∧ ¬ far.any (fun l => sbMeets x l && decide (y.seq < l.seq)) then
      sb.dropLast ++ [{ y with bytes := x.bytes.foldl (fun m p => fset p.1 p.2 m) y.bytes }]
    else sb ++ [x]
  | none => [x]

/-- Whether a far load reads a matrix address. -/
def FarLoad.reads (l : FarLoad) (a : Nat) : Bool :=
  l.pieces.any (fun q => decide (q.maddr ≤ a) && decide (a < q.maddr + q.len))

/-- The bytes that a far load keeps, with those that it reads at the addresses `ws` as memory holds them. -/
def keepOf (mem : List Host.Cell) (ws : List Nat) (l : FarLoad) : FMap Byte :=
  ws.foldl (fun k a => if l.reads a && !fhas k a then fset a (memGet mem a) k else k) l.kept

/-- Outstanding far loads before a write of memory at the addresses `ws`: each keeps the bytes that it reads there (R144). -/
def keepBytes (mem : List Host.Cell) (ws : List Nat) (far : List FarLoad) : List FarLoad :=
  far.map (fun l => { l with kept := keepOf mem ws l })

/-! ### The matrix port of a vent -/

/-- The first of the two master ports of a caldera, or its second; the MV's is port 24 (R260). -/
def ventPort (v : Nat) : Nat := if v = mvNum then 24 else 2 * (v / 8) + Config.calPort v % 2

/-- The transactions that a far load makes: one for each aligned 64-byte block it reads (notes/assumptions/53.md). -/
def FarLoad.bursts (l : FarLoad) : Nat := (l.pieces.map (fun p => p.maddr / 64)).eraseDups.length

/-- Transactions outstanding on a master port that vents use (R261); those of the DMA channels there are answered as they are
issued. -/
def portLoad (s : State) (p : Nat) : Nat :=
  ((List.range (8 * 12 + 1)).map (fun x => if ventPort x = p then
    let fl := (ventAt s x).fl
    (fl.far.map FarLoad.bursts).sum + fl.farWrites.length else 0)).sum

/-- Transactions outstanding on a vent's master port. -/
def portOut (s : State) (v : Nat) : Nat := portLoad s (ventPort v)

/-- Whether a vent's master port has room for n more transactions (R261). -/
def portRoom (s : State) (v n : Nat) : Bool := decide (portOut s v + n ≤ 64)

/-- Whether a matrix address lies in the palettes or the caldera memory of CAL c (R253). -/
def inIsland (c a : Nat) : Bool :=
  (decide (0x10000000 + c * 0x1000000 ≤ a) && decide (a < 0x10000000 + (c + 1) * 0x1000000)) ||
  (decide (palBase (8 * c) ≤ a) && decide (a < palBase (8 * c + 8)))

/-! ### Uncorrectable words of on-die stores -/

/-- Whether some 4-byte word of [a, a + n) of an on-die store is uncorrectable (R239). -/
def badIn (s : State) (a n : Nat) : Bool := s.hbm.badWords.any (fun w => decide (w * 4 < a + n) && decide (a < w * 4 + 4))

/-- The first uncorrectable word of [a, a + n), by its offset from the word that holds a. -/
def badWord (s : State) (a n : Nat) : Nat :=
  ((List.range ((a % 4 + n + 3) / 4)).find? (fun i => s.hbm.badWords.contains (a / 4 + i))).getD 0

/-- Bytes written to an on-die store; a word written whole is good again (notes/assumptions/6.md). -/
def putDie (s : State) (w : List (Nat × Byte)) : State :=
  let whole := fun k => (List.range 4).all (fun i => w.any (fun p => p.1 == k * 4 + i))
  let s1 := putMem s w
  { s1 with hbm := { s1.hbm with badWords := s.hbm.badWords.filter (fun k => !whole k) } }

/-! ### Interrupts and reset -/

/-- A latched interrupt source (18 to 23) becomes pending at a vent (R251). -/
def latchInt (s : State) (v src : Nat) : State :=
  updVent s v (fun vt => { vt with evt := { vt.evt with pend := vt.evt.pend ||| ((1 : BitVec 6) <<< (src - 18)) } })

/-- A latched source becomes pending at the eight vents of a caldera. -/
def latchIntCal (s : State) (c src : Nat) : State :=
  (List.range 8).foldl (fun s i => latchInt s (8 * c + i) src) s

/-- VIN_STAT.JOBERR is set, with the LCE interrupt (R251). -/
def jobErr (s : State) (v : Nat) : State :=
  latchInt (updVent s v (fun vt => { vt with inp := { vt.inp with stat := vt.inp.stat ||| 4 } })) v 22

/-- R130, R252: a vent's acknowledgement of every pending marker. -/
def ackMarkers (s : State) (v : Nat) : State :=
  { s with easel := { s.easel with migs := s.easel.migs.map (fun m => { m with unacked := m.unacked.filter (· != v) }) } }

/-- VINT_PEND with the level sources: TIMER compares a reading of the island's TIMEBASE copy, at most 4 ticks behind
(R12, R251). -/
def vintPend (s : State) (v : Nat) : Nat :=
  let vt := ventAt s v
  let now := max (calAt s (islandOf v)).tbCopy.toNat (s.timebase.toNat - 4)
  b2n (decide (vt.evt.timecmp.toNat ≤ now)) * 0x10000 +
  b2n (nbit vt.inp.cfg.toNat 23 && vt.inp.prod != vt.inp.cons) * 0x20000 + vt.evt.pend.toNat * 0x40000

/-- VINT_EN with EVENT read from VIN_CFG.IE. -/
def vintEn (vt : Vent) : Nat := (vt.evt.en.toNat &&& 0xFD0000) + b2n (nbit vt.inp.cfg.toNat 23) * 0x20000

/-- A vent leaves reset: it has reported to Easel in every period since `upAt`, unless it was in reset for all of one (R4,
R123). -/
def ventBack (now : DWord) (vt : Vent) : Vent :=
  if (vt.downAt.toNat + 99999) / 100000 < now.toNat / 100000 then { vt with upAt := now } else vt

/-- A vent is put in reset. -/
def ventDown (now : DWord) (vt : Vent) : Vent := if vt.held || vt.isolating then vt else { vt with downAt := now }

/-- R252: the reset of a vent. The palette, caldera memory, the input ring and the registers of its block other than
LOCKUP keep their values; its TXTAKE results will have no job. The vent leaves reset once its responses are absorbed (R278). -/
def ventReset (s : State) (v : Nat) : State :=
  let old := ventDown s.timebase (ventAt s v)
  let out := !(old.fl.far.isEmpty && old.fl.farWrites.isEmpty)
  let evt := { old.evt with excStat := old.evt.excStat &&& 0xFE, mcPend := none, wdPend := false }
  let fl : VentFlight := { far := old.fl.far.map (fun l => { l with absorbed := true }), farWrites := old.fl.farWrites }
  let new : Vent := {
    held := old.held
    halted := old.halted
    single := old.single
    isolating := out
    upAt := old.upAt
    downAt := old.downAt
    pc := old.evt.boot
    inp := old.inp
    evt := evt
    fl := fl }
  let s1 := ackMarkers (setVent s v new) v
  { s1 with store := { s1.store with picks := s1.store.picks.filter (fun x => x.1 != v) } }

end Sys2Proof.Machine
end

