-- ==== Sys2Proof/Machine/Flags.lean ====
section
/-! DEFINITION. Results and flags of the vents' arithmetic: scalar (R177, R188, R190, R191), vector integer and
fixed-point (R203 to R214), scalar and vector floating point (R215 to R221). ASTAT flags are numbers: OV 1, DZ 2,
SAT 4. -/

namespace Sys2Proof.Machine

/-- Whether a signed result lies outside the signed range of w bits. -/
def sOut (w : Nat) (x : Int) : Bool := decide (x < -((2 ^ (w - 1) : Nat) : Int)) || decide (((2 ^ (w - 1) : Nat) : Int) ≤ x)

/-- A signed result clamped to the signed range of w bits. -/
def sClamp (w : Nat) (x : Int) : Int :=
  if x < -((2 ^ (w - 1) : Nat) : Int) then -((2 ^ (w - 1) : Nat) : Int)
  else if ((2 ^ (w - 1) : Nat) : Int) ≤ x then ((2 ^ (w - 1) : Nat) : Int) - 1 else x

/-- A result with OV when it lies outside the destination's range. -/
def ovRes (w : Nat) (x : Int) : Nat × Nat := (unsgn 32 x, b2n (sOut w x))

/-- A clamped result with SAT when it was clamped. -/
def satRes (w : Nat) (x : Int) : Nat × Nat := (unsgn 32 (sClamp w x), if sOut w x then 4 else 0)

/-- The number of leading zeros of a 32-bit number. -/
def clz32 (x : Nat) : Nat := 32 - bitLen (x % 2 ^ 32)

/-- The first bit and the length of the field that B names; it ends at bit 31 at the latest (R190). -/
def fieldOf (b : Nat) : Nat × Nat := (b % 32, min (b / 32 % 32 + 1) (32 - b % 32))

/-- Sign extension of a w-bit number to 32 bits. -/
def sext32 (w x : Nat) : Nat := unsgn 32 (sgn w x)

/-- The result of an S or AG operation with destination width w, and the ASTAT flags it sets in S (R188, R190). `d` is
the destination's old value, which INS reads. -/
def aluOp (k : OpKind) (w a b d : Nat) : Nat × Nat :=
  let sa := sgn 32 a
  let sb := sgn 32 b
  let sh := b % 64
  let (lo, len) := fieldOf b
  match k with
  | .mov => (a, 0)
  | .add => ovRes w (sa + sb)
  | .sub => ovRes w (sa - sb)
  | .neg => ovRes w (-sa)
  | .abs => ovRes w (sa.natAbs : Int)
  | .adds => satRes w (sa + sb)
  | .subs => satRes w (sa - sb)
  | .min => (if sa ≤ sb then a else b, 0)
  | .max => (if sa ≤ sb then b else a, 0)
  | .minu => (min a b, 0)
  | .maxu => (max a b, 0)
  | .and => (a &&& b, 0)
  | .or => (a ||| b, 0)
  | .xor => (a ^^^ b, 0)
  | .andn => (a &&& (b ^^^ 0xFFFFFFFF), 0)
  | .not => (a ^^^ 0xFFFFFFFF, 0)
  | .shl => (a <<< sh % 2 ^ 32, 0)
  | .shr => (a >>> sh, 0)
  | .sar => (unsgn 32 (sa / ((2 ^ sh : Nat) : Int)), 0)
  | .rol => ((a <<< (sh % 32) ||| a >>> (32 - sh % 32)) % 2 ^ 32, 0)
  | .ror => ((a >>> (sh % 32) ||| a <<< (32 - sh % 32)) % 2 ^ 32, 0)
  | .extu => ((a >>> lo) % 2 ^ len, 0)
  | .exts => (sext32 len ((a >>> lo) % 2 ^ len), 0)
  | .ins => (nput d (lo + len - 1) lo a, 0)
  | .clz => (clz32 a, 0)
  | .popc => (popCount 32 a, 0)
  | .bswap => (leNat (beBytes 4 a), 0)
  | .mul => (a * b % 2 ^ 32, 0)
  | .mulhs => (unsgn 64 (sa * sb) / 2 ^ 32, 0)
  | .mulhu => (a * b / 2 ^ 32, 0)
  | _ => (0, 0)

/-- The predicate of a compare or TST (R186, R188). -/
def cmpOp (k : OpKind) (a b : Nat) : Bool :=
  match k with
  | .cmpeq => a == b
  | .cmpne => a != b
  | .cmplt => decide (sgn 32 a < sgn 32 b)
  | .cmpltu => decide (a < b)
  | .cmple => decide (sgn 32 a ≤ sgn 32 b)
  | .cmpleu => decide (a ≤ b)
  | _ => a &&& b != 0

/-- The predicate logic of PAND, POR and PXOR (R186). -/
def predOp (k : OpKind) (a b : Bool) : Bool :=
  match k with
  | .pand => a && b
  | .por => a || b
  | _ => a != b

/-- DIV, DIVU, REM and REMU: the result and the flags set at issue (R190, R191). -/
def divOp (k : OpKind) (a b : Nat) : Nat × Nat :=
  let sa := sgn 32 a
  let sb := sgn 32 b
  match k with
  | .divu => if b = 0 then (0xFFFFFFFF, 2) else (a / b, 0)
  | .remu => if b = 0 then (a, 2) else (a % b, 0)
  | .div => if b = 0 then (if sa < 0 then 0x80000000 else 0x7FFFFFFF, 2) else ovRes 32 (Int.tdiv sa sb)
  | _ => if b = 0 then (a, 2) else (unsgn 32 (Int.tmod sa sb), b2n (sOut 32 (Int.tdiv sa sb)))

/-! ### Floating point -/

/-- FPCTL's rounding mode and underflow enable. -/
def fctl (vt : Vent) : FCtl := ⟨wbits vt.vec.fpctl 1 0, vt.vec.fpctl.getLsbD 11⟩

/-- The enables NVE, DZE, OFE, UFE, NXE in the order of FPFLAGS (R220). -/
def fpEnables (vt : Vent) : Nat := wbits vt.vec.fpctl 12 8

/-- A two- or three-operand floating-point result in a format, as encodings (R215 to R217): d is the old destination,
which FMA reads. -/
def fpOp (k : OpKind) (f : FFmt) (c : FCtl) (d a b : Nat) : Nat × Nat :=
  match k with
  | .fadd | .vfadd => faddV f c (fdec f a) (fdec f b)
  | .fsub | .vfsub => faddV f c (fdec f a) (fdec f b).flip
  | .fmul | .vfmul => fmulV f c (fdec f a) (fdec f b)
  | .fma | .vfma => fmaV f c (fdec f d) (fdec f a) (fdec f b)
  | .fmin | .vfmin => fminmax f false a b
  | .fmax | .vfmax => fminmax f true a b
  | .fdiv => fdivV f c (fdec f a) (fdec f b)
  | .fsqrt => fsqrtV f c (fdec f a)
  | _ => (0, 0)

/-- FCVT and VFCVT by SUB: int32 or uint32 to the format, the format to int32 or uint32 (R216, R218). -/
def fcvtOp (f : FFmt) (c : FCtl) (sub a : Nat) : Nat × Nat :=
  match sub with
  | 0 => fofInt f c (sgn 32 a)
  | 1 => fofInt f c (a % 2 ^ 32)
  | 2 => ftoInt c true (fdec f a)
  | _ => ftoInt c false (fdec f a)

/-! ### Vector integer and fixed point -/

/-- R213: the rounding shift of an exact integer. -/
def rshift (fxrm : Nat) (x : Int) (m : Nat) : Int :=
  if m = 0 then x
  else
    let p : Int := ((2 ^ m : Nat) : Int)
    let h : Int := ((2 ^ (m - 1) : Nat) : Int)
    match fxrm with
    | 0 => x / p
    | 1 => (x + h) / p
    | 2 => if x < 0 then -((-x + h) / p) else (x + h) / p
    | _ =>
      let q := x / p
      let r := x % p
      if h < r || (r == h && q % 2 != 0) then q + 1 else q

/-- Unsigned clamping to w bits. -/
def uClamp (w : Nat) (x : Int) : Nat := if x < 0 then 0 else min x.toNat (2 ^ w - 1)

/-- One element of a vector integer operation of width w with sub-operation `sub`: the result and whether SAT is set
(R212, R214). -/
def vElem (k : OpKind) (w sub fxrm a b : Nat) : Nat × Bool :=
  let sa := sgn w a
  let sb := sgn w b
  let sh := b % 64
  let sat := fun (x : Int) => (unsgn w (sClamp w x), sOut w x)
  let usat := fun (x : Int) => (uClamp w x, decide (x < 0) || decide (((2 ^ w : Nat) : Int) ≤ x))
  match k with
  | .vadd => ((a + b) % 2 ^ w, false)
  | .vsub => ((a + 2 ^ w - b) % 2 ^ w, false)
  | .vmul => (a * b % 2 ^ w, false)
  | .vmulh => (if sub = 0 then unsgn (2 * w) (sa * sb) / 2 ^ w else a * b / 2 ^ w, false)
  | .vmin => (if sub = 0 then (if sa ≤ sb then a else b) else min a b, false)
  | .vmax => (if sub = 0 then (if sa ≤ sb then b else a) else max a b, false)
  | .vlog => (match sub with
    | 0 => a &&& b
    | 1 => a ||| b
    | 2 => a ^^^ b
    | _ => a &&& (b ^^^ (2 ^ w - 1)), false)
  | .vshl => (if w ≤ sh then 0 else a <<< sh % 2 ^ w, false)
  | .vshr => (if sub = 0 then a >>> sh else unsgn w (sa / ((2 ^ sh : Nat) : Int)), false)
  | .vadds => if sub = 0 then sat (sa + sb) else usat ((a : Int) + b)
  | .vsubs => if sub = 0 then sat (sa - sb) else usat ((a : Int) - b)
  | .vmulrh => sat (rshift fxrm (sa * sb) (w - 1))
  | .vsrr => (unsgn w (rshift fxrm (if sub = 0 then sa else (a : Int)) sh), false)
  | .vbswap => (leNat (beBytes (w / 8) a), false)
  | _ => (b, false)

/-- One element of VCMP and VCMPL. -/
def vCmpElem (k : OpKind) (w sub a b : Nat) : Bool :=
  match k, sub with
  | .vcmp, 0 => a == b
  | .vcmp, 1 => a != b
  | .vcmp, 2 => decide (sgn w a < sgn w b)
  | .vcmp, _ => decide (a < b)
  | _, 0 => decide (sgn w a ≤ sgn w b)
  | _, _ => decide (a ≤ b)

/-- VRED's combination of two elements. -/
def vRedElem (w sub a b : Nat) : Nat :=
  match sub with
  | 0 => (a + b) % 2 ^ w
  | 1 => if sgn w a ≤ sgn w b then b else a
  | _ => if sgn w a ≤ sgn w b then a else b

/-- KLOG (R212). -/
def klogOp (sub a b : Nat) : Nat :=
  match sub with
  | 0 => a &&& b
  | 1 => a ||| b
  | 2 => a ^^^ b
  | _ => a &&& (b ^^^ (2 ^ 64 - 1))

/-- The element width in bits that EW names. -/
def ewBits (ew : Nat) : Nat := 8 * 2 ^ ew

/-- Element i of width w of a register's value. -/
def elemAt (x w i : Nat) : Nat := (x >>> (i * w)) % 2 ^ w

/-- The write of the listed elements of width w of V register n. -/
def elemsW (n w : Nat) (xs : List (Nat × Nat)) : RegW :=
  let val := xs.foldl (fun a p => a ||| ((p.2 % 2 ^ w) <<< (p.1 * w))) 0
  let mask := xs.foldl (fun a p => a ||| ((2 ^ w - 1) <<< (p.1 * w))) 0
  .vreg n (BitVec.ofNat 512 val) (BitVec.ofNat 512 mask)

end Sys2Proof.Machine
end

