-- ==== Sys2Proof/Machine/Keccak.lean ====
section
/-! DEFINITION. Keccak-f[1600] by rounds and the functions of FIPS 202 and SP 800-185 that the part computes:
SHA3-256, SHA3-512, SHAKE128, SHAKE256, KMAC256 (R222, R78, R118, R303). -/

namespace Sys2Proof.Machine

/-! ### The steps of a round (FIPS 202) -/

/-- Rotation of a lane to the left. -/
def rotl64 (x : Nat) (k : Nat) : Nat := ((x <<< (k % 64)) ||| (x >>> (64 - k % 64))) % 2 ^ 64

/-- The lane at (x, y), coordinates modulo 5. -/
def laneAt (a : List Nat) (x y : Nat) : Nat := a.getD (x % 5 + 5 * (y % 5)) 0

/-- A state given lane by lane. -/
def byLane (f : Nat → Nat → Nat) : List Nat := (List.range 25).map (fun i => f (i % 5) (i / 5))

/-- Theta: each lane takes the parities of two columns beside its own. -/
def stepTheta (a : List Nat) : List Nat :=
  let par := (List.range 5).map (fun x => (List.range 5).foldl (fun p y => p ^^^ laneAt a x y) 0)
  byLane (fun x y => laneAt a x y ^^^ (par.getD ((x + 4) % 5) 0 ^^^ rotl64 (par.getD ((x + 1) % 5) 0) 1))

/-- Rho's offset of a lane: the walk from (1, 0) reaches it at step t, which gives (t + 1)(t + 2) / 2; lane (0, 0) is never
reached. The first argument bounds the walk. -/
def rhoOffset (tx ty : Nat) : Nat → Nat → Nat → Nat → Nat
  | 0, _, _, _ => 0
  | f + 1, t, x, y => if x = tx ∧ y = ty then (t + 1) * (t + 2) / 2 % 64 else rhoOffset tx ty f (t + 1) y ((2 * x + 3 * y) % 5)

/-- Rho and pi: lane (x, y) comes from lane (x + 3y, x), rotated by the offset of the place it leaves. -/
def stepRhoPi (a : List Nat) : List Nat :=
  byLane (fun x y => rotl64 (laneAt a (x + 3 * y) x) (rhoOffset ((x + 3 * y) % 5) x 24 0 1 0))

/-- Chi: the one step that is not linear, along each row. -/
def stepChi (a : List Nat) : List Nat :=
  byLane (fun x y => laneAt a x y ^^^ ((2 ^ 64 - 1 - laneAt a (x + 1) y) &&& laneAt a (x + 2) y))

/-- The shift register of iota after n further steps. -/
def iotaReg : Nat → Nat → Nat
  | 0, x => x
  | n + 1, x => iotaReg n (if 128 ≤ x then (2 * x - 256) ^^^ 0x71 else 2 * x)

/-- Iota's constant of round r: output bit j + 7r of the register stands at bit 2^j − 1. -/
def iotaConst (r : Nat) : Nat := ((List.range 7).map (fun j => iotaReg (j + 7 * r) 1 % 2 * 2 ^ (2 ^ j - 1))).sum

/-- One round of Keccak-f[1600] on 25 lanes, lane x + 5y. -/
def keccakRound (r : Nat) (a : List Nat) : List Nat :=
  match stepChi (stepRhoPi (stepTheta a)) with
  | [] => []
  | x :: rest => (x ^^^ iotaConst r) :: rest

/-! ### The sponge and its functions -/

/-- Rounds `from` to `from + n - 1`. -/
def keccakRounds : Nat → Nat → List Nat → List Nat
  | 0, _, a => a
  | n + 1, r, a => keccakRounds n (r + 1) (keccakRound r a)

/-- The 25 lanes of 200 bytes. -/
def keccakLanes (bs : List Byte) : List Nat := (List.range 25).map (fun i => leNat (slice bs (8 * i) 8))

/-- The 200 bytes of 25 lanes. -/
def keccakBytes (a : List Nat) : List Byte := a.flatMap (leBytes 8)

/-- Keccak-f[1600] on a byte string of 200 bytes. -/
def keccakF (bs : List Byte) : List Byte := keccakBytes (keccakRounds 24 0 (keccakLanes bs))

/-- Absorption of blocks of `rate` bytes. -/
def keccakAbsorb (st : List Byte) : List (List Byte) → List Byte
  | [] => st
  | b :: r => keccakAbsorb (keccakF (xorBytes st b)) r

/-- n blocks squeezed. -/
def keccakSqueeze (rate : Nat) : Nat → List Byte → List Byte
  | 0, _ => []
  | n + 1, st => st.take rate ++ keccakSqueeze rate n (keccakF st)

/-- The sponge with a domain suffix byte (the suffix bits and the first padding bit) and `out` bytes. -/
def sponge (rate : Nat) (suffix : Nat) (msg : List Byte) (out : Nat) : List Byte :=
  let pad := rate - msg.length % rate
  let m := msg ++ (if pad = 1 then [BitVec.ofNat 8 (suffix + 0x80)]
    else [BitVec.ofNat 8 suffix] ++ List.replicate (pad - 2) 0 ++ [0x80])
  (keccakSqueeze rate ((out + rate - 1) / rate)
    (keccakAbsorb (List.replicate 200 0) (chunks rate (m.length / rate) m))).take out

/-- SHAKE128. -/
def shake128 (msg : List Byte) (out : Nat) : List Byte := sponge 168 0x1F msg out
/-- SHAKE256. -/
def shake256 (msg : List Byte) (out : Nat) : List Byte := sponge 136 0x1F msg out
/-- SHA3-256. -/
def sha3_256 (msg : List Byte) : List Byte := sponge 136 0x06 msg 32
/-- SHA3-512. -/
def sha3_512 (msg : List Byte) : List Byte := sponge 72 0x06 msg 64

/-- The number of bytes of a length, at least one. -/
def octets (x : Nat) : Nat := if x < 256 then 1 else if x < 65536 then 2 else if x < 16777216 then 3 else 4

/-- left_encode of SP 800-185. -/
def leftEncode (x : Nat) : List Byte := BitVec.ofNat 8 (octets x) :: beBytes (octets x) x
/-- right_encode of SP 800-185. -/
def rightEncode (x : Nat) : List Byte := beBytes (octets x) x ++ [BitVec.ofNat 8 (octets x)]
/-- encode_string of SP 800-185. -/
def encodeString (s : List Byte) : List Byte := leftEncode (8 * s.length) ++ s
/-- bytepad of SP 800-185. -/
def bytepad (x : List Byte) (w : Nat) : List Byte :=
  let z := leftEncode w ++ x
  z ++ List.replicate ((w - z.length % w) % w) 0

/-- KMAC256 with key, message, output bytes and customisation string. -/
def kmac256 (key msg : List Byte) (out : Nat) (custom : List Byte) : List Byte :=
  sponge 136 0x04 (bytepad (encodeString (ascii "KMAC") ++ encodeString custom) 136
    ++ bytepad (encodeString key) 136 ++ msg ++ rightEncode (8 * out)) out

end Sys2Proof.Machine
end

