-- ==== Sys2Proof/Machine/Ntt.lean ====
section
/-! DEFINITION. The number-theoretic transform of FIPS 203 and its inverse, layer by layer (R222, R223). -/

namespace Sys2Proof.Machine

/-- The modulus of ML-KEM. -/
def mlkemQ : Nat := 3329

/-- b to the power e modulo 3,329. -/
def powQ (b : Nat) : Nat → Nat
  | 0 => 1
  | e + 1 => b * powQ b e % mlkemQ

/-- zeta to the power of the 7-bit reversal of k. -/
def zetaQ (k : Nat) : Nat := powQ 17 (revBits 7 k)

/-- Layer l (0 to 6) of the forward transform: lengths 128, 64, .. 2. Every coefficient read is reduced first. -/
def nttLayer (l : Nat) (f : List Nat) : List Nat :=
  let len := 128 / 2 ^ l
  let g := fun i => f.getD i 0 % mlkemQ
  (List.range 256).map (fun i =>
    let z := zetaQ (2 ^ l + i / (2 * len))
    if i % (2 * len) < len then (g i + z * g (i + len)) % mlkemQ
    else (g (i - len) + mlkemQ - z * g i % mlkemQ) % mlkemQ)

/-- Layer l (0 to 6) of the inverse: lengths 2, 4, .. 128; the last ends with the product by 3,303. -/
def nttInvLayer (l : Nat) (f : List Nat) : List Nat :=
  let len := 2 * 2 ^ l
  let g := fun i => f.getD i 0 % mlkemQ
  (List.range 256).map (fun i =>
    let z := zetaQ (2 ^ (7 - l) - 1 - i / (2 * len))
    let x := if i % (2 * len) < len then (g i + g (i + len)) % mlkemQ
      else z * ((g i + mlkemQ - g (i - len)) % mlkemQ) % mlkemQ
    if l = 6 then x * 3303 % mlkemQ else x)

/-- Layers `l` to `l + n - 1`, forward or inverse. -/
def nttLayers (inv : Bool) : Nat → Nat → List Nat → List Nat
  | 0, _, f => f
  | n + 1, l, f => nttLayers inv n (l + 1) (if inv then nttInvLayer l f else nttLayer l f)

/-- The coefficients of 512 bytes. -/
def nttRead (bs : List Byte) : List Nat := (List.range 256).map (fun i => leNat (slice bs (2 * i) 2))

/-- The 512 bytes of 256 coefficients. -/
def nttWrite (f : List Nat) : List Byte := f.flatMap (leBytes 2)

end Sys2Proof.Machine
end

