-- ==== Sys2Proof/Machine/Aes.lean ====
section
/-! DEFINITION. AES (FIPS 197) and AES-GCM (SP 800-38D) as the LCEs and KC use them (R37, R52). -/

namespace Sys2Proof.Machine

/-- The S-box of FIPS 197. -/
def aesSbox : List Nat :=
  [0x63, 0x7C, 0x77, 0x7B, 0xF2, 0x6B, 0x6F, 0xC5, 0x30, 0x01, 0x67, 0x2B, 0xFE, 0xD7, 0xAB, 0x76] ++
  [0xCA, 0x82, 0xC9, 0x7D, 0xFA, 0x59, 0x47, 0xF0, 0xAD, 0xD4, 0xA2, 0xAF, 0x9C, 0xA4, 0x72, 0xC0] ++
  [0xB7, 0xFD, 0x93, 0x26, 0x36, 0x3F, 0xF7, 0xCC, 0x34, 0xA5, 0xE5, 0xF1, 0x71, 0xD8, 0x31, 0x15] ++
  [0x04, 0xC7, 0x23, 0xC3, 0x18, 0x96, 0x05, 0x9A, 0x07, 0x12, 0x80, 0xE2, 0xEB, 0x27, 0xB2, 0x75] ++
  [0x09, 0x83, 0x2C, 0x1A, 0x1B, 0x6E, 0x5A, 0xA0, 0x52, 0x3B, 0xD6, 0xB3, 0x29, 0xE3, 0x2F, 0x84] ++
  [0x53, 0xD1, 0x00, 0xED, 0x20, 0xFC, 0xB1, 0x5B, 0x6A, 0xCB, 0xBE, 0x39, 0x4A, 0x4C, 0x58, 0xCF] ++
  [0xD0, 0xEF, 0xAA, 0xFB, 0x43, 0x4D, 0x33, 0x85, 0x45, 0xF9, 0x02, 0x7F, 0x50, 0x3C, 0x9F, 0xA8] ++
  [0x51, 0xA3, 0x40, 0x8F, 0x92, 0x9D, 0x38, 0xF5, 0xBC, 0xB6, 0xDA, 0x21, 0x10, 0xFF, 0xF3, 0xD2] ++
  [0xCD, 0x0C, 0x13, 0xEC, 0x5F, 0x97, 0x44, 0x17, 0xC4, 0xA7, 0x7E, 0x3D, 0x64, 0x5D, 0x19, 0x73] ++
  [0x60, 0x81, 0x4F, 0xDC, 0x22, 0x2A, 0x90, 0x88, 0x46, 0xEE, 0xB8, 0x14, 0xDE, 0x5E, 0x0B, 0xDB] ++
  [0xE0, 0x32, 0x3A, 0x0A, 0x49, 0x06, 0x24, 0x5C, 0xC2, 0xD3, 0xAC, 0x62, 0x91, 0x95, 0xE4, 0x79] ++
  [0xE7, 0xC8, 0x37, 0x6D, 0x8D, 0xD5, 0x4E, 0xA9, 0x6C, 0x56, 0xF4, 0xEA, 0x65, 0x7A, 0xAE, 0x08] ++
  [0xBA, 0x78, 0x25, 0x2E, 0x1C, 0xA6, 0xB4, 0xC6, 0xE8, 0xDD, 0x74, 0x1F, 0x4B, 0xBD, 0x8B, 0x8A] ++
  [0x70, 0x3E, 0xB5, 0x66, 0x48, 0x03, 0xF6, 0x0E, 0x61, 0x35, 0x57, 0xB9, 0x86, 0xC1, 0x1D, 0x9E] ++
  [0xE1, 0xF8, 0x98, 0x11, 0x69, 0xD9, 0x8E, 0x94, 0x9B, 0x1E, 0x87, 0xE9, 0xCE, 0x55, 0x28, 0xDF] ++
  [0x8C, 0xA1, 0x89, 0x0D, 0xBF, 0xE6, 0x42, 0x68, 0x41, 0x99, 0x2D, 0x0F, 0xB0, 0x54, 0xBB, 0x16]

/-- One byte through the S-box. -/
def aesSub (x : Nat) : Nat := aesSbox.getD x 0

/-- A byte times x in GF(2^8). -/
def aesX (b : Nat) : Nat := if b < 128 then 2 * b else (2 * b - 256) ^^^ 0x1B

/-- One word of the key schedule from the word before it and the word nk before it. -/
def aesSchedWord (nk i : Nat) (prev back : List Nat) (rcon : Nat) : List Nat :=
  let t :=
    if i % nk = 0 then
      match prev.map aesSub with
      | [a, b, c, d] => [b ^^^ rcon, c, d, a]
      | l => l
    else if nk = 8 ∧ i % nk = 4 then prev.map aesSub
    else prev
  (back.zip t).map (fun p => p.1 ^^^ p.2)

/-- The key schedule: the words so far, last first, extended n times. -/
def aesExpand (nk : Nat) : Nat → Nat → Nat → List (List Nat) → List (List Nat)
  | 0, _, _, ws => ws
  | n + 1, i, rcon, ws =>
    let w := aesSchedWord nk i (ws.headD []) (ws.getD (nk - 1) []) rcon
    aesExpand nk n (i + 1) (if i % nk = 0 then aesX rcon else rcon) (w :: ws)

/-- A list cut into lists of n; `fuel` bounds their number. -/
def groupsOf {α : Type} (n : Nat) : Nat → List α → List (List α)
  | 0, _ => []
  | _ + 1, [] => []
  | f + 1, l => l.take n :: groupsOf n f (l.drop n)

/-- The round keys of a key of 16 or 32 bytes, each 16 numbers. -/
def aesRoundKeys (key : List Byte) : List (List Nat) :=
  let nk := key.length / 4
  let k := groupsOf 4 nk (key.map (fun b => b.toNat))
  let ws := (aesExpand nk (4 * (nk + 7) - nk) nk 1 k.reverse).reverse
  groupsOf 16 (nk + 7) ws.flatten

/-- Exclusive OR of two lists of numbers. -/
def xorNats (a b : List Nat) : List Nat := (a.zip b).map (fun p => p.1 ^^^ p.2)

/-- ShiftRows: byte 4c + r comes from column c + r. -/
def aesShift (st : List Nat) : List Nat :=
  (List.range 16).map (fun i => st.getD ((i + 4 * (i % 4)) % 16) 0)

/-- MixColumns of one column. -/
def aesMixCol : List Nat → List Nat
  | [a, b, c, d] =>
    [aesX a ^^^ aesX b ^^^ b ^^^ c ^^^ d, a ^^^ aesX b ^^^ aesX c ^^^ c ^^^ d,
     a ^^^ b ^^^ aesX c ^^^ aesX d ^^^ d, aesX a ^^^ a ^^^ b ^^^ c ^^^ aesX d]
  | l => l

/-- The rounds after the first key addition. -/
def aesRounds : List (List Nat) → List Nat → List Nat
  | [], st => st
  | [k], st => xorNats (aesShift (st.map aesSub)) k
  | k :: r, st => aesRounds r (xorNats ((groupsOf 4 4 (aesShift (st.map aesSub))).flatMap aesMixCol) k)

/-- AES of one 16-byte block. -/
def aesBlock (key block : List Byte) : List Byte :=
  match aesRoundKeys key with
  | [] => []
  | k :: r => (aesRounds r (xorNats (block.map (fun b => b.toNat)) k)).map (BitVec.ofNat 8)

/-- HSUB: AES of the zero block (R52). -/
def aesHsub (key : List Byte) : List Byte := aesBlock key (List.replicate 16 0)

/-! ### GCM -/

/-- A product in GF(2^128) with GCM's bit order: bits of x from the most significant, n of them left. -/
def gfMulBits (x : Nat) : Nat → Nat → Nat → Nat
  | 0, _, z => z
  | n + 1, v, z =>
    gfMulBits x n (if v % 2 = 1 then (v / 2) ^^^ (0xE1 * 2 ^ 120) else v / 2) (if x.testBit n then z ^^^ v else z)

/-- GHASH of whole blocks under subkey h. -/
def ghashBlocks (h : Nat) : List (List Byte) → Nat → Nat
  | [], y => y
  | b :: r, y => ghashBlocks h r (gfMulBits (y ^^^ beNat (fit b 16)) 128 h 0)

/-- GHASH of additional data and ciphertext with their lengths. -/
def gcmHash (h aad ct : List Byte) : List Byte :=
  let hn := beNat h
  let a := ghashBlocks hn (chunks 16 (aad.length + 1) aad) 0
  let c := ghashBlocks hn (chunks 16 (ct.length + 1) ct) a
  beBytes 16 (ghashBlocks hn [beBytes 8 (8 * aad.length) ++ beBytes 8 (8 * ct.length)] c)

/-- Counter mode: the blocks of a text under counter block iv, 32-bit counter i. -/
def gcmCtr (key iv : List Byte) : Nat → List (List Byte) → List Byte
  | _, [] => []
  | i, b :: r => xorBytes b (aesBlock key (iv ++ beBytes 4 i)) ++ gcmCtr key iv (i + 1) r

/-- AES-GCM encryption with a 12-byte IV: the ciphertext, and the 16-byte tag. -/
def gcmSeal (key h iv aad pt : List Byte) : List Byte × List Byte :=
  let ct := gcmCtr key iv 2 (chunks 16 (pt.length + 1) pt)
  (ct, xorBytes (gcmHash h aad ct) (aesBlock key (iv ++ beBytes 4 1)))

/-- AES-GCM decryption: the plaintext, and the tag that the ciphertext must carry. -/
def gcmOpen (key h iv aad ct : List Byte) : List Byte × List Byte :=
  (gcmCtr key iv 2 (chunks 16 (ct.length + 1) ct), xorBytes (gcmHash h aad ct) (aesBlock key (iv ++ beBytes 4 1)))

end Sys2Proof.Machine
end

