-- ==== Sys2Proof/Machine/Events.lean ====
section
/-! DEFINITION. What the part writes to the host on its own: ring entries (R288, R291), MSI-X messages (R298), events
(R297), the ends of admin commands (R299), and the drop counters (R45). -/

namespace Sys2Proof.Machine

/-! ### Rings, functions, vectors -/

/-- A ring, if it exists. -/
def ringAt (s : State) (r : Nat) : Option Ring := ffind s.hb.rings r

/-- The state with ring r replaced. -/
def setRing (s : State) (r : Nat) (x : Ring) : State := { s with hb := { s.hb with rings := fset r x s.hb.rings } }

/-- The state without ring r. -/
def delRing (s : State) (r : Nat) : State := { s with hb := { s.hb with rings := fdel r s.hb.rings } }

/-- Entries of a ring between the consumer's and the producer's index (R288). -/
def ringFill (x : Ring) : Nat := (x.prod + 2 ^ x.log - x.cons) % 2 ^ x.log

/-- Whether a ring has room for an entry: it holds at most 2^LOG − 1 (R288). -/
def ringRoom (x : Ring) : Bool := decide (ringFill x + 1 < 2 ^ x.log)

/-- A function's PCIe state. -/
def funcAt (s : State) (f : Nat) : Func := fget {} s.hb.funcs f

/-- The state with a function's PCIe state changed. -/
def updFunc (s : State) (f : Nat) (g : Func → Func) : State :=
  { s with hb := { s.hb with funcs := fset f (g (funcAt s f)) s.hb.funcs } }

/-- Whether the part issues requests for a function: the link is up, its Bus Master Enable is 1 (R318, R320), and it is in
D0 (R280). -/
def funcLive (s : State) (f : Nat) : Bool := s.hb.linkup && (funcAt s f).bme && !(funcAt s f).d3hot

/-- The most bytes of one request: 512 of a write, 4,096 of a read (R280). -/
def hostMost (wr : Bool) : Nat := if wr then 512 else 4096

/-- The addresses and lengths of the requests that n bytes from address a take, none of which crosses a multiple of `lim`
(log 35); the first argument bounds their number. -/
def hostParts (lim : Nat) : Nat → Nat → Nat → List (Nat × Nat)
  | 0, _, _ => []
  | k + 1, a, n =>
    let m := min n (lim - a % lim)
    if n = 0 then [] else (a, m) :: hostParts lim k (a + m) (n - m)

/-- The part reads or writes n bytes of the host's for a function, with or without No Snoop (R286, R292), in requests of the
sizes of R280; the last eight requests stay to be seen, the last of them first. -/
def hostAsk (s : State) (f : Nat) (ns wr : Bool) (a n : Nat) : State :=
  let ps := hostParts (hostMost wr) (n / hostMost wr + 2) a n
  let rs := ps.map (fun p => ({ func := f, nosnoop := ns, write := wr, addr := p.1, len := p.2 } : HostReq))
  { s with hb := { s.hb with req := (rs.reverse ++ s.hb.req).take 8 } }

/-- The part writes bytes to the host's memory for a function. -/
def hostPut (s : State) (f : Nat) (ns : Bool) (a : Nat) (bs : List Byte) : State :=
  putHost (hostAsk s f ns true a bs.length) (addrBytes a bs)

/-- HB_ERR with bit b set. -/
def hbErr (s : State) (b : Nat) : State := { s with hb := { s.hb with err := s.hb.err ||| (1 <<< b) } }

/-- A read of host memory failed (R285). -/
def hostReadFail (s : State) (addr : Nat) : State :=
  let s1 := hbErr s 2
  { s1 with hb := { s1.hb with errAddr := BitVec.ofNat 64 addr } }

/-- Bit b of the PF's AER uncorrectable error status is set (R280). -/
def aerSet (s : State) (b : Nat) : State := { s with hb := { s.hb with aer := s.hb.aer ||| (1 <<< b) } }

/-- A completion fails a read of the part (R285). Which of the three it was, Unsupported Request, Completer Abort or poisoned
data, the command does not say: it is a free value whether AER logs a poisoned TLP, bit 12 (log 35). -/
def hostReadBad (s : State) (addr : Nat) : State :=
  let s1 := hostReadFail s addr
  if Config.poisonedTlp addr s.timebase.toNat then aerSet s1 12 else s1

/-- A vector's state. -/
def vecAt (s : State) (f v : Nat) : MsixVec := fget {} s.hb.vecs (2048 * f + v)

/-- The state with a vector changed. -/
def updVec (s : State) (f v : Nat) (g : MsixVec → MsixVec) : State :=
  { s with hb := { s.hb with vecs := fset (2048 * f + v) (g (vecAt s f v)) s.hb.vecs } }

/-- Whether a vector is masked (R298). -/
def vecMasked (s : State) (f v : Nat) : Bool := (vecAt s f v).mask || (funcAt s f).msixMask || !(funcAt s f).msixEn

/-- A vector's message falls due: it is sent, or the PBA bit waits for the unmasking (R298); no request is sent for a
function that is not live (R318, R320). -/
def msixFire (s : State) (f v : Nat) : State :=
  if vecMasked s f v || !funcLive s f then updVec s f v (fun x => { x with pba := true })
  else updVec s f v (fun x => { x with sent := x.sent + 1, n := 0, pba := false })

/-- Whether the window of a vector's pending entries is over: a timed message is due (R4, R298). -/
def msixDue (s : State) (f v : Nat) : Bool :=
  let x := vecAt s f v
  decide (x.n ≠ 0) && decide (x.time ≠ 0) && decide (x.t0.toNat + 1000 * x.time.toNat ≤ s.timebase.toNat)

/-- One more entry for a vector (R298): an entry at or after the end of the window belongs to the next message, so the
message that is due goes first. -/
def msixCount (s0 : State) (f v : Nat) : State :=
  let s := if msixDue s0 f v && !(vecAt s0 f v).pba then msixFire s0 f v else s0
  let s1 := updVec s f v (fun x => { x with n := x.n + 1, t0 := if x.n = 0 then s.timebase else x.t0 })
  let x := vecAt s1 f v
  if max x.count.toNat 1 ≤ x.n then msixFire s1 f v else s1

/-- A vector that may have become unmasked sends what its PBA bit holds (R298). -/
def msixRelease (s : State) (f v : Nat) : State :=
  if (vecAt s f v).pba && !vecMasked s f v && funcLive s f then msixFire s f v else s

/-- Every vector of a function that has become unmasked or live sends what its PBA bit holds. -/
def msixReleaseAll (s : State) (f : Nat) : State :=
  (s.hb.vecs.filter (fun p => p.1 / 2048 == f)).foldl (fun s p => msixRelease s f (p.1 % 2048)) s

/-- The part writes an entry of 16 bytes to a part-produced ring: PHASE in bit 127, one aligned write, and the count of
the ring's vector (R291, R298). -/
def ringWrite (s : State) (r : Nat) (e : BitVec 128) : State :=
  match ringAt s r with
  | none => s
  | some x =>
    let w := leBytes 16 (nput e.toNat 127 127 (b2n x.phase))
    let p := (x.prod + 1) % 2 ^ x.log
    let s1 := hostPut s x.func x.nosnoop (x.rbase.toNat + 16 * x.prod) w
    let s2 := setRing s1 r { x with prod := p, phase := if p = 0 then !x.phase else x.phase, entries := x.entries + 1 }
    match x.vec with
    | some v => msixCount s2 x.func v
    | none => s2

/-! ### Events -/

/-- The event ring of a function (R287). -/
def eventRing (s : State) (f : Nat) : Option Nat :=
  (s.hb.rings.find? (fun p => p.2.kind == .event && p.2.func == f)).map (fun p => p.1)

/-- An event entry: `arg` holds its ARG bits at their places in the entry (R297). -/
def eventWord (src code arg : Nat) (tick : DWord) : BitVec 128 :=
  BitVec.ofNat 128 (src + 16 * code + arg % 2 ^ 64 / 256 * 256 + tick.toNat % 2 ^ 63 * 2 ^ 64)

/-- The entry that reports lost events. -/
def evLost (lost : Nat) (tick : DWord) : BitVec 128 := eventWord 4 2 (lost % 2 ^ 32 * 256) tick

/-- Held events are written to the event ring while it has room, each after the report of those lost before it. -/
def writeHeld (f r : Nat) : Nat → State → State
  | 0, s => s
  | k + 1, s => match (funcAt s f).held, ringAt s r with
    | e :: rest, some x =>
      if !ringRoom x then s
      else if 0 < e.lost then
        writeHeld f r k (ringWrite (updFunc s f (fun fn => { fn with held := { e with lost := 0 } :: rest })) r
          (evLost e.lost e.lostTick))
      else writeHeld f r k (ringWrite (updFunc s f (fun fn => { fn with held := rest })) r e.word)
    | _, _ => s

/-- What a function's events can do now: held ones are written, then the report of those lost after them (R297). -/
def flushEvents (s : State) (f : Nat) : State :=
  match eventRing s f with
  | none => s
  | some r =>
    if !funcLive s f then s
    else
      let s1 := writeHeld f r (2 * (funcAt s f).held.length + 1) s
      let fn := funcAt s1 f
      match ringAt s1 r with
      | some x =>
        if fn.held.isEmpty && decide (0 < fn.lost) && ringRoom x then
          ringWrite (updFunc s1 f (fun g => { g with lost := 0 })) r (evLost fn.lost fn.lostTick)
        else s1
      | none => s1

/-- An event of function f's ring arises (R297): at most 256 are held; a lost one is counted and reported before any
later event. -/
def postEvent (s : State) (f src code arg : Nat) : State :=
  let fn := funcAt s f
  let s1 :=
    if fn.held.length < 256 then
      updFunc s f (fun g => { g with
        held := g.held ++ [{ lost := g.lost, lostTick := g.lostTick, word := eventWord src code arg s.timebase }]
        lost := 0 })
    else hbErr (updFunc s f (fun g => { g with lost := g.lost + 1, lostTick := s.timebase })) 4
  flushEvents s1 f

/-- A key event (R63). -/
def keyEvent (s : State) (code ctx slot : Nat) : State := postEvent s 0 1 code (ctx * 256 + slot * 2 ^ 24)

/-! ### Admin commands -/

/-- The admin command with number id changed. -/
def updCmd (s : State) (id : Nat) (g : AdmCmd → AdmCmd) : State :=
  { s with adm := { s.adm with cmds := s.adm.cmds.map (fun c => if c.id = id then g c else c) } }

/-- An accepted admin command's effects are in place: its completion can be written (R299). -/
def admEnd (s : State) (id status detail result : Nat) : State :=
  updCmd s id (fun c => { c with status := some status, detail := detail, result := result })

/-! ### Markers acknowledged late (R130) -/

/-- EASEL_ERR with bit b set. -/
def easelErr (s : State) (b : Nat) : State := { s with easel := { s.easel with err := s.easel.err ||| (1 <<< b) } }

/-- Whether vent v's acknowledgement of a marker is missing when the 50 µs since the marker reached its palette are over (R4),
and is not yet reported. -/
def ackLate (s : State) (v : Nat) (m : Migration) : Bool :=
  m.unacked.contains v && !m.late.contains v &&
    (ffind m.arrived v).any (fun t => decide (t.toNat + 50000 ≤ s.timebase.toNat))

/-- EASEL_ERR.MARKLATE is set, and the event names MIGNO, bucket, bank and vent. -/
def markLate (s : State) (v : Nat) (m : Migration) : State :=
  let s1 := easelErr { s with easel := { s.easel with migs := s.easel.migs.map (fun x =>
    if x.migno = m.migno then { x with late := v :: x.late } else x) } } 0
  postEvent s1 0 3 1 (m.bucket * 2 ^ 8 + m.bank * 2 ^ 20 + v * 2 ^ 23 + m.migno.toNat * 2 ^ 32)

/-- Every marker that vent v acknowledges too late is reported. -/
def marksLate (s : State) (v : Nat) : State :=
  (s.easel.migs.filter (ackLate s v)).foldl (fun s m => markLate s v m) s

/-- R252 with R130: the reset of a vent acknowledges its pending markers, the late ones after their report. -/
def resetVent (s : State) (v : Nat) : State := ventReset (marksLate s v) v

/-! ### Drops -/

/-- One more frame of a source dropped for reason `code` (R45). -/
def countDrop (s : State) (src code : Nat) : State :=
  { s with path := { s.path with drops := fupd 0 (64 * src + code) (fun x => x + 1) s.path.drops } }

end Sys2Proof.Machine
end

