-- ==== Sys2Proof/Machine/Store.lean ====
section
/-! DEFINITION. The context and key store with KC: layouts (R48 to R52), access by other masters (R53, R82), slot states
and lifetimes (R55 to R66), transmit numbers (R58 to R60), anti-replay (R67 to R71), and Sketch issues (R84). -/

namespace Sys2Proof.Machine

/-! ### Fields of a parameter block (R50) -/

/-- VALID. -/
def pbValid (b : Nat) : Bool := nbit b 0
/-- PROTO. -/
def pbProto (b : Nat) : Nat := nbits b 2 1
/-- SUITE. -/
def pbSuite (b : Nat) : Nat := nbits b 6 3
/-- TXEN. -/
def pbTxen (b : Nat) : Bool := nbit b 7
/-- RXEN. -/
def pbRxen (b : Nat) : Bool := nbit b 8
/-- ESN. -/
def pbEsn (b : Nat) : Bool := nbit b 13
/-- RXSCI. -/
def pbRxsci (b : Nat) : Nat := nbits b 191 128
/-- WIN. -/
def pbWin (b : Nat) : Nat := nbits b 26 16

/-- Whether a block holds a value that R50 marks "not accepted". -/
def pbBad (b : Nat) : Bool :=
  (pbProto b != 1 && pbProto b != 2) || decide (6 < pbSuite b) ||
  (decide (pbSuite b < 4) && pbProto b != 1) || (decide (4 ≤ pbSuite b) && pbProto b != 2) ||
  nbits b 10 9 == 3 || (nbit b 11 && nbit b 12) || decide (1024 < pbWin b) || nbits b 63 38 != 0

/-! ### Accessors -/

/-- A context record. -/
def ctxAt (s : State) (c : Nat) : CtxRec := fget {} s.store.ctxs c

/-- The state with a context record changed. -/
def updCtx (s : State) (c : Nat) (g : CtxRec → CtxRec) : State :=
  { s with store := { s.store with ctxs := fset c (g (ctxAt s c)) s.store.ctxs } }

/-- Parameter block e of a record. -/
def blkOf (r : CtxRec) (e : Bool) : Nat := if e then r.blk1.toNat else r.blk0.toNat

/-- A record with parameter block e replaced. -/
def setBlk (r : CtxRec) (e : Bool) (b : BitVec 384) : CtxRec := if e then { r with blk1 := b } else { r with blk0 := b }

/-- A slot's metadata. -/
def slotAt (s : State) (c k : Nat) : SlotMeta := fget {} (ctxAt s c).slots k

/-- The state with a slot's metadata changed. -/
def updSlot (s : State) (c k : Nat) (g : SlotMeta → SlotMeta) : State :=
  updCtx s c (fun r => { r with slots := fupd {} k g r.slots })

/-- A key slot's material. -/
def keyAt (s : State) (c k : Nat) : KeySlot := fget {} s.store.keys (6 * c + k)

/-- The state with a key slot's material replaced. -/
def setKey (s : State) (c k : Nat) (x : KeySlot) : State :=
  { s with store := { s.store with keys := fset (6 * c + k) x s.store.keys } }

/-- STATE's values (R55). -/
def slotCode : SlotState → Nat
  | .empty => 0
  | .ready => 1
  | .live => 2
  | .spent => 3
  | .slotSealed => 4
  | .draining => 5

/-- CTX_ERR with bit b set. -/
def ctxErr (s : State) (b : Nat) : State := { s with store := { s.store with err := s.store.err ||| (1 <<< b) } }

/-! ### Byte layout -/

/-- The 16 metadata bytes of slot k; AN of a receive slot reads k − 2. -/
def metaBytes (m : SlotMeta) (k : Nat) : List Byte :=
  leBytes 16 (m.expiry.toNat + m.limit.toNat * 2 ^ 64 + (if k < 2 then m.an.toNat else k - 2) * 2 ^ 120 +
    slotCode m.state * 2 ^ 122 + m.klen.toNat * 2 ^ 125 + b2n m.softSent * 2 ^ 127)

/-- A window word. -/
def winWordNat (w : WinWord) : Nat := w.handle % 2 ^ 17 + b2n w.wok * 2 ^ 17 + b2n w.wue * 2 ^ 18

/-- The 256 bytes of a context record (R49). -/
def ctxBytes (r : CtxRec) : List Byte :=
  leBytes 48 r.blk0.toNat ++ leBytes 48 r.blk1.toNat ++
  (List.range 6).flatMap (fun k => metaBytes (fget {} r.slots k) k) ++
  (List.range 2).flatMap (fun k => leBytes 8 (fget 0 r.next k).toNat) ++
  (List.range 4).flatMap (fun k => leBytes 8 (fget 0 r.high (k + 2)).toNat) ++
  (List.range 4).flatMap (fun k => leBytes 3 (winWordNat (fget {} r.win (k + 2)))) ++
  leBytes 4 (b2n r.curTx + 2 * b2n r.noKeySent)

/-! ### Numbers and lifetimes -/

/-- The highest number the protocol of a block admits (R57). -/
def protoMax (b : Nat) : Nat :=
  if pbSuite b < 2 ∨ (4 ≤ pbSuite b ∧ ¬ pbEsn b) then 0xFFFFFFFF else 2 ^ 64 - 1

/-- The effective limit of a slot under a block (R57). -/
def effLimit (m : SlotMeta) (b : Nat) : Nat :=
  if m.limit.toNat = 2 ^ 56 - 1 then protoMax b else min m.limit.toNat (protoMax b)

/-- Whether tick t has reached a slot's expiry (R57, R64). -/
def expired (m : SlotMeta) (t : Nat) : Bool := m.expiry != 0 && decide (m.expiry.toNat ≤ t)

/-- Whether a transmit slot is exhausted for a frame stamped t under block e (R57). -/
def exhausted (s : State) (c k : Nat) (e : Bool) (t : Nat) : Bool :=
  let m := slotAt s c k
  expired m t || decide (effLimit m (blkOf (ctxAt s c) e) < (fget 0 (ctxAt s c).next k).toNat)

/-- KEY_SOFT_NUM, when number n of a slot has reached its soft point (R63). -/
def softNum (s : State) (c k : Nat) (e : Bool) (n : Nat) : State :=
  let m := slotAt s c k
  let l := effLimit m (blkOf (ctxAt s c) e)
  if !m.softSent && decide (l - l / 8 ≤ n) then
    keyEvent (updSlot s c k (fun m => { m with softSent := true })) 1 c k
  else s

/-- A slot becomes SPENT, with its event (R60, R64). -/
def makeSpent (s : State) (c k : Nat) : State := keyEvent (updSlot s c k (fun m => { m with state := .spent })) 4 c k

/-- A number is taken from transmit slot k (R60): the state, and the result word of R58. -/
def takeNum (s : State) (c k : Nat) (e : Bool) : State × Nat :=
  let n := (fget 0 (ctxAt s c).next k).toNat
  let s1 := updCtx s c (fun r => { r with next := fset k (BitVec.ofNat 64 (n + 1)) r.next })
  (softNum s1 c k e ((n + 1) % 2 ^ 64), n + k * 2 ^ 64 + (slotAt s c k).an.toNat * 2 ^ 65 + 2 ^ 67)

/-- A TXTAKE that finds no slot: OK is 0, and the other fields are left open (R58). -/
def takeNone (s : State) : State × Nat :=
  let (x, s1) := drawFree s
  (s1, x % 2 ^ 67)

/-- TXTAKE of context c for a frame of epoch e stamped t (R60, R71). -/
def kcTake (s : State) (c : Nat) (e : Bool) (t : Nat) : State × Nat :=
  let r := ctxAt s c
  let k := b2n r.curTx
  let o := 1 - k
  if r.ue != 0 then takeNone s
  else if (slotAt s c k).state = .live ∧ ¬ exhausted s c k e t then takeNum s c k e
  else
    let s1 := if (slotAt s c k).state = .live then makeSpent s c k else s
    if (slotAt s1 c o).state = .ready then
      if exhausted s1 c o e t then takeNone (makeSpent s1 c o)
      else
        let s2 := updCtx (updSlot s1 c o (fun m => { m with state := .live })) c (fun r => { r with curTx := !r.curTx })
        takeNum (keyEvent s2 3 c o) c o e
    else if (slotAt s1 c k).state = .ready ∨ (slotAt s1 c o).state = .live then takeNone s1
    else
      let s2 := if r.noKeySent then s1 else keyEvent s1 5 c k
      takeNone (updCtx s2 c (fun r => { r with noKeySent := true }))

/-- The request of TXTAKE port v is performed: an atomic increment, so that numbers rise (R42, R58). A number taken is the
vent's until the job that uses it (R66). -/
def txTakeOne (s : State) (v : Nat) : State :=
  let q := (fget 0 s.store.txReq v).toNat
  let (s1, x) := kcTake s (nbits q 15 0) (nbit q 16) (nbits q 127 64)
  { s1 with store := { s1.store with
      picks := s1.store.picks ++ if nbit x 67 then [(v, 6 * nbits q 15 0 + nbits x 64 64)] else []
      txRes := fset v (BitVec.ofNat 128 x) s1.store.txRes } }

/-- Every TXTAKE request that has reached the store is performed, in the order in which they reached it (R59). -/
def txFlush (s : State) : State :=
  s.store.txQueue.foldl txTakeOne { s with store := { s.store with txQueue := [] } }

/-- The pending request of TXTAKE port v is performed, after those that reached the store before it (R59). -/
def txTakeDo (s : State) (v : Nat) : State :=
  if s.store.txQueue.contains v then
    (s.store.txQueue.takeWhile (fun w => w != v) ++ [v]).foldl txTakeOne
      { s with store := { s.store with txQueue := (s.store.txQueue.dropWhile (fun w => w != v)).tail } }
  else s

/-! ### Replay windows -/

/-- Free replay windows (CTX_WIN_FREE). -/
def winFree (s : State) : Nat := 131072 - s.store.winOwner.length

/-- Easel's number of the present period (R123). -/
def easelPeriod (s : State) : Nat := s.timebase.toNat / 100000

/-- One more final check on a bank of the replay pool in this period (R123, R134). -/
def countFinal (s : State) (w : Nat) : State :=
  let p := easelPeriod s
  { s with store := { s.store with
    finals := fupd 0 (16 * p + w / 8192) (fun n => n + 1) (s.store.finals.filter (fun x => decide (16 * p ≤ x.1 + 16))) } }

/-- Final checks on a bank of the replay pool in the last period. -/
def lastFinals (s : State) (b : Nat) : Nat := if easelPeriod s = 0 then 0 else fget 0 s.store.finals (16 * (easelPeriod s - 1) + b)

/-- Whether a bank of the replay pool has a free window. -/
def bankFree (s : State) (b : Nat) : Bool := decide ((s.store.winOwner.filter (fun p => p.1 / 8192 == b)).length < 8192)

/-- The banks with a free window and the fewest final checks in the last period (R134). -/
def calmBanks (s : State) : List Nat :=
  let l := (List.range 16).filter (bankFree s)
  l.filter (fun b => l.all (fun k => decide (lastFinals s b ≤ lastFinals s k)))

/-- The first free window of bank b from w on, around the bank. -/
def findFree (m : FMap Nat) (b : Nat) : Nat → Nat → Nat
  | 0, w => 8192 * b + w % 8192
  | f + 1, w => if fhas m (8192 * b + w % 8192) then findFree m b f (w + 1) else 8192 * b + w % 8192

/-- A receive slot's window word. -/
def winAt (s : State) (c k : Nat) : WinWord := fget {} (ctxAt s c).win k

/-- The state with a receive slot's window word replaced. -/
def setWin (s : State) (c k : Nat) (w : WinWord) : State := updCtx s c (fun r => { r with win := fset k w r.win })

/-- R72 step 1: a receive slot that holds no window takes a free one, in a bank with the fewest final checks; which bank of
those, and which window, is Easel's choice (R134). -/
def reserveWin (s : State) (c k : Nat) : State :=
  if (winAt s c k).wok then s
  else
    let (x, s1) := drawFree s
    let l := calmBanks s
    let w := findFree s.store.winOwner (l.getD (x % l.length) 0) (s.store.winOwner.length + 1) (x / 16)
    setWin { s1 with store := { s1.store with winOwner := fset w (6 * c + k) s1.store.winOwner } } c k
      { handle := w, wok := true }

/-- A slot's window returns to the pool. -/
def freeWin (s : State) (c k : Nat) : State :=
  let w := winAt s c k
  if w.wok then
    setWin { s with store := { s.store with
      winOwner := fdel w.handle s.store.winOwner
      windows := fdel w.handle s.store.windows } } c k {}
  else s

/-- A window's bits. -/
def winBits (s : State) (w : Nat) : BitVec 1024 := fget 0 s.store.windows w

/-- The state with a window's bits replaced. -/
def setWinBits (s : State) (w : Nat) (b : BitVec 1024) : State :=
  { s with store := { s.store with windows := if b = 0 then fdel w s.store.windows else fset w b s.store.windows } }

/-- Bits n = lo to hi − 1 of a window, modulo 1,024, are cleared; `fuel` bounds their number. -/
def clearRun : Nat → Nat → Nat → Nat → Nat
  | 0, _, _, b => b
  | f + 1, lo, hi, b => if hi ≤ lo then b
      else clearRun f (lo + 1) hi (if b.testBit (lo % 1024) then b - 2 ^ (lo % 1024) else b)

/-- The final replay check of number p under receive slot k of context c, for a frame of epoch e (R69, R71): whether it
is accepted, and the state after it. -/
def finalCheck (s : State) (c k : Nat) (e : Bool) (p : Nat) : Bool × State :=
  let r := ctxAt s c
  let w := pbWin (blkOf r e)
  let h := (fget 0 r.high k).toNat
  let ww := winAt s c k
  let bits := (winBits s ww.handle).toNat
  if r.ue != 0 || p == 0 || (decide (w ≤ h) && decide (p ≤ h - w)) then (false, s)
  else
    let limitHit (s : State) := if p = effLimit (slotAt s c k) (blkOf r e) ∧ (slotAt s c k).state = .live then makeSpent s c k else s
    if p ≤ h then
      if ww.wue || bits.testBit (p % 1024) then (false, s)
      else (true, limitHit (setWinBits s ww.handle (BitVec.ofNat 1024 (bits + 2 ^ (p % 1024)))))
    else
      let far := decide (1024 ≤ p - h)
      let b := if far then 0 else clearRun 1024 (h + 1) (p + 1) bits
      let s1 := setWinBits s ww.handle (BitVec.ofNat 1024 (b + 2 ^ (p % 1024)))
      let s2 := if far then setWin s1 c k { ww with wue := false } else s1
      let s3 := updCtx s2 c (fun r => { r with high := fset k (BitVec.ofNat 64 p) r.high })
      (true, limitHit (softNum s3 c k e p))

/-- KC performs a final check, after the requests that reached the store before it (R59). -/
def kcFinal (s : State) (c k : Nat) (e : Bool) (p : Nat) : Bool × State :=
  finalCheck (countFinal (txFlush s) (winAt (txFlush s) c k).handle) c k e p

/-! ### Loading and retiring keys -/

/-- KC writes a slot (R60, R72): its material, metadata, first number, and a clear window. -/
def keyInstall (s : State) (c k : Nat) (x : KeySlot) (m : SlotMeta) (init : DWord) : State :=
  let s1 := updCtx (setKey s c k x) c (fun r => { r with ue := r.ue &&& ~~~((1 : Byte) <<< k) })
  let s2 := { s1 with store := { s1.store with ueKeys := s1.store.ueKeys.filter (· != 6 * c + k) } }
  if k < 2 then
    let o := 1 - k
    let s3 := updCtx s2 c (fun r => { r with next := fset k init r.next })
    if (slotAt s3 c o).state = .live then updSlot s3 c k (fun _ => { m with state := .ready, softSent := false })
    else
      updCtx (updSlot s3 c k (fun _ => { m with state := .live, softSent := false })) c
        (fun r => { r with curTx := k == 1, noKeySent := false })
  else
    let s3 := setWinBits s2 (winAt s2 c k).handle 0
    let s4 := setWin s3 c k { winAt s3 c k with wue := false }
    let s5 := updCtx s4 c (fun r => { r with high := fset k init r.high })
    updSlot s5 c k (fun _ => { m with state := .live, softSent := false })

/-- A slot becomes EMPTY: material zeroed, window returned (R60, R73). R60 names no other field, so the slot's metadata
keep their values (notes/assumptions/50.md). -/
def keyEmpty (s : State) (c k : Nat) : State :=
  let s1 := updCtx (setKey s c k {}) c (fun r => { r with ue := r.ue &&& ~~~((1 : Byte) <<< k) })
  let s2 := { s1 with store := { s1.store with ueKeys := s1.store.ueKeys.filter (· != 6 * c + k) } }
  freeWin (updSlot s2 c k (fun m => { m with state := .empty })) c k

/-- n bytes of a frame from offset o, in its cells. -/
def cellBytesAt (s : State) (f : Frame) (o n : Nat) : List Byte :=
  (List.range n).flatMap (fun i => getMem s (cellBase (f.cells.getD ((o + i) / 256) 0) + (o + i) % 256) 1)

/-- Whether the SPI of an ESP frame equals TAGID of receive slot k. -/
def spiMatches (s : State) (f : Frame) (k : Nat) : Bool :=
  leNat (cellBytesAt s f (if f.kind < 6 then f.l4off else f.l4off + 8) 4).reverse == (keyAt s f.ctx k).tagid.toNat

/-- Whether a vent that has a frame to decrypt selects receive slot k for it: by AN, or by SPI among LIVE slots, slot 2
first (R65). A selection made before the slot became SPENT stands (R66). -/
def rxSelects (s : State) (f : Frame) (c k : Nat) : Bool :=
  let st (i : Nat) : SlotState := (slotAt s c i).state
  f.action == 3 && f.ctx == c && (if f.kind = 3 then k == 2 + leNat (cellBytesAt s f (f.secoff + 2) 1) % 4
    else decide (4 ≤ f.kind) && decide (f.kind ≤ 7) && (st k == .live || st k == .spent) && spiMatches s f k &&
      (k == 2 || (k == 3 && !(st 2 == .live && spiMatches s f 2))))

/-- The frames with vents that have selected a receive slot (R66). -/
def rxFrames (s : State) (c k : Nat) : List Nat :=
  (s.path.frames.filter (fun p => (match p.2.stage with
    | .atVent _ => true
    | _ => false) && rxSelects s p.2 c k)).map (fun p => p.1)

/-- Whether a job's descriptor names a slot: a staging job's does not (R105). -/
def jobNames (d c k : Nat) : Bool := !(nbit d 254 && !nbit d 255) && nbits d 31 16 == c && nbits d 34 32 == k

/-- Whether a drain must wait: for a job that names its slot, for a TXTAKE result of the slot that no job has used yet, or
for a frame that has selected it and is still with its vent (R66). -/
def slotBusy (s : State) (d : DrainJob) : Bool :=
  s.path.jobs.any (fun j => jobNames j.desc.toNat d.ctx d.slot) ||
  s.store.picks.any (fun x => x.2 == 6 * d.ctx + d.slot) ||
  d.frames.any (fun n => match (fget {} s.path.frames n).stage with
    | .atVent _ => true
    | _ => false)

/-- A slot's drain ends and its command proceeds (R60, R66). The last KEY_DERIVE_KEM to end starts the 1 ms of R75. -/
def drainEnd (s : State) (d : DrainJob) : State :=
  let s1 := { s with store := { s.store with
    drains := s.store.drains.filter (fun w => !(w.ctx == d.ctx && w.slot == d.slot))
    kemIdleAt := if d.kem then s.timebase else s.store.kemIdleAt } }
  let s2 := match d.load with
    | some (x, m, init) => keyInstall s1 d.ctx d.slot x m init
    | none => keyEmpty s1 d.ctx d.slot
  admEnd s2 d.cmd 0 0 0

/-- DRAIN_COMPLETE (R60, R66): the slot's drain ends once nothing holds it. -/
def drainDone (s : State) (c k : Nat) : State :=
  match s.store.drains.find? (fun d => d.ctx == c && d.slot == k) with
  | none => s
  | some d => if slotBusy s d then s else drainEnd (txFlush s) d

/-- A slot becomes DRAINING for a command (R66). -/
def drainStart (s : State) (d : DrainJob) : State :=
  let s1 := updSlot s d.ctx d.slot (fun m => { m with state := .draining })
  { s1 with store := { s1.store with drains := s1.store.drains ++ [{ d with frames := rxFrames s d.ctx d.slot }] } }

/-- A slot starts to be written for command id: an EMPTY or SEALED slot at once, any other after its drain (R66, R80). -/
def keyLoadStart (s : State) (c k : Nat) (x : KeySlot) (m : SlotMeta) (init : DWord) (id : Nat) (kem : Bool) : State :=
  let st := (slotAt s c k).state
  if st = .empty ∨ st = .slotSealed then admEnd (keyInstall s c k x m init) id 0 0 0
  else drainStart s { ctx := c, slot := k, load := some (x, m, init), cmd := id, kem := kem }

/-- KEY_RETIRE of a slot for command id (R60, R73). -/
def keyRetireStart (s : State) (c k id : Nat) : State :=
  let st := (slotAt s c k).state
  let o := 1 - k
  if st = .empty then admEnd s id 0 0 0
  else
    let s1 := drainStart s { ctx := c, slot := k, cmd := id }
    if k < 2 ∧ k = b2n (ctxAt s c).curTx ∧ (st = .live ∨ st = .spent) ∧ (slotAt s c o).state = .ready then
      keyEvent (updCtx (updSlot s1 c o (fun m => { m with state := .live })) c (fun r => { r with curTx := !r.curTx })) 3 c o
    else s1

/-- A vent finds a frame's stamp at or past the expiry of its receive slot: KC makes a LIVE slot SPENT (R4, R64). -/
def rxExpire (s0 : State) (f : Frame) (k : Nat) : State :=
  let s := txFlush s0
  if (slotAt s f.ctx k).state = .live ∧ expired (slotAt s f.ctx k) f.tick.toNat then makeSpent s f.ctx k else s

/-- KEY_SCAN (R61) of one slot: KEY_SOFT_TIME for each LIVE or READY slot near its expiry. -/
def keyScanSlot (s : State) (c k : Nat) : State :=
  let m := slotAt s c k
  if (m.state = .live ∨ m.state = .ready) ∧ m.expiry ≠ 0 ∧ m.softSent = false ∧
      m.expiry.toNat ≤ s.timebase.toNat + s.store.softTime.toNat then
    updSlot (keyEvent s 2 c k) c k (fun m => { m with softSent := true })
  else s

/-! ### Access by the matrix (R48, R53, R82) -/

/-- What a byte offset of the store holds: a context record's byte, a key slot's, a window's, a TXTAKE port's, or
nothing. -/
inductive StoreLoc where
  | ctx (c o : Nat) | key (i o : Nat) | win (w o : Nat) | tx (v o : Nat) | none
deriving DecidableEq, Repr

/-- R48. -/
def storeLoc (o : Nat) : StoreLoc :=
  if o < 0x1000000 then .ctx (o / 256) (o % 256)
  else if o < 0x2800000 then .key ((o - 0x1000000) / 64) (o % 64)
  else if o < 0x3800000 then .win ((o - 0x2800000) / 128) (o % 128)
  else if o < 0x3800000 + 3104 then .tx ((o - 0x3800000) / 32) (o % 32)
  else .none

/-- The slot whose metadata, numbers or window word a byte of a context record belongs to (R71). -/
def ctxByteSlot (o : Nat) : Option Nat :=
  if o < 0x60 then none
  else if o < 0xC0 then some ((o - 0x60) / 16)
  else if o < 0xD0 then some ((o - 0xC0) / 8)
  else if o < 0xF0 then some ((o - 0xD0) / 8 + 2)
  else if o < 0xFC then some ((o - 0xF0) / 3 + 2)
  else none

/-- One byte as other masters read it: key fields read zero (R53). -/
def storeByte (s : State) (o : Nat) : Byte :=
  match storeLoc o with
  | .ctx c i => (ctxBytes (ctxAt s c)).getD i 0
  | .key k i => if i < 60 then 0 else (leBytes 4 (fget {} s.store.keys k).tagid.toNat).getD (i - 60) 0
  | .win w i => BitVec.ofNat 8 ((winBits s w).toNat >>> (8 * i))
  | .tx v i => if i < 16 then 0 else BitVec.ofNat 8 ((fget 0 s.store.txRes v).toNat >>> (8 * (i - 16)))
  | .none => 0

/-- Whether a byte of the store holds an uncorrectable error (R71). -/
def storeBad (s : State) (o : Nat) : Bool :=
  match storeLoc o with
  | .ctx c i => match ctxByteSlot i with
    | some k => (ctxAt s c).ue.getLsbD k
    | none => false
  | .key k i => decide (60 ≤ i) && s.store.ueKeys.contains k
  | .win w _ => match ffind s.store.winOwner w with
    | some k => (winAt s (k / 6) (k % 6)).wue
    | none => false
  | _ => false

/-- A read of the store by a master other than the LCEs and KC. A load from a TXTAKE port performs the port's pending
request first (R58); the request half of a port is left open. -/
def storeRead (s : State) (o n : Nat) : RespCode × List Byte × State :=
  let offs := (List.range n).map (fun i => o + i)
  if offs.any (fun i => storeLoc i == .none) then (.error, List.replicate n 0, s)
  else if offs.any (storeBad s) then (.ue, List.replicate n 0, s)
  else
    let s1 := offs.foldl (fun s i => match storeLoc i with
      | .tx v k => if 16 ≤ k then txTakeDo s v else s
      | _ => s) s
    let open_ := offs.any (fun i => match storeLoc i with
      | .tx _ k => decide (k < 16)
      | _ => false)
    let (x, s2) := if open_ then drawFree s1 else (0, s1)
    (.okay, offs.map (fun i => match storeLoc i with
      | .tx _ k => if k < 16 then BitVec.ofNat 8 (x >>> (8 * k)) else storeByte s2 i
      | _ => storeByte s2 i), s2)

/-- One byte written by a master other than KC (R53, R58, R74, R82). The result half of a TXTAKE port takes no byte, and byte
15 of its request half makes the request, of which the spec says nothing (notes/assumptions/16.md). -/
def storeWriteByte (s : State) (o : Nat) (b : Byte) : State :=
  match storeLoc o with
  | .ctx c i =>
    if 0x60 ≤ i then ctxErr s 1
    else
      let e := decide (0x30 ≤ i)
      if s.sets.pending || e == s.sets.epoch then ctxErr s 2
      else updCtx s c (fun r =>
        let j := if e then i - 0x30 else i
        setBlk r e (BitVec.ofNat 384 (nput (blkOf r e) (8 * j + 7) (8 * j) b.toNat)))
  | .key k i =>
    if 60 ≤ i then s
    else if (slotAt s (k / 6) (k % 6)).state = .empty then
      { s with store := { s.store with keys := fupd {} k (fun x =>
          let w := nput (x.key.toNat + x.salt.toNat * 2 ^ 256 + x.hsub.toNat * 2 ^ 352) (8 * i + 7) (8 * i) b.toNat
          { x with
            key := BitVec.ofNat 256 w
            salt := BitVec.ofNat 96 (w / 2 ^ 256)
            hsub := BitVec.ofNat 128 (w / 2 ^ 352) }) s.store.keys } }
    else ctxErr s 0
  | .tx v i =>
    if i < 16 then
      let q := nput (fget 0 s.store.txReq v).toNat (8 * i + 7) (8 * i) b.toNat
      { s with store := { s.store with
          txReq := fset v (BitVec.ofNat 128 q) s.store.txReq
          txQueue := if i = 15 then s.store.txQueue ++ [v] else s.store.txQueue } }
    else s
  | _ => s

/-- A write of the store: the windows can only be read, and uncovered addresses receive an error (R48). A new request
of a TXTAKE port whose last one is still pending comes after it. -/
def storeWrite (s : State) (w : List (Nat × Byte)) : RespCode × State :=
  if w.any (fun p => match storeLoc p.1 with
      | .none => true
      | .win _ _ => true
      | _ => false) then (.error, s)
  else
    let s1 := w.foldl (fun s p => match storeLoc p.1 with
      | .tx v 0 => txTakeDo s v
      | _ => s) s
    (.okay, w.foldl (fun s p => storeWriteByte s p.1 p.2) s1)

/-! ### Sketch (R81 to R84) -/

/-- The epoch of Sketch. -/
def sketchE (s : State) : Bool := !s.sets.epoch

/-- A configuration set. -/
def setAt (s : State) (e : Bool) : ConfigSet := if e then s.sets.set1 else s.sets.set0

/-- The state with a configuration set changed. -/
def updSet (s : State) (e : Bool) (g : ConfigSet → ConfigSet) : State :=
  if e then { s with sets := { s.sets with set1 := g s.sets.set1 } }
  else { s with sets := { s.sets with set0 := g s.sets.set0 } }

/-- Whether a number names a frame-to-host ring. -/
def isToHost (s : State) (q : Nat) : Bool := match ringAt s q with
  | some r => r.kind == .tohost
  | none => false

/-- Issues of one rule's result in set e (R84). -/
def ruleIssue (s : State) (e : Bool) (r : RuleRes) : Nat :=
  let b := blkOf (ctxAt s r.ctx) e
  if r.action = 2 then b2n (!pbValid b || !pbTxen b)
  else if r.action = 3 then b2n (!pbValid b || !pbRxen b)
  else if r.action = 4 then b2n (!isToHost s (r.rdata % 4096))
  else 0

/-- The sub-port that a sub-port is paired with in a set: two form a pair when each names the other (R308). -/
def pairOf (c : ConfigSet) (k : Nat) : Option Nat :=
  let j := (fget {} c.sub k).partner
  if j < 32 ∧ (fget {} c.sub j).partner = k then some j else none

/-- Issues of a sub-port's attributes in a set (R84, R308). -/
def subIssues (s : State) (c : ConfigSet) (k : Nat) : Nat :=
  let a := fget {} c.sub k
  let named := ((List.range 32).filter (fun j => (fget {} c.sub j).partner == k)).length
  b2n (a.missHost && !isToHost s (a.missq % 4096)) + b2n (decide (2 ≤ named)) +
    b2n (decide (a.partner < 32) && (fget {} c.sub a.partner).partner != k)

/-- SET_ISSUES of the set of epoch e. -/
def issuesOf (s : State) (e : Bool) : Nat :=
  let c := setAt s e
  (s.store.ctxs.map (fun p => let b := blkOf p.2 e; b2n (pbValid b && pbBad b))).sum +
  (c.em.map (fun p => ruleIssue s e p.2.res)).sum + (c.wild.map (fun p => ruleIssue s e p.2.res)).sum +
  ((List.range 32).map (subIssues s c)).sum

/-- SET_ISSUES. -/
def setIssues (s : State) : Nat := issuesOf s (sketchE s)

/-- Whether a frame is a dummy that Glaze made (KIND 3 of R107): Intake never classified it. -/
def madeDummy (f : Frame) : Bool := wbits f.desc 86 84 == 3

/-- Frames stamped `e` in the part (R85: from classification until they leave, are delivered or dropped). One carried in
pieces counts once, whichever of its pieces are in the part (R113). -/
def oldFrames (s : State) (e : Bool) : Nat :=
  ((s.path.frames.filter (fun p => p.2.epoch == e && !madeDummy p.2)).map (fun p => p.2.gfid.getD p.1)).eraseDups.length

end Sys2Proof.Machine
end

