-- ==== Sys2Proof/Machine/Views.lean ====
section
/-! DEFINITION. What follows from the state: PB cells in use (R90), pinned queue contexts (R97), ports and sub-ports (R26,
R355), steering and drained calderas (R124, R139), the output balls (R347, R348). -/

namespace Sys2Proof.Machine

/-! ### Ports -/

/-- A port. -/
def portAt (s : State) (p : Nat) : Port := fget {} s.ports p

/-- The state with a port changed. -/
def updPort (s : State) (p : Nat) (g : Port → Port) : State := { s with ports := fset p (g (portAt s p)) s.ports }

/-- A sub-port. -/
def subAt (s : State) (src : Nat) : SubPort := fget {} s.subs src

/-- The state with a sub-port changed. -/
def updSub (s : State) (src : Nat) (g : SubPort → SubPort) : State := { s with subs := fset src (g (subAt s src)) s.subs }

/-- Sub-ports of a breakout: 1 × 800G, 2 × 400G, 4 × 200G, 8 × 100G. -/
def brkCount (b : BitVec 2) : Nat := 2 ^ b.toNat

/-- Whether source number src names a sub-port of its port's breakout (R26). -/
def subExists (s : State) (src : Nat) : Bool := decide (src < 32) && decide (src % 8 < brkCount (portAt s (src / 8)).brkout)

/-- The configured rate of a sub-port of breakout b in Gbit/s. -/
def brkRate (b : BitVec 2) : Nat := 800 / 2 ^ b.toNat

/-- Lanes of sub-port k of breakout b, as a mask. -/
def brkLanes (b : BitVec 2) (k : Nat) : Nat := (2 ^ (8 / 2 ^ b.toNat) - 1) * 2 ^ (k * (8 / 2 ^ b.toNat))

/-- Lanes of a port that hold a fault: loss of signal, its 100 ms count included, or a shorted transmitter (R354,
R356). -/
def faultLanes (x : Port) : Nat := (x.los ||| x.losPend ||| x.txfault).toNat

/-- A run of n lanes from lane st, as a mask. -/
def runMask (st n : Nat) : Nat := (2 ^ n - 1) * 2 ^ st

/-- The lanes that a sub-port of n lanes from lane `start` can use beside the faulty ones (R355): at each width from w
down, the first run that holds no fault, as far as the permission bits allow. Start and width, or none when it goes
down. -/
def fallRun (perm fault start n : Nat) : Nat → Nat → Option (Nat × Nat)
  | 0, _ => none
  | f + 1, w =>
    match ((List.range (n / w)).map (fun i => start + w * i)).find? (fun st => fault &&& runMask st w == 0) with
    | some st => some (st, w)
    | none =>
      if w < 2 ∨ ¬ nbit perm (if w = 8 then 0 else if w = 4 then 1 else 2) then none
      else fallRun perm fault start n f (w / 2)

/-- The lanes that sub-port src uses when it trains now. -/
def subRun (s : State) (src : Nat) : Option (Nat × Nat) :=
  let x := portAt s (src / 8)
  let n := 8 / brkCount x.brkout
  fallRun x.fallPerm.toNat (faultLanes x) (src % 8 * n) n 5 n

/-- Whether a sub-port is up. -/
def subUp (s : State) (src : Nat) : Bool := subExists s src && (portAt s (src / 8)).link.getLsbD (src % 8)

/-- The lanes sub-port k of a port uses: those recorded at its last link-up, else those of its breakout. -/
def usedLanes (x : Port) (k : Nat) : Nat := match ffind x.lanes k with
  | some m => m.toNat
  | none => brkLanes x.brkout k

/-- PORT_STAT.FALLBACK. -/
def fallenBack (x : Port) : Bool :=
  (List.range (brkCount x.brkout)).any (fun k => usedLanes x k != brkLanes x.brkout k)

/-- A sub-port goes down, with its event (R355, R366). Reasons: 0 link partner, 1 loss of signal, 2 lane fault,
3 reference lost, 4 breakout change, 5 shutdown. -/
def subDown (s : State) (src reason : Nat) : State :=
  if subUp s src then
    postEvent (updPort s (src / 8) (fun x => { x with link := x.link &&& ~~~((1 : Byte) <<< (src % 8)) })) 0 5 2
      (src * 256 + reason * 2 ^ 14)
  else s

/-- Every sub-port of a port goes down. -/
def portDown (s : State) (p reason : Nat) : State := (List.range 8).foldl (fun s k => subDown s (8 * p + k) reason) s

/-- Every fallen-back sub-port of a port whose lanes are all clear goes down to train at its configured width (R356). -/
def retrainPort (s : State) (p : Nat) : State :=
  (List.range 8).foldl (fun s k =>
    let x := portAt s p
    if usedLanes x k != brkLanes x.brkout k && faultLanes x &&& brkLanes x.brkout k == 0 then subDown s (8 * p + k) 2 else s) s

/-- PORT_STAT.LANEOK. -/
def laneOk (x : Port) : Byte := x.signal &&& ~~~x.los &&& ~~~x.txfault

/-! ### PB and queues -/

/-- PB cells in use. -/
def usedCells (s : State) : Nat := (s.path.frames.map (fun p => p.2.cells.length)).sum

/-- Free PB cells (QM_STAT.PBFREE). -/
def pbFree (s : State) : Nat := 196608 - usedCells s

/-- A queue's frames, on die and in HBM. -/
def queueFrames (q : Queue) : List Nat := q.ondie ++ q.hbm

/-- Whether queue q's context is pinned in the cache (R97). -/
def pinned (q : Queue) : Bool := !(queueFrames q).isEmpty

/-- Pinned queue contexts (QM_CACHE.PINNED). -/
def pinnedCount (s : State) : Nat := (s.qm.queues.filter (fun p => pinned p.2)).length

/-- QM_ERR with bit b set; a bit that goes from 0 to 1 makes source 20 pending at every vent (R251). -/
def qmErr (s : State) (b : Nat) : State :=
  if s.qm.err.getLsbD b then s
  else
    let s1 := { s with qm := { s.qm with err := s.qm.err ||| (1 <<< b) } }
    (List.range (8 * nCals s)).foldl (fun s v => latchInt s v 20) s1

/-! ### Easel -/

/-- Steering entry b of bank j (R124). Bank 0's entries are always VALID. -/
def steerAt (s : State) (j b : Nat) : Steer :=
  match ffind s.easel.steer (4096 * j + b) with
  | some e => e
  | none => if j = 0 then { vent := Config.initialVent b % (8 * nCals s), valid := true } else {}

/-- The state with a steering entry replaced. -/
def setSteer (s : State) (j b : Nat) (e : Steer) : State :=
  { s with easel := { s.easel with steer := fset (4096 * j + b) e s.easel.steer } }

/-- The LCE that the map names for vent v (R132). -/
def lceOf (s : State) (v : Nat) : Nat :=
  match ffind s.easel.lceMap v with
  | some n => n
  | none => Config.initialLce v % nLces s

/-- Whether a vent set of base v and width 2^w includes a vent of caldera c. -/
def setHits (v w c : Nat) : Bool := (List.range (2 ^ w)).any (fun i => (v + i) / 8 == c)

/-- Entries of all banks whose set includes a vent of caldera c (R143). -/
def calEntries (s : State) (c : Nat) : Nat :=
  ((List.range (5 * 4096)).filter (fun i => let e := steerAt s (i / 4096) (i % 4096); e.valid && setHits e.vent e.spread c)).length

/-- Whether a migration involves caldera c. -/
def migHits (s : State) (c : Nat) : Bool :=
  s.easel.migs.any (fun m =>
    let e := steerAt s m.bank m.bucket
    setHits e.vent e.spread c || setHits e.fromV e.fromSpr c)

/-- Whether the input ring of a vent is empty and nothing waits to enter it. -/
def ringEmpty (x : VentIn) : Bool := x.prod == x.cons && x.items.isEmpty

/-- Whether caldera c is drained (R139); absent calderas are. -/
def drained (s : State) (c : Nat) : Bool :=
  !calFitted s c ||
  ((s.store.kemSealed != some c) && !migHits s c &&
    (List.range 8).all (fun i => ringEmpty (ventAt s (8 * c + i)).inp) &&
    !s.path.jobs.any (fun j => j.vent / 8 == c) && calEntries s c == 0)

/-- EASEL_STAT.DRAINED as a number. -/
def drainedMask (s : State) : Nat := ((List.range 12).map (fun c => b2n (drained s c) * 2 ^ c)).sum

/-- Calderas held by any reservation (EASEL_CAL.RESV). -/
def reservedMask (s : State) : Nat := (s.easel.reserves.foldl (fun a p => a ||| p.2.cals) (0 : BitVec 12)).toNat

/-- The bank that caldera c belongs to (R126). -/
def calBank (s : State) (c : Nat) : Nat :=
  match s.easel.reserves.find? (fun p => p.2.cals.getLsbD c) with
  | some p => p.1
  | none => 0

/-- The bank that serves a source (R124, R137). -/
def bankOf (s : State) (src : Nat) : Nat := fget 0 s.easel.srcBank src

/-- Bytes at the top of each caldera memory that hold the context cache (R135). -/
def ctxcSize (s : State) : Nat :=
  match wbits s.easel.cfg 23 22 with
  | 1 => 0x40000
  | 2 => 0x80000
  | _ => 0

/-! ### Balls -/

/-- PRIMED (R347). -/
def ballPrimed (s : State) : Bool := s.glob.phase == .primed && s.glob.fail == 0

/-- Whether ALERT_N is driven low (R348). -/
def ballAlert (s : State) : Bool :=
  s.glob.fail != 0 || s.power.shut || (s.path.alarmAlert && (s.path.alarmP ||| s.path.alarmC) != 0) ||
  (s.power.err &&& s.power.alerten) != 0

/-- Whether SHUTREQ_N is driven low (R347). -/
def ballShutreq (s : State) : Bool := s.power.shut

end Sys2Proof.Machine
end

