-- ==== Sys2Proof/Machine/DmaBase.lean ====
section
/-! DEFINITION. DMA channels without the matrix: registers, notices, halts (R270, R271, R276). -/

namespace Sys2Proof.Machine

/-- A DMA channel. -/
def dmaAt (s : State) (n : Nat) : Dma := fget {} s.mx.dma n

/-- The state with a channel changed. -/
def updDma (s : State) (n : Nat) (g : Dma → Dma) : State :=
  { s with mx := { s.mx with dma := fset n (g (dmaAt s n)) s.mx.dma } }

/-- DCH_STAT.STATE's values. -/
def dmaCode : DmaState → Nat
  | .idle => 0
  | .run => 1
  | .wait => 2
  | .done => 3
  | .halted => 4

/-- Whether a channel is under way. -/
def dmaBusy (x : Dma) : Bool := x.state == .run || x.state == .wait

/-- NVENT of the channel's descriptor, 0 when none has been fetched. -/
def dmaNvent (x : Dma) : Nat := match x.cur with
  | some d => nbits d.toNat 126 124
  | none => 0

/-- A channel's notice: the DMA interrupt of a vent of its caldera, or a notice to the MV (R270, R251). -/
def dmaNotice (s : State) (n : Nat) : State :=
  let s1 := updDma s n (fun x => { x with evt := true })
  if 192 ≤ n then { s1 with mx := { s1.mx with mvNotice := s1.mx.mvNotice + 1 } }
  else latchInt s1 (8 * (n / 16) + dmaNvent (dmaAt s n)) 18

/-- A channel whose next access must wait stands behind those that wait already (R279). -/
def dmaWait (s : State) (n : Nat) : State :=
  { s with mx := { s.mx with waiting := s.mx.waiting.filter (· != n) ++ [n] } }

/-- A channel waits for no access. -/
def dmaUnwait (s : State) (n : Nat) : State := { s with mx := { s.mx with waiting := s.mx.waiting.filter (· != n) } }

/-- A channel halts with a cause and posts its notice (R251, R276). -/
def dmaHalt (s : State) (n cause : Nat) : State :=
  dmaNotice (updDma (dmaUnwait s n) n (fun x => { x with state := .halted, cause := cause, failed := none })) n

/-- DCH_CTL.START (R271): the chain starts at DCH_DESC; the descriptor is fetched by the matrix. -/
def dmaStart (s : State) (n : Nat) : State :=
  if dmaBusy (dmaAt s n) then s
  else updDma s n (fun x => { x with state := .run, cause := 0, retries := 0, failed := none, cur := none, left := 0 })

/-- DCH_CTL.ABORT (R276). -/
def dmaAbort (s : State) (n : Nat) : State := if dmaBusy (dmaAt s n) then dmaHalt s n 10 else s

/-- Every channel of a caldera that is under way halts with a cause (R277, R278). -/
def dmaHaltCal (s : State) (c cause : Nat) : State :=
  (List.range 16).foldl (fun s i => if dmaBusy (dmaAt s (16 * c + i)) then dmaHalt s (16 * c + i) cause else s) s

end Sys2Proof.Machine
end

