-- ==== Sys2Proof/Machine/RegsBase.lean ====
section
/-! DEFINITION. The register space's shared rules: 64-bit latches, write-one-to-clear, reserved bits, block addresses
(R5, R6, R256, R257),
and the GLOBAL and HB blocks. -/

namespace Sys2Proof.Machine

/-! ### Latches of 64-bit registers (R257) -/

/-- What a register read finds: a word; the low or the high word of a register whose low word's read latches the high
one; or a field of so many low bits whose value the spec leaves to the part, reserved bits above it reading zero (R6). -/
inductive RegRd where
  | word (x : Nat) | low (x : Nat) | high (x : Nat) | measured (bits : Nat)
deriving DecidableEq, Repr

/-- A RO 64-bit register read at byte offset 0 or 4. -/
def rd64 (x off : Nat) : RegRd := if off = 0 then .low x else .high (x / 2 ^ 32)

/-- A 64-bit register without a read latch, read at byte offset 0 or 4. -/
def word64 (x off : Nat) : RegRd := .word (if off = 0 then x % 2 ^ 32 else x / 2 ^ 32)

/-- The low word of a register latched until its high word is written. -/
def latchLow (s : State) (addr : Nat) (w : Word) : State :=
  { s with latch := { s.latch with wr := fset addr w s.latch.wr } }

/-- A 64-bit register's new value as its high word is written: the latched low word, or the present one where none is
latched; and the state with the latch used up. `addr` is the low word's address. -/
def joinHigh (s : State) (addr cur : Nat) (w : Word) : Nat × State :=
  let lo := match ffind s.latch.wr addr with
    | some x => x.toNat
    | none => cur % 2 ^ 32
  (lo + w.toNat * 2 ^ 32, { s with latch := { s.latch with wr := fdel addr s.latch.wr } })

/-- The value read, with the latch rules: reading a low word latches the high word for the next read at offset + 4. -/
def readLatched (s : State) (addr : Nat) : RegRd → Nat × State
  | .word x => (x % 2 ^ 32, s)
  | .low x => (x % 2 ^ 32, { s with latch := { s.latch with rd := fset (addr + 4) (BitVec.ofNat 32 (x / 2 ^ 32)) s.latch.rd } })
  | .high x => match ffind s.latch.rd addr with
    | some w => (w.toNat, { s with latch := { s.latch with rd := fdel addr s.latch.rd } })
    | none => (x % 2 ^ 32, s)
  | .measured b => let (x, s1) := drawFree s; (x % 2 ^ min b 32, s1)

/-- Write one to clear (R5). -/
def w1c {n : Nat} (x : BitVec n) (w : Word) : BitVec n := x &&& ~~~(w.setWidth n)

/-! ### GLOBAL -/

/-- CHIPID, CAPS0 to CAPS3 (R338). -/
def capsOf : Variant → List Nat
  | .sz1600A => [0x01011600, 0x07FFFFFF, 0x00864040, 0x6900FE90, 0x00009020]
  | .sz1600X => [0x01021600, 0x07FFFFFF, 0x00864040, 0x69D8FE90, 0x00009020]
  | .sz1200A => [0x01011200, 0x07F3F1FF, 0x00864040, 0x6900FE90, 0x00009018]
  | .sz0800A => [0x01010800, 0x0030F03F, 0x00864020, 0x6900FE90, 0x00004810]

/-- SVNMIN: the bits set in the SVN fuses (R333). -/
def svnMin (s : State) : Nat := popCount 64 s.fuses.svn.toNat

/-- PRIME_STAT. -/
def primeStat (s : State) : Nat :=
  b2n (s.glob.phase == .hostWait) + 2 * b2n (s.glob.phase == .verify) + 4 * b2n (s.glob.phase == .stageB) +
  8 * b2n (s.glob.phase == .primed) + 16 * b2n s.glob.goIgn + 256 * s.glob.fail.toNat +
  2 ^ 16 * s.glob.failDetail.toNat + 2 ^ 24 * s.glob.attempts.toNat

/-- PRIME_INFO. -/
def primeInfo (s : State) : Nat :=
  svnMin s + 128 * b2n s.fuses.testLock + 256 * s.glob.runSvn.toNat + 2 ^ 16 * s.glob.appSvn.toNat +
  2 ^ 23 * b2n s.glob.applied

/-- ERR_STAT with bit b set. -/
def errStat (s : State) (b : Nat) : State := { s with glob := { s.glob with errStat := s.glob.errStat ||| (1 <<< b) } }

/-- The GLOBAL block read. -/
def globalRead (s : State) (o : Nat) : RegRd :=
  let c := capsOf s.fuses.variant
  if o = 0x00 then .word (c.getD 0 0)
  else if o = 0x08 ∨ o = 0x0C then rd64 s.fuses.serial.toNat (o - 0x08)
  else if 0x10 ≤ o ∧ o < 0x20 then .word (c.getD (o / 4 - 3) 0)
  else if o = 0x24 then .word (primeStat s)
  else if o = 0x28 then .word (primeInfo s)
  else if o = 0x40 then .word (b2n s.glob.swap)
  else if o = 0x50 then .word s.glob.errStat.toNat
  else .word 0

/-- Whether FAIL holds a code after which GO restarts verification (R325). -/
def failRetryable (s : State) : Bool := decide (1 ≤ s.glob.fail.toNat) && decide (s.glob.fail.toNat ≤ 8)

/-- A write of 1 to PRIME_CTL.GO (R324, R326). -/
def primeGo (s : State) : State :=
  if s.glob.phase = .hostWait ∨ (s.glob.phase = .failed ∧ failRetryable s) then
    { s with glob := { s.glob with
      phase := .verify
      stagingShut := true
      fail := 0
      failDetail := 0
      attempts := s.glob.attempts + 1 } }
  else { s with glob := { s.glob with goIgn := true } }

/-- REMAP_CTL written (R255): only the MV's write takes effect. -/
def remapWrite (s : State) (m : Master) (w : Word) : State :=
  if m = .mv then { s with glob := { s.glob with swap := w.getLsbD 0 } } else errStat s 2

/-- The GLOBAL block written. -/
def globalWrite (s : State) (m : Master) (o : Nat) (w : Word) : State :=
  if o = 0x20 then (if w.getLsbD 0 then primeGo s else s)
  else if o = 0x24 then { s with glob := { s.glob with goIgn := s.glob.goIgn && !w.getLsbD 4 } }
  else if o = 0x40 then remapWrite s m w
  else if o = 0x50 then { s with glob := { s.glob with errStat := w1c s.glob.errStat w } }
  else s

/-! ### HB -/

/-- Ring kinds as RING_QSTAT.KIND holds them (R287). -/
def ringKindCode : RingKind → Nat
  | .admsq => 0
  | .admcq => 1
  | .tohost => 2
  | .fromhost => 3
  | .event => 4

/-- The four registers of a ring. -/
def ringRegs (s : State) (r i : Nat) : Nat :=
  match ringAt s r with
  | none => 0
  | some x => match i with
    | 0 => 1 + 2 * ringKindCode x.kind + 16 * b2n x.halted + 32 * b2n x.late + 64 * b2n x.nosnoop + 128 * x.log +
        2 ^ 12 * x.func + 2 ^ 18 * x.hstat.toNat
    | 2 => x.prod
    | 3 => x.cons
    | _ => 0

/-- HB_STAT. -/
def hbStat (s : State) : Nat :=
  b2n s.hb.linkup + 2 * s.hb.speed.toNat + 16 * s.hb.width.toNat + 512 * b2n s.hb.flit + 2 ^ 16 * s.hb.numvf +
  2 ^ 22 * b2n s.hb.ari

/-- One word of an MSI-X table entry (PCIe): address, data, vector control. -/
def msixWord (x : MsixVec) (i : Nat) : Nat :=
  match i with
  | 0 => x.addr.toNat % 2 ^ 32
  | 1 => x.addr.toNat / 2 ^ 32
  | 2 => x.data.toNat
  | _ => b2n x.mask

/-- One word of a function's PBA. -/
def pbaWord (s : State) (f i : Nat) : Nat :=
  ((List.range 32).map (fun k => b2n (vecAt s f (32 * i + k)).pba * 2 ^ k)).sum

/-- MSIX_MOD of a vector. -/
def msixMod (x : MsixVec) : Nat := x.count.toNat + 256 * x.time.toNat

/-- The HB block read. -/
def hbRead (s : State) (o : Nat) : RegRd :=
  if o = 0x00 then .word (hbStat s)
  else if o = 0x04 then .word s.hb.err.toNat
  else if o = 0x08 ∨ o = 0x0C then rd64 s.hb.errAddr.toNat (o - 0x08)
  else if o = 0x20 ∨ o = 0x24 then word64 s.hb.sqbase.toNat (o - 0x20)
  else if o = 0x28 ∨ o = 0x2C then word64 s.hb.cqbase.toNat (o - 0x28)
  else if o = 0x30 then .word s.hb.cfg.toNat
  else if o = 0x40 ∨ o = 0x44 then word64 s.hb.stagebase.toNat (o - 0x40)
  else if 0x110 ≤ o ∧ o < 0x200 then
    let x := fget {} s.hb.hwin ((o - 0x100) / 16)
    if o % 16 < 8 then word64 x.base.toNat (o % 16) else if o % 16 = 8 then .word x.cfg.toNat else .word 0
  else if 0x10000 ≤ o ∧ o < 0x20000 then .word (ringRegs s ((o - 0x10000) / 16) (o % 16 / 4))
  else if 0x20000 ≤ o ∧ o < 0x22000 then .word (msixMod (vecAt s 0 ((o - 0x20000) / 4)))
  else if 0x80000 ≤ o ∧ o < 0x88000 then .word (msixWord (vecAt s 0 ((o - 0x80000) / 16)) (o % 16 / 4))
  else if 0x88000 ≤ o ∧ o < 0x88100 then .word (pbaWord s 0 ((o - 0x88000) / 4))
  else .word 0

/-- One word of an MSI-X table entry written; an unmasking sends what the PBA bit holds (R298). -/
def msixWrite (s : State) (f v i : Nat) (w : Word) : State :=
  let s1 := updVec s f v (fun x => match i with
    | 0 => { x with addr := BitVec.ofNat 64 (x.addr.toNat / 2 ^ 32 * 2 ^ 32 + w.toNat) }
    | 1 => { x with addr := BitVec.ofNat 64 (x.addr.toNat % 2 ^ 32 + w.toNat * 2 ^ 32) }
    | 2 => { x with data := w }
    | _ => { x with mask := w.getLsbD 0 })
  msixRelease s1 f v

/-- MSIX_MOD written. -/
def msixModWrite (s : State) (f v : Nat) (w : Word) : State :=
  updVec s f v (fun x => { x with count := w.truncate 8, time := BitVec.ofNat 10 (wbits w 17 8) })

/-- Bases that STAGEBASE accepts (R284). -/
def stageOk (s : State) (b : Nat) : Bool :=
  b == 0x1000000 || (b % 0x1000000 == 0 && decide (0x10000000 ≤ b) && decide (b < 0x1C000000) && calFitted s ((b - 0x10000000) / 0x1000000)) ||
  b == 0x60000000 || b == 0x61000000 || b == 0x62000000 ||
  (b % 0x1000000 == 0 && decide (hbmBase ≤ b) && decide (b < hbmBase + hbmSize s))

/-- STAGEBASE written as a whole (R284). -/
def stageWrite (s : State) (x : Nat) : State :=
  let b := nbits x 47 24 * 2 ^ 24
  if stageOk s b then { s with hb := { s.hb with stagebase := BitVec.ofNat 64 b } } else hbErr s 5

/-- ADM_CFG.EN is set: rings 0 and 1 exist, empty (R287). Completions of commands accepted before are discarded. -/
def admOpen (s : State) (c : BitVec 24) : State :=
  let ns := c.getLsbD 10
  let sq : Ring := { kind := .admsq, log := wbits c 4 0, rbase := s.hb.sqbase, nosnoop := ns }
  let cq : Ring := { kind := .admcq, log := wbits c 9 5, rbase := s.hb.cqbase, nosnoop := ns,
                     vec := if c.getLsbD 23 then some (wbits c 22 12) else none }
  let s1 := setRing (setRing { s with hb := { s.hb with cfg := c } } 0 sq) 1 cq
  { s1 with adm := { s1.adm with stopped := false, closing := false,
                                 cmds := s1.adm.cmds.map (fun x => { x with discard := true }) } }

/-- The admin rings cease to exist once EN is 0 and no command is left (ADM_CFG). -/
def admClose (s : State) : State :=
  if s.adm.closing && s.adm.cmds.isEmpty then
    delRing (delRing { s with adm := { s.adm with closing := false } } 0) 1
  else s

/-- ADM_CFG written (R287). -/
def admCfgWrite (s : State) (w : Word) : State :=
  let c : BitVec 24 := w.truncate 24
  if s.hb.cfg.getLsbD 11 then
    if c ||| 0x800 ≠ s.hb.cfg then hbErr s 5
    else if c.getLsbD 11 then s
    else admClose { s with hb := { s.hb with cfg := c }, adm := { s.adm with closing := true } }
  else if c.getLsbD 11 then
    if 6 ≤ wbits c 4 0 ∧ wbits c 4 0 ≤ 16 ∧ 6 ≤ wbits c 9 5 ∧ wbits c 9 5 ≤ 16 then admOpen s c else hbErr s 5
  else { s with hb := { s.hb with cfg := c } }

/-- The descriptor at a ring's halt position is passed over (R317): an ADMSQ descriptor without a completion gets one
with status SKIPPED and its TAG, which the part reads from the host. -/
def ringSkip (s : State) (r : Nat) (tag : BitVec 16) : State :=
  match ringAt s r with
  | none => s
  | some x =>
    let nxt := (x.cons + 1) % 2 ^ x.log
    let s1 := setRing s r { x with cons := nxt, late := false, skip := none }
    if r = 0 ∧ x.late then
      { hostAsk s1 x.func x.nosnoop false (x.rbase.toNat + 32 * x.cons) 32 with adm := { s1.adm with
          nextId := s1.adm.nextId + 1
          cmds := s1.adm.cmds ++ [{ id := s1.adm.nextId, tag := tag, status := some 7, sqhead := nxt }] } }
    else s1

/-- A SKIP that waited for its ring's function is carried out, once the part can issue requests for it (R318, R320). -/
def ringSkipDue (s : State) (r : Nat) : State :=
  match ringAt s r with
  | none => s
  | some x => match x.skip with
    | some tag => if funcLive s x.func then ringSkip s r tag else s
    | none => s

/-- RING_CTL written (R317); `tag` is the TAG of the descriptor that a SKIP passes over, as the host's memory holds it.
SKIP moves the ring on only while the part can issue requests for its function (R318, R320). -/
def ringCtl (s : State) (r : Nat) (resume skip : Bool) (tag : BitVec 16) : State :=
  match ringAt s r with
  | none => s
  | some x =>
    if !x.halted || resume == skip then s
    else
      let go := { s with adm := if r = 0 then { s.adm with stopped := false } else s.adm }
      let y : Ring := { x with halted := false, hstat := 0 }
      if resume || x.cons == x.prod then setRing go r { y with late := false }
      else ringSkipDue (setRing go r { y with skip := some tag }) r

/-- RING_CTL written by a master whose command brings no TAG: the TAG of a descriptor passed over is what the host's
memory holds, which the model does not know (a free value). -/
def ringCtlWrite (s : State) (r : Nat) (w : Word) : State :=
  if w.getLsbD 1 then
    let (x, s1) := drawFree s
    ringCtl s1 r (w.getLsbD 0) true (BitVec.ofNat 16 x)
  else ringCtl s r (w.getLsbD 0) false 0

/-- A host window's register written (R286). -/
def hwinWrite (s : State) (addr w8 i : Nat) (w : Word) : State :=
  let x := fget {} s.hb.hwin w8
  let put (s : State) (y : HostWin) : State := { s with hb := { s.hb with hwin := fset w8 y s.hb.hwin } }
  match i with
  | 0 => latchLow s addr w
  | 1 =>
    let (v, s1) := joinHigh s (addr - 4) x.base.toNat w
    put s1 { x with base := BitVec.ofNat 64 (v / 4096 * 4096) }
  | 2 => put s { x with cfg := w.truncate 8 }
  | _ => s

/-- An admin ring's base register written: ignored, with CFGERR, while EN is 1. -/
def baseWrite (s : State) (addr : Nat) (sq high : Bool) (w : Word) : State :=
  if s.hb.cfg.getLsbD 11 then hbErr s 5
  else if !high then latchLow s addr w
  else
    let (v, s1) := joinHigh s (addr - 4) (if sq then s.hb.sqbase else s.hb.cqbase).toNat w
    let x : DWord := BitVec.ofNat 64 (v / 4096 * 4096)
    if sq then { s1 with hb := { s1.hb with sqbase := x } } else { s1 with hb := { s1.hb with cqbase := x } }

/-- The HB block written. -/
def hbWrite (s : State) (o : Nat) (w : Word) : State :=
  let addr := 0x80100000 + o
  if o = 0x04 then { s with hb := { s.hb with err := w1c s.hb.err w } }
  else if o = 0x20 then baseWrite s addr true false w
  else if o = 0x24 then baseWrite s addr true true w
  else if o = 0x28 then baseWrite s addr false false w
  else if o = 0x2C then baseWrite s addr false true w
  else if o = 0x30 then admCfgWrite s w
  else if o = 0x40 then latchLow s addr w
  else if o = 0x44 then let (v, s1) := joinHigh s (addr - 4) s.hb.stagebase.toNat w; stageWrite s1 v
  else if 0x110 ≤ o ∧ o < 0x200 then hwinWrite s addr ((o - 0x100) / 16) (o % 16 / 4) w
  else if 0x10000 ≤ o ∧ o < 0x20000 then
    if o % 16 = 4 then ringCtlWrite s ((o - 0x10000) / 16) w else s
  else if 0x20000 ≤ o ∧ o < 0x22000 then msixModWrite s 0 ((o - 0x20000) / 4) w
  else if 0x80000 ≤ o ∧ o < 0x88000 then msixWrite s 0 ((o - 0x80000) / 16) (o % 16 / 4) w
  else s

end Sys2Proof.Machine
end

