-- ==== Sys2Proof/Machine/Regs.lean ====
section
/-! DEFINITION. The register blocks (R256): CTX, QM, INTAKE, EASEL, GLAZE, MATRIX, DMA, PORTS, HBM, POWER and the
calderas', read and written; and one aligned word of the register space read and written by any master (R2, R7, R322). -/

namespace Sys2Proof.Machine

/-! ### CTX -/

/-- SET_OLDFR (R85). -/
def setOldfr (s : State) : Nat :=
  if s.sets.pending then oldFrames s (if s.sets.flipping then s.sets.epoch else !s.sets.epoch) else 0

/-- Key-work commands accepted and not yet complete (KEM_STAT.QUEUED): waiting, or draining their target. -/
def kemQueued (s : State) : Nat := (s.store.kemQueue.filter (fun p => match p.2 with
  | .attest _ _ => false
  | _ => true)).length + (s.store.drains.filter (fun d => d.kem)).length

/-- The CTX block read. -/
def ctxRead (s : State) (o : Nat) : RegRd :=
  if o = 0x00 then .word (b2n s.sets.epoch + 2 * b2n s.sets.pending + 4 * b2n s.sets.copying + 256 * s.sets.swaps.toNat)
  else if o = 0x04 then .word (setOldfr s)
  else if o = 0x08 then .word (setIssues s)
  else if o = 0x10 then .word s.store.err.toNat
  else if o = 0x14 then .word s.store.errAddr.toNat
  else if o = 0x20 ∨ o = 0x24 then word64 s.store.softTime.toNat (o - 0x20)
  else if o = 0x30 then .word (winFree s)
  else if o = 0x40 then
    .word (match s.store.kemSealed with
      | some c => 1 + 2 * c + 2 ^ 16 * kemQueued s
      | none => 2 ^ 16 * kemQueued s)
  else .word 0

/-- The CTX block written. -/
def ctxWrite (s : State) (o : Nat) (w : Word) : State :=
  if o = 0x10 then { s with store := { s.store with err := w1c s.store.err w } }
  else if o = 0x20 then latchLow s 0x80700020 w
  else if o = 0x24 then
    let (v, s1) := joinHigh s 0x80700020 s.store.softTime.toNat w
    { s1 with store := { s1.store with softTime := BitVec.ofNat 64 v } }
  else s

/-! ### QM, INTAKE, GLAZE -/

/-- The QM block read. -/
def qmRead (s : State) (o : Nat) : RegRd :=
  if o = 0x00 then .word (pbFree s)
  else if o = 0x04 then .word (pinnedCount s)
  else if o = 0x10 ∨ o = 0x14 then word64 (s.qm.spillBase * 2 ^ 16) (o - 0x10)
  else if o = 0x18 then .word s.qm.spillSegs
  else if o = 0x1C then .word (s.qm.spillSegs - s.qm.segUsed.length)
  else if o = 0x20 then .word s.qm.err.toNat
  else if o = 0x24 then .word s.qm.errAddr
  else .word 0

/-- The QM block written; the spill pool stays while a segment is in use. -/
def qmWrite (s : State) (o : Nat) (w : Word) : State :=
  if o = 0x20 then { s with qm := { s.qm with err := w1c s.qm.err w } }
  else if !s.qm.segUsed.isEmpty then s
  else if o = 0x10 then latchLow s 0x80200010 w
  else if o = 0x14 then
    let (v, s1) := joinHigh s 0x80200010 (s.qm.spillBase * 2 ^ 16) w
    { s1 with qm := { s1.qm with spillBase := nbits v 47 16 } }
  else if o = 0x18 then { s with qm := { s.qm with spillSegs := wbits w 21 0 } }
  else s

/-- The INTAKE block read. -/
def intakeRead (s : State) (o : Nat) : RegRd :=
  if o = 0x100 then .word s.path.alarmP.toNat
  else if o = 0x104 then .word s.path.alarmC.toNat
  else if o = 0x108 then .word (b2n s.path.alarmAlert)
  else if 0x80000 ≤ o ∧ o < 0x80000 + 0x400 * 33 ∧ (o - 0x80000) % 0x400 < 0x200 then
    rd64 (fget 0 s.path.drops (64 * ((o - 0x80000) / 0x400) + (o - 0x80000) % 0x400 / 8)).toNat (o % 8)
  else .word 0

/-- The INTAKE block written. -/
def intakeWrite (s : State) (o : Nat) (w : Word) : State :=
  if o = 0x100 then { s with path := { s.path with alarmP := w1c s.path.alarmP w } }
  else if o = 0x104 then { s with path := { s.path with alarmC := w1c s.path.alarmC w } }
  else if o = 0x108 then { s with path := { s.path with alarmAlert := w.getLsbD 0 } }
  else s

/-- The GLAZE block read. -/
def glazeRead (s : State) (o : Nat) : RegRd :=
  if o = 0x00 then .word s.glaze.err.toNat
  else if 0x100 ≤ o ∧ o < 0x120 then rd64 (fget 0 s.glaze.late ((o - 0x100) / 8)).toNat (o % 8)
  else if 0x120 ≤ o ∧ o < 0x140 then rd64 (fget 0 s.glaze.dummy ((o - 0x120) / 8)).toNat (o % 8)
  else .word 0

/-- The GLAZE block written. -/
def glazeWrite (s : State) (o : Nat) (w : Word) : State :=
  if o = 0x00 then { s with glaze := { s.glaze with err := w1c s.glaze.err w } } else s

/-! ### EASEL -/

/-- The EASEL block read. -/
def easelRead (s : State) (o : Nat) : RegRd :=
  if o = 0x00 then .word (s.easel.migs.length + 16 * b2n s.easel.constrain.isSome + 256 * drainedMask s)
  else if o = 0x04 then .word (s.timebase.toNat / 100000)
  else if o = 0x08 then .word (s.easel.excl.toNat + 2 ^ 16 * reservedMask s)
  else if o = 0x10 then .word s.easel.cfg.toNat
  else if o = 0x20 then .word s.easel.err.toNat
  else .word 0

/-- The bytes of the context cache that CTXC names. -/
def ctxcBytes (c : Nat) : Nat := if c = 1 then 0x40000 else if c = 2 then 0x80000 else 0

/-- EASEL_CFG written (R135). Memory where a cache area lay shows what it held before (notes/assumptions/53.md). -/
def easelCfgWrite (s : State) (w0 : Word) : State :=
  let w := w0 &&& 0x00FF0003
  let area := if wbits w 1 0 = 0 then 0 else wbits w 21 16 * 0x10000 + 4096 * 2 ^ (wbits w 1 0 + 5)
  if !s.easel.migs.isEmpty || wbits w 23 22 == 3 || decide (0x400000 - ctxcBytes (wbits w 23 22) < area) then easelErr s 1
  else { s with easel := { s.easel with cfg := w, ctxCache := if wbits w 23 22 = wbits s.easel.cfg 23 22 then s.easel.ctxCache else [] } }

/-- EASEL_MARKACK stored by a vent (R128): it acknowledges a marker that has reached that vent. One that comes when its 50 µs
are over is late first (R4, R130). -/
def markAck (s : State) (v migno : Nat) : State :=
  let s1 := marksLate s v
  { s1 with easel := { s1.easel with migs := s1.easel.migs.map (fun m =>
      if m.migno.toNat = migno ∧ fhas m.arrived v then { m with unacked := m.unacked.filter (· != v) } else m) } }

/-- The EASEL block written. -/
def easelWrite (s : State) (m : Master) (o : Nat) (w : Word) : State :=
  if o = 0x10 then easelCfgWrite s w
  else if o = 0x20 then { s with easel := { s.easel with err := w1c s.easel.err w } }
  else if o = 0x100 then (match m with
    | .vent v => markAck s v w.toNat
    | _ => s)
  else s

/-! ### MATRIX and DMA -/

/-- Whether a number names a master port that exists (R260). -/
def masterPort (s : State) (p : Nat) : Bool :=
  if p < 24 then calFitted s (p / 2)
  else if p = 24 then true
  else if p < 33 then decide (p - 25 < nLces s)
  else decide (41 ≤ p) && decide (p ≤ 44)

/-- The MATRIX block read. -/
def mxRead (s : State) (o : Nat) : RegRd :=
  if o < 4 * 45 then .word (fget 0x3F s.mx.park (o / 4)).toNat
  else if o = 0x100 then .word s.mx.err.toNat
  else if o = 0x104 then .word s.mx.errInfo.toNat
  else if o = 0x108 then .word s.mx.lockTo.toNat
  else .word 0

/-- MX_ERR with bit b set for a master and a target port. -/
def mxErr (s : State) (b m t : Nat) : State :=
  { s with mx := { s.mx with err := s.mx.err ||| (1 <<< b), errInfo := BitVec.ofNat 12 (m % 64 + 64 * t) } }

/-- The MATRIX block written (R265). -/
def mxWrite (s : State) (o : Nat) (w : Word) : State :=
  if o < 4 * 45 then
    let p := wbits w 5 0
    if p = 0x3F ∨ masterPort s p then { s with mx := { s.mx with park := fset (o / 4) (BitVec.ofNat 6 p) s.mx.park } }
    else { s with mx := { s.mx with err := s.mx.err ||| 4 } }
  else if o = 0x100 then { s with mx := { s.mx with err := w1c s.mx.err w } }
  else s

/-- The DMA block read (R271). -/
def dmaRead (s : State) (o : Nat) : RegRd :=
  if o = 0x10000 then .word s.mx.dmaRetry.toNat
  else if 0x10000 ≤ o then .word 0
  else
    let x := dmaAt s (o / 256)
    let i := o % 256
    if i = 0x04 then .word (dmaCode x.state + 256 * x.cause + 2 ^ 12 * x.retries + 2 ^ 16 * b2n x.evt)
    else if i = 0x08 ∨ i = 0x0C then word64 x.desc.toNat (i - 0x08)
    else if i = 0x10 ∨ i = 0x14 then rd64 x.src.toNat (i - 0x10)
    else if i = 0x18 ∨ i = 0x1C then rd64 x.dst.toNat (i - 0x18)
    else if i = 0x20 then .word x.left.toNat
    else if i = 0x24 then .word x.pace.toNat
    else if i = 0x28 then .word x.level.toNat
    else if i = 0x2C then .word x.fill.toNat
    else if i = 0x30 ∨ i = 0x34 then rd64 x.errAddr.toNat (i - 0x30)
    else .word 0

/-- The DMA block written. -/
def dmaWrite (s : State) (o : Nat) (w : Word) : State :=
  if o = 0x10000 then { s with mx := { s.mx with dmaRetry := w.truncate 4 } }
  else if 0x10000 ≤ o then s
  else
    let n := o / 256
    let i := o % 256
    let addr := 0x80900000 + 256 * n + 0x08
    if i = 0x00 then
      let s1 := if w.getLsbD 0 then dmaStart s n else s
      if w.getLsbD 1 then dmaAbort s1 n else s1
    else if i = 0x04 then updDma s n (fun x => { x with evt := x.evt && !w.getLsbD 16 })
    else if i = 0x08 then (if dmaBusy (dmaAt s n) then s else latchLow s addr w)
    else if i = 0x0C then
      if dmaBusy (dmaAt s n) then s
      else
        let (v, s1) := joinHigh s addr (dmaAt s n).desc.toNat w
        updDma s1 n (fun x => { x with desc := BitVec.ofNat 64 (v % 2 ^ 48 / 32 * 32) })
    else if i = 0x24 then updDma s n (fun x => { x with pace := w &&& 0x3FFFFF })
    else if i = 0x28 then updDma s n (fun x => { x with level := w })
    else s

/-! ### PORTS -/

/-- PORT_STAT. -/
def portStat (x : Port) : Nat :=
  x.link.toNat + 2 ^ 8 * x.brkout.toNat + 2 ^ 10 * (laneOk x).toNat + 2 ^ 18 * b2n (fallenBack x) +
  2 ^ 19 * b2n (x.fecdeg != 0) + 2 ^ 23 * b2n x.reflost + 2 ^ 24 * x.polinv.toNat

/-- The PORTS block read. -/
def portsRead (s : State) (o : Nat) : RegRd :=
  if o = 0x8000 then .word (s.mgmt.i2cEn.toNat + 16 * s.mgmt.i2cStuck.toNat + 256 * s.mgmt.mdioEn.toNat)
  else if 0x4000 ≤ o then .word 0
  else
    let x := portAt s (o / 0x1000)
    let i := o % 0x1000
    if i = 0x00 then .word (portStat x)
    else if i = 0x10 then .word (x.los.toNat + 2 ^ 8 * x.txfault.toNat + 2 ^ 16 * x.eyelow.toNat)
    else if i = 0x18 then .word (b2n x.refb + 2 * x.fallPerm.toNat)
    else if 0x40 ≤ i ∧ i < 0x60 then .word (fget 0x0C00 x.eye ((i - 0x40) / 4)).toNat
    else .word 0

/-- PORT_LANECLR (R356): shorted lanes are enabled again, and a sub-port whose lanes are now clear retrains. -/
def laneClr (s : State) (p : Nat) (w : Word) : State :=
  retrainPort (updPort s p (fun x => { x with txfault := x.txfault &&& ~~~(w.truncate 8 : Byte) })) p

/-- MGMT_CTL.I2CRETRY (R353): masters whose speed is not 0 are enabled again. -/
def i2cRetry (s : State) (w : Word) : State :=
  let m : BitVec 4 := BitVec.ofNat 4 ((List.range 4).map (fun n =>
    b2n (w.getLsbD n && fget 0 s.mgmt.i2cSpeed n != 0) * 2 ^ n)).sum
  { s with mgmt := { s.mgmt with
      i2cEn := s.mgmt.i2cEn ||| m
      i2cStuck := s.mgmt.i2cStuck &&& ~~~m } }

/-- The PORTS block written. -/
def portsWrite (s : State) (o : Nat) (w : Word) : State :=
  if o = 0x8004 then i2cRetry s w
  else if 0x4000 ≤ o then s
  else
    let p := o / 0x1000
    let i := o % 0x1000
    if i = 0x14 then laneClr s p w
    else if 0x40 ≤ i ∧ i < 0x60 then
      let g (e : BitVec 16) : BitVec 16 := (e &&& 0xFF) ||| BitVec.ofNat 16 (wbits w 15 8 * 256)
      updPort s p (fun x => { x with eye := fupd 0x0C00 ((i - 0x40) / 4) g x.eye })
    else s

/-! ### HBM and POWER -/

/-- Regions of 1 MiB. -/
def hbmRegions (s : State) : Nat := hbmSize s / 0x100000

/-- Whether region r is marked as not yet zeroed (R268). -/
def hbmMarked (s : State) (r : Nat) : Bool :=
  s.hbm.zeroing && decide (s.hbm.zeroNext ≤ r) && decide (r < hbmRegions s) && !s.hbm.zeroed.contains r

/-- HBM_ZLEFT. -/
def hbmLeft (s : State) : Nat := if s.hbm.zeroing then hbmRegions s - s.hbm.zeroNext - s.hbm.zeroed.length else 0

/-- HBM_STAT.ZERODONE. -/
def hbmZeroDone (s : State) : Bool := s.glob.phase == .primed && hbmLeft s == 0

/-- The HBM block read. -/
def hbmRead (s : State) (o : Nat) : RegRd :=
  if o = 0x00 then .word (2 ^ nStacks s - 1 + 16 * s.hbm.trained.toNat + 256 * b2n (hbmZeroDone s))
  else if o = 0x04 then .word (hbmLeft s)
  else if o = 0x10 then .word s.hbm.err.toNat
  else if o = 0x18 ∨ o = 0x1C then rd64 s.hbm.errAddr.toNat (o - 0x18)
  else if o = 0x20 then .word s.hbm.ceCount.toNat
  else if o = 0x24 then .word s.hbm.scrubPass.toNat
  else .word 0

/-- The HBM block written. -/
def hbmWrite (s : State) (o : Nat) (w : Word) : State :=
  if o = 0x10 then { s with hbm := { s.hbm with err := w1c s.hbm.err w } } else s

/-- PWR_CALSTAT's value for a caldera. -/
def calCode (s : State) (c : Nat) : Nat :=
  if calFitted s c then (match (calAt s c).power with
    | .off => 0
    | .gating => 1
    | .powering => 2
    | .on => 3) else 0

/-- The POWER block read. -/
def powerRead (s : State) (o : Nat) : RegRd :=
  if o = 0x00 then .word (b2n s.power.shut + 2 * b2n s.power.syslost + 4 * b2n s.power.tbdrift + 8 * s.power.rstsrc.toNat)
  else if o = 0x04 then .word s.power.err.toNat
  else if o = 0x08 then .word s.power.alerten.toNat
  else if o = 0x0C then .word (s.power.throttle.toNat + 256 * s.power.shutdown.toNat)
  else if o = 0x10 then .word s.power.calgate.toNat
  else if o = 0x14 then .word ((List.range 12).map (fun c => calCode s c * 4 ^ c)).sum
  else if o = 0x18 then .word s.power.vclk.toNat
  else if o = 0x1C then .measured 16
  else if 0x100 ≤ o ∧ o < 0x100 + 4 * 29 then .word (fget 0 s.power.temp ((o - 0x100) / 4)).toNat
  else if 0x200 ≤ o ∧ o < 0x218 then .word (fget 0 s.power.vmon ((o - 0x200) / 4)).toNat
  else if 0x300 ≤ o ∧ o < 0x330 then .word (calAt s ((o - 0x300) / 4)).clk
  else .word 0

/-- POWER_ERR with bit b set. -/
def powerErr (s : State) (b : Nat) : State := { s with power := { s.power with err := s.power.err ||| (1 <<< b) } }

/-- The far loads of a vent, each piece that reads CAL c's island marked: as accepted there, or as ended there where it had
been accepted (R277). -/
def markAccepted (c : Nat) (on : Bool) (vt : Vent) : Vent :=
  { vt with fl := { vt.fl with far := vt.fl.far.map (fun l => { l with pieces := l.pieces.map (fun p =>
    if inIsland c p.maddr then { p with accepted := on, ended := p.ended || (!on && p.accepted) } else p) }) } }

/-- Every vent, the MV included, with its far loads marked. -/
def acceptFar (s : State) (c : Nat) (on : Bool) : State :=
  (List.range (mvNum + 1)).foldl (fun s v => updVent s v (markAccepted c on)) s

/-- The gating of a caldera starts (R277 step 1). Far loads of its island that are outstanding count as accepted
(notes/assumptions/52.md). -/
def gateStart (s0 : State) (c : Nat) : State :=
  let s := acceptFar s0 c true
  let s1 := { s with power := { s.power with calgate := s.power.calgate ||| (1 <<< c) } }
  dmaHaltCal (updCal s1 c (fun x => { x with power := .gating, gateTick := s.timebase })) c 8

/-- A bit of PWR_CALGATE written (R364). A 1 is refused, whatever the bit holds, unless the caldera is excluded and
drained. A 0 written while the gating runs lets it complete, and the caldera then powers up (notes/assumptions/39.md). -/
def gateBit (s : State) (c : Nat) (g : Bool) : State :=
  let b : BitVec 12 := (1 : BitVec 12) <<< c
  if g then
    if !(s.easel.excl.getLsbD c && drained s c && calFitted s c) then powerErr s 5
    else if s.power.calgate.getLsbD c then s
    else if (calAt s c).power = .gating then { s with power := { s.power with calgate := s.power.calgate ||| b } }
    else gateStart s c
  else if !s.power.calgate.getLsbD c then s
  else
    let s1 := { s with power := { s.power with calgate := s.power.calgate &&& ~~~b } }
    if (calAt s c).power = .off then updCal s1 c (fun x => { x with power := .powering }) else s1

/-- The POWER block written. -/
def powerWrite (s : State) (o : Nat) (w : Word) : State :=
  if o = 0x00 then { s with power := { s.power with tbdrift := s.power.tbdrift && !w.getLsbD 2 } }
  else if o = 0x04 then { s with power := { s.power with err := w1c s.power.err w } }
  else if o = 0x08 then { s with power := { s.power with alerten := w.truncate 7 } }
  else if o = 0x10 then (List.range 12).foldl (fun s c => gateBit s c (w.getLsbD c)) s
  else if o = 0x18 then
    if 600 ≤ wbits w 11 0 ∧ wbits w 11 0 ≤ 1600 then { s with power := { s.power with vclk := w.truncate 12 } }
    else powerErr s 6
  else s

/-! ### Calderas -/

/-- VIN_STAT. -/
def vinStat (x : VentIn) : Nat :=
  x.stat.toNat + 8 * b2n (decide (wbits x.cfg 22 12 ≠ 0) && (x.prod - x.cons).toNat == wbits x.cfg 22 12)

/-- A vent's registers in its caldera's block, read. -/
def ventRegRead (s : State) (v i : Nat) : RegRd :=
  let x := ventAt s v
  if i = 0x000 then .word x.inp.cfg.toNat
  else if i = 0x004 then .word x.inp.cons.toNat
  else if i = 0x008 then .word x.inp.prod.toNat
  else if i = 0x00C then .word (vinStat x.inp)
  else if i = 0x080 ∨ i = 0x084 then rd64 x.evt.perfIssue.toNat (i - 0x080)
  else if i = 0x088 then .measured 32
  else if i = 0x08C then .measured 32
  else if i = 0x100 then .word (vintPend s v)
  else if i = 0x104 then .word (vintEn x)
  else if i = 0x110 ∨ i = 0x114 then word64 x.evt.timecmp.toNat (i - 0x110)
  else if i = 0x118 then .word x.evt.wdog.toNat
  else if i = 0x120 then .word x.evt.excStat.toNat
  else if i = 0x124 then .word x.evt.mcAddr.toNat
  else if i = 0x12C then .word x.evt.boot.toNat
  else .word 0

/-- VIN_CFG written (R154). -/
def vinCfgWrite (s : State) (v : Nat) (w0 : Word) : State :=
  let w := w0 &&& 0x01FFFFFF
  updVent s v (fun x =>
    let en := x.inp.cfg.getLsbD 24
    let bad := if en then wbits w 22 0 != wbits x.inp.cfg 22 0
      else w.getLsbD 24 && (decide (wbits w 22 12 < 16) || decide (1024 < wbits w 22 12) ||
        decide (262144 < wbits w 11 0 * 64 + 161 * wbits w 22 12 + 16))
    if bad then { x with inp := { x.inp with stat := x.inp.stat ||| 1 } }
    else if w.getLsbD 24 && !en then { x with inp := { x.inp with cfg := w, prod := 0, cons := 0, count := 0 } }
    else { x with inp := { x.inp with cfg := w } })

/-- VIN_CONS written (R156). -/
def vinConsWrite (s : State) (v : Nat) (w : Word) : State :=
  updVent s v (fun x =>
    if wbits x.inp.cfg 22 12 < (x.inp.prod - w).toNat then { x with inp := { x.inp with stat := x.inp.stat ||| 2 } }
    else { x with inp := { x.inp with cons := w } })

/-- Whether a vent's watchdog expires now (R241): its count has run out, and the vent is not locked up, in which case it answers
to VCTL.RESET alone (R239). -/
def wdExpires (s : State) (v : Nat) : Bool :=
  let e := (ventAt s v).evt
  e.wdog.toNat % 2 ^ 24 != 0 && decide (e.wdDue ≤ s.timebase) && !ventLocked (ventAt s v)

/-- The watchdog count starts again. -/
def wdReload (s : State) (e : VentEvt) : VentEvt :=
  { e with wdDue := s.timebase + BitVec.ofNat 64 (1000 * (e.wdog.toNat % 2 ^ 24)) }

/-- A watchdog expiry (R241): cause 50 falls due, or the vent is reset and WDRESET is set. -/
def wdExpire (s : State) (v : Nat) : State :=
  if (ventAt s v).evt.wdOnce then
    updVent (resetVent s v) v (fun vt => { vt with evt := { wdReload s vt.evt with
      wdOnce := false
      excStat := vt.evt.excStat ||| 2 } })
  else updVent s v (fun vt => { vt with evt := { wdReload s vt.evt with
      wdOnce := true
      wdPend := true } })

/-- VWDOG written (R241). A count that has run out expires before the write reloads it (R4); the write of a vent that this
resets is absorbed with its other accesses (R278). -/
def vwdogWrite (s : State) (m : Master) (v : Nat) (w : Word) : State :=
  let s1 := if wdExpires s v then wdExpire s v else s
  if wdExpires s v && (ventAt s v).evt.wdOnce && m == .vent v then s1
  else updVent s1 v (fun x => { x with evt := { x.evt with
    wdog := w &&& 0xFFFFFF
    wdDue := s.timebase + BitVec.ofNat 64 (1000 * wbits w 23 0)
    wdOnce := false } })

/-- A vent's registers in its caldera's block, written by a master. -/
def ventRegWrite (s : State) (m : Master) (v i : Nat) (w : Word) : RespCode × State :=
  if 0x040 ≤ i ∧ i < 0x080 then (if m = .vent v then .okay else .error, jobErr s v)
  else (.okay,
    if i = 0x000 then vinCfgWrite s v w
    else if i = 0x004 then vinConsWrite s v w
    else if i = 0x00C then updVent s v (fun x => { x with inp := { x.inp with stat := w1c x.inp.stat w } })
    else if i = 0x100 then updVent s v (fun x => { x with evt := { x.evt with pend := w1c x.evt.pend (w >>> 18) } })
    else if i = 0x104 then updVent s v (fun x => { x with evt := { x.evt with en := w &&& 0xFD0000 } })
    else if i = 0x108 then
      let s1 := if w.getLsbD 19 then latchInt s v 19 else s
      if w.getLsbD 23 then latchInt s1 v 23 else s1
    else if i = 0x110 then latchLow s (0x90000000 + v / 8 * 0x100000 + v % 8 * 0x1000 + 0x110) w
    else if i = 0x114 then
      let (x, s1) := joinHigh s (0x90000000 + v / 8 * 0x100000 + v % 8 * 0x1000 + 0x110) (ventAt s v).evt.timecmp.toNat w
      updVent s1 v (fun vt => { vt with evt := { vt.evt with timecmp := BitVec.ofNat 64 x } })
    else if i = 0x118 then vwdogWrite s m v w
    else if i = 0x11C then
      (if w.getLsbD 0 then updVent s v (fun x => { x with evt := { x.evt with nmiPend := true } }) else s)
    else if i = 0x120 then
      updVent s v (fun x => { x with evt := { x.evt with excStat := x.evt.excStat &&& ~~~(w.truncate 8 &&& 6) } })
    else if i = 0x128 then (if w.getLsbD 0 then resetVent s v else s)
    else if i = 0x12C then updVent s v (fun x => { x with evt := { x.evt with boot := w &&& 0xFFFFFFFC } })
    else s)

/-! ### One word of the register space -/

/-- Where an aligned address of the register space leads. -/
inductive RegLoc where
  | block (b o : Nat)      -- a block by its code, and the offset
  | cal (c o : Nat)        -- a caldera's block
  | silent                 -- a block that reads zero and ignores writes (R2, R322)
  | unmapped               -- R7
deriving DecidableEq, Repr

/-- R256, R2 and R322. -/
def regLoc (s : State) (a : Nat) : RegLoc :=
  if 0x80000000 ≤ a ∧ a < 0x80D00000 then
    let b := (a - 0x80000000) / 0x100000
    if s.glob.phase != .primed && 1 < b then .silent
    else if b = 5 ∧ ¬ hasGlaze s then .silent
    else .block b (a % 0x100000)
  else if 0x90000000 ≤ a ∧ a < 0x90C00000 then
    let c := (a - 0x90000000) / 0x100000
    if s.glob.phase != .primed || !calFitted s c then .silent else .cal c (a % 0x100000)
  else .unmapped

/-- How a caldera's registers answer a master: ERROR while sealed (R75), DOMAIN_OFF while the island powers down
(R277), zero while it is off. -/
def calAnswer (s : State) (m : Master) (c : Nat) : RespCode × Bool :=
  if s.store.kemSealed = some c ∧ m ≠ .kc then (.error, false)
  else match (calAt s c).power with
    | .gating => (.domainOff, false)
    | .on => (.okay, true)
    | _ => (.okay, false)

/-- The DMA block's channel page of an offset, where its caldera's answer counts (R75, R277). -/
def dmaAnswer (s : State) (m : Master) (o : Nat) : RespCode × Bool :=
  if 0x10000 ≤ o then (.okay, true)
  else
    let n := o / 256
    if 192 ≤ n then (.okay, true)
    else if !dmaFitted s n then (.okay, false)
    else calAnswer s m (n / 16)

/-- A block's register read. -/
def blockRead (s : State) (b o : Nat) : RegRd :=
  match b with
  | 0 => globalRead s o
  | 1 => hbRead s o
  | 2 => qmRead s o
  | 3 => intakeRead s o
  | 4 => easelRead s o
  | 5 => glazeRead s o
  | 7 => ctxRead s o
  | 8 => mxRead s o
  | 9 => dmaRead s o
  | 10 => portsRead s o
  | 11 => hbmRead s o
  | 12 => powerRead s o
  | _ => .word 0

/-- A block's register written. -/
def blockWrite (s : State) (m : Master) (b o : Nat) (w : Word) : State :=
  match b with
  | 0 => globalWrite s m o w
  | 1 => hbWrite s o w
  | 2 => qmWrite s o w
  | 3 => intakeWrite s o w
  | 4 => easelWrite s m o w
  | 5 => glazeWrite s o w
  | 7 => ctxWrite s o w
  | 8 => mxWrite s o w
  | 9 => dmaWrite s o w
  | 10 => portsWrite s o w
  | 11 => hbmWrite s o w
  | 12 => powerWrite s o w
  | _ => s

/-- An aligned word of the register space read by a master. -/
def regRead (m : Master) (a : Nat) (s : State) : RespCode × Nat × State :=
  match regLoc s a with
  | .unmapped => (.okay, 0, errStat s 0)
  | .silent => (.okay, 0, s)
  | .block b o =>
    let (c, on) := if b = 9 then dmaAnswer s m o else (.okay, true)
    if c = .okay ∧ on then let (x, s1) := readLatched s a (blockRead s b o); (.okay, x, s1) else (c, 0, s)
  | .cal c o =>
    let (r, on) := calAnswer s m c
    if r = .okay ∧ on ∧ o < 0x8000 then
      let (x, s1) := readLatched s a (ventRegRead s (8 * c + o / 0x1000) (o % 0x1000))
      (.okay, x, s1)
    else (r, 0, s)

/-- An aligned word of the register space written by a master. -/
def regWrite (m : Master) (a : Nat) (w : Word) (s : State) : RespCode × State :=
  match regLoc s a with
  | .unmapped => (.okay, errStat s 0)
  | .silent => (.okay, s)
  | .block b o =>
    let (c, on) := if b = 9 then dmaAnswer s m o else (.okay, true)
    if c = .okay ∧ on then (.okay, blockWrite s m b o w) else (c, s)
  | .cal c o =>
    let (r, on) := calAnswer s m c
    if r = .okay ∧ on ∧ o < 0x8000 then ventRegWrite s m (8 * c + o / 0x1000) (o % 0x1000) w else (r, s)

end Sys2Proof.Machine
end

