-- ==== Sys2Proof/Machine/MatrixBase.lean ====
section
/-! DEFINITION. The matrix (R253 to R268, R286, R327, R332): which target answers at an address, and what a read or a write
of it does. A started DMA channel's fetch is in Machine/Matrix.lean. -/

namespace Sys2Proof.Machine

/-- What answers at a matrix address: boot ROM, MV SRAM, a caldera memory, a palette, the context and key store, a PB
cell, a register, HBM, a host window, or nothing. -/
inductive MLoc where
  | rom (o : Nat) | mv (o : Nat) | cal (c o : Nat) | pal (v o : Nat) | store (o : Nat) | pb (o : Nat) | reg | hbm (o : Nat)
  | win (w o : Nat) | none
deriving DecidableEq, Repr

/-- R253 to R255, for a master. -/
def matLoc (m : Master) (a : Nat) (s : State) : MLoc :=
  let swap := s.glob.swap && m != .mv && m != .kc
  let rom (o : Nat) : MLoc := if o < 0x40000 then .rom o else .none
  let sram (o : Nat) : MLoc := if o < 0x200000 then .mv o else .none
  if a < 0x1000000 then (if swap then sram a else rom a)
  else if a < 0x2000000 then (if swap then rom (a - 0x1000000) else sram (a - 0x1000000))
  else if 0x10000000 ≤ a ∧ a < 0x1C000000 then .cal ((a - 0x10000000) / 0x1000000) (a % 0x1000000)
  else if 0x20000000 ≤ a ∧ a < 0x21800000 then .pal ((a - 0x20000000) / 0x40000) (a % 0x40000)
  else if 0x40000000 ≤ a ∧ a < 0x60000000 then .store (a - 0x40000000)
  else if 0x60000000 ≤ a ∧ a < 0x63000000 then .pb (a - 0x60000000)
  else if isDevAddr a then .reg
  else if hbmBase ≤ a ∧ a < hbmBase + 0x2400000000 then .hbm (a - hbmBase)
  else if 0x100000000000 ≤ a ∧ a < 0x1000000000000 then .win (a / 0x100000000000) (a % 0x100000000000)
  else .none

/-- The address at which State's memory holds a location. -/
def matHome : MLoc → Nat
  | .rom o => o
  | .mv o => mvBase + o
  | .cal c o => calBase c + o
  | .pal v o => palBase v + o
  | .pb o => 0x60000000 + o
  | .hbm o => hbmBase + o
  | _ => 0

/-- The HBM stack of an offset (R266). -/
def hbmStack (s : State) (o : Nat) : Nat := o / 4096 % nStacks s

/-- Whether the staging area and the board description can be written (R327): until GO, and from a retryable FAIL until
the next GO. -/
def stagingOpen (s : State) : Bool := !s.glob.stagingShut

/-- How a caldera's F-layer ports answer a master (R75, R254, R277). -/
def calPort (s : State) (m : Master) (c : Nat) : RespCode :=
  if !calFitted s c then .error
  else if s.store.kemSealed = some c then (if m = .kc then .okay else .error)
  else if (calAt s c).power = .on then .okay
  else .domainOff

/-- Whether a byte of a caldera memory lies in a write-protected range (R332). -/
def calProt (s : State) (c o : Nat) : Bool := (calAt s c).prot.any (fun r => decide (r.1 ≤ o) && decide (o < r.1 + r.2))

/-- Whether a byte of a caldera memory lies in the context cache area (R135). -/
def inCtxc (s : State) (o : Nat) : Bool := decide (0x400000 - ctxcSize s ≤ o) && decide (o < 0x400000)

/-- Whether a vent's access lies in the context cache area of its own caldera, or of one that a window names (R135, R258). -/
def inCacheArea (s : State) (l : VLoc) : Bool :=
  match l with
  | .cal o => inCtxc s o
  | .far a _ => decide (0x10000000 ≤ a) && decide (a < 0x1C000000) && calFitted s ((a - 0x10000000) / 0x1000000) &&
      inCtxc s (a % 0x1000000)
  | _ => false

/-- Whether a host window takes a request (R286). -/
def winOpen (s : State) (w : Nat) : Bool :=
  let x := fget {} s.hb.hwin w
  let f := wbits x.cfg 7 2
  x.cfg.getLsbD 0 && decide (f ≤ s.hb.numvf) && funcLive s f

/-- The response that a location gives before its data count: OKAY, ERROR or DOMAIN_OFF (R262). -/
def locAnswer (m : Master) (wr : Bool) (l : MLoc) (s : State) : RespCode :=
  match l with
  | .none => .error
  | .rom _ => if wr then .error else .okay
  | .mv o =>
    if o < 0x190000 then (if wr && !stagingOpen s then .error else .okay)
    else if o < 0x1C0000 then (if m = .mv ∨ m = .kc then .okay else .error)
    else .okay
  | .cal c o =>
    let r := calPort s m c
    if r ≠ .okay then r
    else if 0x400000 ≤ o then .error
    else if inCtxc s o then .error
    else if wr && calProt s c o && m != .mv then .error
    else .okay
  | .pal v _ => calPort s m (v / 8)
  | .store _ => .okay
  | .pb _ => .okay
  | .reg => .okay
  | .hbm o =>
    if hbmSize s ≤ o then .error
    else if !s.hbm.trained.getLsbD (hbmStack s o) then .domainOff
    else match s.adm.fw with
      | some f => if wr && m != .mv && decide (f.addr ≤ hbmBase + o) && decide (hbmBase + o < f.addr + f.len) then .error else .okay
      | none => .okay
  | .win w _ => if winOpen s w then .okay else .error

/-- The first answer other than OKAY of a list of locations (R13, R24, R262). -/
def answers (m : Master) (wr : Bool) (s : State) : List MLoc → RespCode
  | [] => .okay
  | l :: r => let c := locAnswer m wr l s; if c = .okay then answers m wr s r else c

/-- The target port that serves a location (R260, R264); 45 stands for a target without locks. -/
def targetPort (s : State) : MLoc → Nat
  | .cal c _ => 2 * c
  | .pal v _ => 2 * (v / 8)
  | .mv _ => 24
  | .rom _ => 24
  | .hbm o => 33 + hbmStack s o
  | .pb o => 37 + Config.pbPort (o / 256) % 4
  | _ => 45

/-- Whether a request of a master to an address must wait for a lock that the host bridge holds (R264). -/
def matLocked (m : Master) (a : Nat) (s : State) : Bool :=
  (match m with
    | .host _ => false
    | _ => true) &&
  s.mx.locks.any (fun l => !l.ended && l.target == targetPort s (matLoc m a s))

/-- Whether a read of n bytes from an address must wait for a lock on some port that it needs (R264). -/
def spanLocked (m : Master) (a n : Nat) (s : State) : Bool :=
  s.mx.locks.any (fun l => !l.ended) && (List.range (n / 4096 + 2)).any (fun i => matLocked m (min (a + 4096 * i) (a + n - 1)) s)

/-! ### Registers -/

/-- The words of the register space that [a, a + 4n) covers, read in ascending order (R257). -/
def regReadWords (m : Master) : Nat → Nat → State → RespCode × List Byte × State
  | 0, _, s => (.okay, [], s)
  | n + 1, a, s =>
    let (c, w, s1) := regRead m a s
    let (d, bs, s2) := regReadWords m n (a + 4) s1
    (if c = .okay then d else c, leBytes 4 w ++ bs, s2)

/-- A read of n bytes of the register space. -/
def regReadBytes (m : Master) (a n : Nat) (s : State) : RespCode × List Byte × State :=
  let lo := a / 4 * 4
  let (c, bs, s1) := regReadWords m ((a + n + 3) / 4 - a / 4) lo s
  (c, if c = .okay then slice bs (a - lo) n else List.replicate n 0, s1)

/-- The aligned words that a list of bytes touches, in the list's order. -/
def wordsOf (w : List (Nat × Byte)) : List Nat := (w.map (fun p => p.1 / 4 * 4)).eraseDups

/-- A write of the register space: whole aligned words are written in order; a write that is not whole aligned words is
ignored and sets ERR_STAT.NARROW (R257), and UNMAPPED where it touches an unmapped word (R7). -/
def regWriteBytes (m : Master) (w : List (Nat × Byte)) (s : State) : RespCode × State :=
  let ws := wordsOf w
  let get (a i : Nat) : Option Byte := ffind w (a + i)
  if ws.all (fun a => (List.range 4).all (fun i => (get a i).isSome)) then
    ws.foldl (fun (r : RespCode × State) a =>
      let (c, s1) := regWrite m a (BitVec.ofNat 32 (leNat ((List.range 4).map (fun i => (get a i).getD 0)))) r.2
      (if r.1 = .okay then c else r.1, s1)) (.okay, s)
  else
    let s1 := errStat s 1
    (.okay, if ws.any (fun a => regLoc s a == .unmapped) then errStat s1 0 else s1)

/-! ### HBM -/

/-- Whether a 32-byte word of HBM that covers an offset is poisoned. -/
def poisoned (s : State) (o : Nat) : Bool := s.hbm.poison.contains (o / 32)

/-- The next region to zero, past those already zeroed. -/
def nextZero (done : List Nat) : Nat → Nat → Nat
  | 0, n => n
  | f + 1, n => if done.contains n then nextZero done f (n + 1) else n

/-- A marked region is zeroed and its mark cleared; the zeroing clears its poison (R266, R268). -/
def zeroRegion (s : State) (r : Nat) : State :=
  if hbmMarked s r then
    let done := if r = s.hbm.zeroNext then s.hbm.zeroed else r :: s.hbm.zeroed
    let nxt := if r = s.hbm.zeroNext then nextZero done (done.length + 1) (r + 1) else s.hbm.zeroNext
    { zeroMem s (hbmBase + r * 0x100000) 0x100000 with hbm := { s.hbm with
        zeroNext := nxt
        zeroed := done.filter (fun k => decide (nxt ≤ k))
        poison := s.hbm.poison.filter (fun k => k / 0x8000 != r)
        latent := s.hbm.latent.filter (fun p => p.1 / 0x8000 != r) } }
  else s

/-- HBM_ERR with bit b set. -/
def hbmErr (s : State) (b : Nat) : State := { s with hbm := { s.hbm with err := s.hbm.err ||| (1 <<< b) } }

/-- A correctable error in HBM is corrected and counted (R266). -/
def hbmCorrected (s : State) : State :=
  let s1 := hbmErr s 0
  { s1 with hbm := { s1.hbm with ceCount := if s1.hbm.ceCount = BitVec.allOnes 32 then s1.hbm.ceCount else s1.hbm.ceCount + 1 } }

/-- An uncorrectable word of HBM is recorded with HBM_ERR bit b and poisoned (R266, R269). -/
def hbmPoison (s : State) (b k : Nat) : State :=
  let s1 := hbmErr s b
  { s1 with hbm := { s1.hbm with
      errAddr := BitVec.ofNat 64 (hbmBase + 32 * k)
      poison := if s1.hbm.poison.contains k then s1.hbm.poison else k :: s1.hbm.poison } }

/-- What a read of word k of HBM meets (R266): an error that stands there is corrected, or poisons the word. A word of a
marked region gives no ECC event (R268). -/
def hbmMeet (s : State) (k : Nat) : State :=
  if hbmMarked s (k / 0x8000) then s
  else match ffind s.hbm.latent k with
    | none => s
    | some unc =>
      let s1 := { s with hbm := { s.hbm with latent := fdel k s.hbm.latent } }
      if unc then hbmPoison s1 1 k else hbmCorrected s1

/-- The 32-byte words of HBM that n bytes from offset o touch. -/
def hbmWords (o n : Nat) : List Nat := if n = 0 then [] else (List.range ((o + n - 1) / 32 + 1 - o / 32)).map (fun i => o / 32 + i)

/-- A read of HBM (R266, R268): a word found uncorrectable by this read answers UE, as one poisoned before does, which
sets POISONRD too. -/
def hbmReadBytes (s : State) (o n : Nat) : RespCode × List Byte × State :=
  let was := (List.range n).any (fun i => poisoned s (o + i) && !hbmMarked s ((o + i) / 0x100000))
  let s1 := (hbmWords o n).foldl hbmMeet s
  let bad := (List.range n).any (fun i => poisoned s1 (o + i) && !hbmMarked s1 ((o + i) / 0x100000))
  if bad then (.ue, List.replicate n 0, if was then hbmErr s1 3 else s1)
  else (.okay, (List.range n).map (fun i =>
    if hbmMarked s1 ((o + i) / 0x100000) then 0 else memGet s1.mem (hbmBase + o + i)), s1)

/-- A write of HBM: marked regions are zeroed first; a partial write reads the rest of its word, so it meets an error
that stands there; a partial write of a poisoned word changes nothing (R266, R268). -/
def hbmWriteBytes (s : State) (w : List (Nat × Byte)) : RespCode × State :=
  let s0 := w.foldl (fun s p => zeroRegion s ((p.1 - hbmBase) / 0x100000)) s
  let whole (k : Nat) : Bool := (List.range 32).all (fun i => (ffind w (hbmBase + 32 * k + i)).isSome)
  let ks := (w.map (fun p => (p.1 - hbmBase) / 32)).eraseDups
  let s1 := ks.foldl (fun s k =>
    if whole k then { s with hbm := { s.hbm with latent := fdel k s.hbm.latent } } else hbmMeet s k) s0
  let hit := ks.filter (fun k => s1.hbm.poison.contains k)
  if hit.any (fun k => !whole k) then (.error, hbmErr s1 3)
  else (.okay, putMem { s1 with hbm := { s1.hbm with poison := s1.hbm.poison.filter (fun k => !hit.contains k) } } w)

/-- The state after such a write. -/
def hbmPut (s : State) (w : List (Nat × Byte)) : State := (hbmWriteBytes s w).2

/-! ### Reads and writes -/

/-- The PB's record of an uncorrectable cell (R92). -/
def pbUe (s : State) (cell : Nat) : State :=
  let s1 := qmErr s 4
  { s1 with qm := { s1.qm with errAddr := cell } }

/-- A request through host window w at offset o is sent to the host (R286). -/
def winAsk (s : State) (w o : Nat) (wr : Bool) (n : Nat) : State :=
  let x := fget {} s.hb.hwin w
  hostAsk s (wbits x.cfg 7 2) (x.cfg.getLsbD 1) wr ((x.base.toNat + o) % 2 ^ 64) n

/-- A read through host window w (R286): one that fails under R285 receives ERROR. -/
def winRead (s : State) (w o n : Nat) : RespCode × List Byte × State :=
  let a := ((fget {} s.hb.hwin w).base.toNat + o) % 2 ^ 64
  let s1 := winAsk s w o false n
  if s.hb.failing.any (fun x => decide (a ≤ x) && decide (x < a + n)) then
    (.error, List.replicate n 0, { s1 with hb := { s1.hb with failing := none } })
  else (.okay, memBytes s.hostMem a n, s1)

/-- A read of n bytes by a master: response code, data (zeros where it is not OKAY), and the state after it. -/
def matRead0 (m : Master) (a n : Nat) (s : State) : RespCode × List Byte × State :=
  let zero := List.replicate n (0 : Byte)
  match matLoc m a s with
  | .reg => regReadBytes m a n s
  | l =>
    let c := answers m false s ((List.range n).map (fun i => matLoc m (a + i) s))
    if c ≠ .okay then (c, zero, s)
    else match l with
      | .store o => storeRead s o n
      | .hbm o => hbmReadBytes s o n
      | .win w o => winRead s w o n
      | .pb o => if badIn s (0x60000000 + o) n then (.ue, zero, pbUe s (o / 256)) else (.okay, getMem s (0x60000000 + o) n, s)
      | x => if badIn s (matHome x) n then (.ue, zero, s) else (.okay, getMem s (matHome x) n, s)

/-- A write of bytes by a master: response code and the state after it. -/
def matWrite0 (m : Master) (w : List (Nat × Byte)) (s : State) : RespCode × State :=
  match w with
  | [] => (.okay, s)
  | (a, _) :: _ =>
    match matLoc m a s with
    | .reg => regWriteBytes m w s
    | l =>
      let c := answers m true s (w.map (fun p => matLoc m p.1 s))
      if c ≠ .okay then (c, s)
      else match l with
        | .store _ => storeWrite s (w.map (fun p => (p.1 - 0x40000000, p.2)))
        | .hbm _ => hbmWriteBytes s w
        | .win k o => (.okay, putHost (winAsk s k o true w.length) (w.map (fun p =>
            (((fget {} s.hb.hwin k).base.toNat + p.1 % 0x100000000000) % 2 ^ 64, p.2))))
        | _ => (.okay, putDie s (w.map (fun p => (matHome (matLoc m p.1 s), p.2))))

/-! ### Jobs -/

/-- R168, R132: a vent's LCE job enters its caldera's job queue for the LCE that the map names, or for the LCE of the
CHAIN = 1 job it follows. The job uses the vent's TXTAKE result, if the slot it names is that of one (R66). -/
def submitJob (s : State) (v : Nat) (bs : List Byte) : State :=
  let d := BitVec.ofNat 512 (leNat bs)
  let n := (fget none s.path.chain v).getD (lceOf s v)
  let pick := (v, 6 * nbits d.toNat 31 16 + nbits d.toNat 34 32)
  { s with
    path := { s.path with
      jobs := s.path.jobs ++ [{ lce := n, vent := v, follows := fhas s.path.chain v, desc := d }]
      chain := if d.getLsbD 8 then fset v (some n) s.path.chain else fdel v s.path.chain }
    store := { s.store with
      picks := if nbit d.toNat 254 && !nbit d.toNat 255 then s.store.picks else s.store.picks.erase pick } }

end Sys2Proof.Machine
end

