-- ==== Sys2Proof/Machine/Dma.lean ====
section
/-! DEFINITION. DMA channels (R270 to R276): descriptors and their checks, bursts, swaps and circular blocks, pacing,
retries. -/

namespace Sys2Proof.Machine

/-- The alignment check of R272. -/
def descAlign (d : Nat) : Bool :=
  let z := 2 ^ nbits d 50 48
  decide (3 < nbits d 50 48) || nbits d 47 0 % z != 0 || nbits d 111 64 % z != 0 || nbits d 159 128 % z != 0

/-- Whether a circular field is out of range (R272). -/
def circBad (x : Nat) : Bool := (decide (1 ≤ x) && decide (x ≤ 3)) || decide (29 ≤ x)

/-- Whether a reserved field of a descriptor is not zero. -/
def descRsv (d : Nat) : Bool :=
  nbits d 55 53 != 0 || nbits d 63 61 != 0 || nbits d 119 117 != 0 || nbit d 123 || nbit d 127 || nbits d 191 160 != 0 ||
  nbits d 255 235 != 0

/-- The cause with which a descriptor is refused, 0 when it is not (R272), before the pacing check. -/
def descRefusal (d : Nat) : Nat :=
  if descAlign d then 1
  else if (nbit d 51 && nbits d 50 48 == 0) || (nbit d 52 && decide (nbits d 50 48 < 2)) then 2
  else if circBad (nbits d 60 56) || circBad (nbits d 116 112) then 3
  else if descRsv d then 6
  else 0

/-- The fill of a pacing source, none where it does not exist (R275). -/
def paceFill (s : State) (pace : Word) : Option Nat :=
  let id := wbits pace 21 2
  match wbits pace 1 0 with
  | 1 => match ffind s.qm.queues id with
    | some q => if q.valid then some (min 65535 (queueFrames q).length) else none
    | none => none
  | 2 => (ringAt s id).map (fun r => min 65535 (ringFill r))
  | _ => none

/-- LO and HI of DCH_LEVEL. -/
def paceLo (x : Dma) : Nat := wbits x.level 15 0
/-- HI. -/
def paceHi (x : Dma) : Nat := wbits x.level 31 16

/-- Whether a channel's descriptor is paced. -/
def dmaPaced (x : Dma) : Bool := match x.cur with
  | some d => d.getLsbD 120
  | none => false

/-- The start of a paced descriptor (R275). -/
def paceStart (s : State) (n : Nat) : State :=
  let x := dmaAt s n
  let p := wbits x.pace 1 0
  if p = 0 ∨ p = 3 ∨ paceHi x ≤ paceLo x then dmaHalt s n 4
  else match paceFill s x.pace with
    | none => dmaHalt s n 5
    | some f => updDma s n (fun x => { x with fill := BitVec.ofNat 16 f, state := if paceHi x ≤ f then .run else .wait })

/-- The halt cause of a bus error's last response (R276). -/
def busCause : RespCode → Nat
  | .domainOff => 8
  | .ue => 9
  | _ => 7

/-- A bus error of the current burst or fetch at an address (R276): the channel waits for its retries, or halts where
none are left. -/
def dmaFail (s0 : State) (n : Nat) (code : RespCode) (addr : Nat) (tries limit : Nat) : State :=
  let s := dmaUnwait s0 n
  if limit ≤ tries then
    dmaHalt (updDma s n (fun x => { x with errAddr := BitVec.ofNat 64 addr, retries := tries })) n (busCause code)
  else updDma s n (fun x => { x with
    failed := some code
    failAddr := addr
    failTick := s.timebase.toNat
    retries := tries
    limit := limit })

/-- The master port that a channel of a caldera shares with its vents (R260). -/
def dmaPort (n : Nat) : Nat := 2 * (n / 16) + Config.dmaPort n % 2

/-- Whether a channel can issue no access to an address now: the host bridge holds a lock on the port that serves it (R264), or
64 transactions are outstanding on the channel's own (R261). Channels of the host bridge share a port on which none is. -/
def dmaHeld (s : State) (n a : Nat) : Bool := matLocked (.dma n) a s || (decide (n < 192) && decide (64 ≤ portLoad s (dmaPort n)))

/-- The channel fetches the descriptor at DCH_DESC and checks it (R271, R272), or waits for what holds it (R261, R264, R279).
`tries` and `limit` are its retries so far and how many it may make. -/
def dmaFetch (s : State) (n tries limit : Nat) : State :=
  let a := (dmaAt s n).desc.toNat
  let (c, bs, s1) := matRead0 (.dma n) a 32 s
  if dmaHeld s n a then dmaWait s n
  else if c ≠ .okay then dmaFail s1 n c a tries limit
  else
    let d := leNat bs
    let s2 := updDma s1 n (fun x => { x with
      cur := some (BitVec.ofNat 256 d)
      before := { src := x.src, dst := x.dst, left := x.left, fill := x.fill }
      failed := none
      retries := 0 })
    let r := descRefusal d
    if r ≠ 0 then dmaHalt s2 n r
    else
      let s3 := updDma s2 n (fun x => { x with
        src := BitVec.ofNat 64 (nbits d 47 0)
        dst := BitVec.ofNat 64 (nbits d 111 64)
        left := BitVec.ofNat 32 (nbits d 159 128) })
      if nbit d 120 then paceStart s3 n else s3

/-- An element swapped (R273). -/
def swapElem (swb swh : Bool) (e : List Byte) : List Byte :=
  let halves (l : List Byte) : List Byte := match l with
    | [a, b] => if swb then [b, a] else [a, b]
    | [a, b, c, d] =>
      let x := if swb then [b, a] else [a, b]
      let y := if swb then [d, c] else [c, d]
      if swh then y ++ x else x ++ y
    | l => l
  if e.length = 8 then halves (e.take 4) ++ halves (e.drop 4) else halves e

/-- An address k bytes on, linear or in a circular block of 2^n bytes (R274). -/
def dmaAdvance (a k circ : Nat) : Nat :=
  if circ = 0 then (a + k) % 2 ^ 48 else a / 2 ^ circ * 2 ^ circ + (a % 2 ^ circ + k) % 2 ^ circ

/-- Bytes from an address to the next 64-byte boundary or circular wrap. -/
def dmaRoom (a circ : Nat) : Nat := if circ = 0 then 64 - a % 64 else min (64 - a % 64) (2 ^ circ - a % 2 ^ circ)

/-- Bytes of a channel's next burst (R271). -/
def burstLen (x : Dma) (d : Nat) : Nat :=
  min x.left.toNat (min (dmaRoom x.src.toNat (nbits d 60 56)) (dmaRoom x.dst.toNat (nbits d 116 112)))

/-- One burst: the response that ends it, the address that gave it, and the state after it. -/
def dmaBurst (s : State) (n : Nat) : RespCode × Nat × State :=
  let x := dmaAt s n
  match x.cur with
  | none => (.okay, 0, s)
  | some d0 =>
    let d := d0.toNat
    let k := burstLen x d
    let (c, bs, s1) := matRead0 (.dma n) x.src.toNat k s
    if c ≠ .okay then (c, x.src.toNat, s1)
    else
      let out := (chunks (2 ^ nbits d 50 48) (k + 1) bs).flatMap (swapElem (nbit d 51) (nbit d 52))
      let (c2, s2) := matWrite0 (.dma n) (addrBytes x.dst.toNat out) s1
      if c2 ≠ .okay then (c2, x.dst.toNat, s2)
      else (.okay, 0, updDma s2 n (fun x => { x with
        src := BitVec.ofNat 64 (dmaAdvance x.src.toNat k (nbits d 60 56))
        dst := BitVec.ofNat 64 (dmaAdvance x.dst.toNat k (nbits d 116 112))
        left := x.left - BitVec.ofNat 32 k }))

/-- Whether a channel's next burst must wait at its source or its destination (R261, R264). -/
def dmaBlocked (s : State) (n : Nat) : Bool := dmaHeld s n (dmaAt s n).src.toNat || dmaHeld s n (dmaAt s n).dst.toNat

/-- A burst that nothing holds: the next one, or the retry of the one that failed (R276). -/
def dmaOnce (s : State) (n : Nat) : State :=
  let x := dmaAt s n
  let (c, a, s1) := dmaBurst (dmaUnwait s n) n
  if c = .okay then updDma s1 n (fun x => { x with failed := none, retries := if x.failed.isSome then 0 else x.retries })
  else if x.failed.isSome then dmaFail s1 n c a (x.retries + 1) x.limit
  else dmaFail s1 n c a 0 s1.mx.dmaRetry.toNat

/-- Bursts until `stop` bytes are left; `fuel` bounds their number. A burst that fails, or must wait, ends the run. -/
def dmaMove (n stop : Nat) : Nat → State → State
  | 0, s => s
  | f + 1, s =>
    let x := dmaAt s n
    if x.left.toNat ≤ stop ∨ x.state ≠ .run ∨ x.failed.isSome then s
    else if dmaBlocked s n then dmaWait s n
    else dmaMove n stop f (dmaOnce s n)

/-- The channels with an access to make of their own accord: those that wait, in the order of their arrival (R279), then those
that have started, or gone on to a next descriptor, and have it to fetch. -/
def dmaDue (s : State) : List Nat :=
  let old := s.mx.waiting.filter (fun n => (dmaAt s n).state == .run && ((dmaAt s n).cur.isNone || (dmaAt s n).left != 0))
  let new := (s.mx.dma.filter (fun p => p.2.state == .run && p.2.cur.isNone && p.2.failed.isNone)).map (fun p => p.1)
  old ++ new.filter (fun n => !old.contains n)

/-- Such a channel fetches its descriptor or issues the burst that waits, or goes on waiting. -/
def dmaServe (s : State) (n : Nat) : State :=
  let x := dmaAt s n
  if x.cur.isNone then (if x.failed.isSome then dmaFetch s n (x.retries + 1) x.limit else dmaFetch s n 0 s.mx.dmaRetry.toNat)
  else if dmaBlocked s n then dmaWait s n
  else dmaOnce s n

/-- Every such channel is served. -/
def dmaSettle (s : State) : State :=
  if (dmaDue s).isEmpty then s else (dmaDue s).foldl dmaServe { s with mx := { s.mx with waiting := [] } }

/-- A change of the fill reaches a paced channel (R275). -/
def paceChange (s : State) (n : Nat) : State :=
  let x := dmaAt s n
  if !dmaBusy x || !dmaPaced x then s
  else match paceFill s x.pace with
    | none => dmaHalt s n 5
    | some f => updDma s n (fun x => { x with
        fill := BitVec.ofNat 16 f
        state := if x.state = .wait then (if paceHi x ≤ f then .run else .wait)
          else if f ≤ paceLo x then .wait else .run })

/-- DESCRIPTOR_COMPLETE (R271 steps 2 to 4). -/
def dmaComplete (s0 : State) (n : Nat) : State :=
  let s := paceChange s0 n
  let x := dmaAt s n
  match x.cur with
  | none => s
  | some d =>
    if x.state ≠ .run ∨ x.failed.isSome then s
    else
      let s1 := dmaMove n 0 (x.left.toNat + 1) s
      let y := dmaAt s1 n
      if y.state ≠ .run ∨ y.failed.isSome ∨ y.left ≠ 0 then s1
      else if d.getLsbD 122 then dmaNotice (updDma s1 n (fun x => { x with state := .done })) n
      else
        let s2 := if d.getLsbD 121 then dmaNotice s1 n else s1
        dmaSettle (updDma s2 n (fun x => { x with cur := none, desc := BitVec.ofNat 64 (nbits d.toNat 234 192 * 32) }))

/-- Whether a channel has issued nothing of its present descriptor, or has still to fetch one. -/
def dmaFresh (x : Dma) : Bool := match x.cur with
  | none => true
  | some d => x.left.toNat == nbits d.toNat 159 128 && x.src.toNat == nbits d.toNat 47 0

/-- The descriptor fetch is answered with a code (R276): nothing of the descriptor has been taken. -/
def dmaFetchError (s : State) (n : Nat) (code : RespCode) : State :=
  let x := dmaAt s n
  if !dmaBusy x ∨ x.failed.isSome ∨ ¬ dmaFresh x then s
  else
    let s1 := if x.cur.isNone then s else updDma s n (fun x => { x with
      cur := none
      src := x.before.src
      dst := x.before.dst
      left := x.before.left
      fill := x.before.fill
      state := .run })
    dmaFail s1 n code x.desc.toNat 0 s.mx.dmaRetry.toNat

/-- The read or the write of a burst is answered with a code (R276): bursts go on until `left` bytes are left, and the
next one fails; the matrix's own answer counts where it is not OKAY. -/
def dmaBurstError (s : State) (n left : Nat) (wr : Bool) (code : RespCode) : State :=
  let x := dmaAt s n
  if x.state ≠ .run ∨ x.failed.isSome ∨ x.cur.isNone ∨ left = 0 ∨ x.left.toNat < left then s
  else
    let s1 := dmaMove n left (x.left.toNat + 1) s
    let y := dmaAt s1 n
    if y.state ≠ .run ∨ y.failed.isSome then s1
    else if y.left.toNat ≠ left ∨ dmaBlocked s1 n then s
    else
      let (c, _, s2) := matRead0 (.dma n) y.src.toNat (burstLen y ((y.cur.getD 0).toNat)) s1
      if c ≠ .okay then dmaFail s2 n c y.src.toNat 0 s2.mx.dmaRetry.toNat
      else dmaFail (if wr then s2 else s1) n code (if wr then y.dst else y.src).toNat 0 s1.mx.dmaRetry.toNat

/-- BUS_ERROR (R276): a response other than OKAY to one of a channel's accesses. -/
def dmaBusError (s : State) (n : Nat) (what : DmaAccess) (code : RespCode) : State := match what with
  | .fetch => dmaFetchError s n code
  | .readAt left => dmaBurstError s n left false code
  | .writeAt left => dmaBurstError s n left true code

/-- DMA_RETRY (R276 steps 2 to 4), 1 µs after the last response. `ok` says whether what lies behind the matrix answers; a
retry that fails there is answered with a code of its own, `last`, or with the one before. -/
def dmaRetryDo (s : State) (n : Nat) (ok : Bool) (last : Option RespCode) : State :=
  let x := dmaAt s n
  match x.failed with
  | none => s
  | some before =>
    let code := match last with
      | none | some .okay => before
      | some c => c
    if !dmaBusy x || decide (s.timebase.toNat < x.failTick + 1000) then s
    else if x.cur.isNone then
      if ok then dmaFetch s n (x.retries + 1) x.limit
      else dmaFail s n code x.failAddr (x.retries + 1) x.limit
    else if !ok then dmaFail s n code x.failAddr (x.retries + 1) x.limit
    else if dmaBlocked s n then dmaWait s n
    else dmaOnce s n

end Sys2Proof.Machine
end

