-- ==== Sys2Proof/Machine/Matrix.lean ====
section
/-! DEFINITION. The matrix as masters use it: reads, writes, and the DMA channels that a write of their registers starts
(R257, R271). -/

namespace Sys2Proof.Machine

/-- A read of n bytes by a master: response code, data, and the state after it. -/
def matRead (m : Master) (a n : Nat) (s : State) : RespCode × List Byte × State := matRead0 m a n s

/-- A write of bytes by a master: response code and the state after it. -/
def matWrite (m : Master) (w : List (Nat × Byte)) (s : State) : RespCode × State :=
  let (c, s1) := matWrite0 m w s
  (c, dmaSettle s1)

/-- The state after such a write. -/
def matPut (m : Master) (w : List (Nat × Byte)) (s : State) : State := (matWrite m w s).2

/-- An aligned register word written by a master. -/
def regPut (m : Master) (a : Nat) (w : Word) (s : State) : State := dmaSettle (regWrite m a w s).2

/-- A vent's register in its caldera's block. -/
def ventReg (v o : Nat) : Nat := 0x90000000 + v / 8 * 0x100000 + v % 8 * 0x1000 + o

end Sys2Proof.Machine
end

