-- ==== Sys2Proof/Machine/Ops.lean ====
section
/-! DEFINITION. The shared operations of a vent: loads and stores through its address space, the store buffer, the
D-cache, taking an exception (R226 to R230) and returning from one (R231), asynchronous events (R233, R234). -/

namespace Sys2Proof.Machine

/-! ### Reading and writing memory -/

/-- The bytes of a part of one block of caldera memory or palette, with what the store buffer holds of it (R167). -/
def readPart (s : State) (vt : Vent) (a n : Nat) : Option (List Byte) :=
  match sbLook vt.fl.sbuf.reverse a n with
  | .bytes bs => some bs
  | .partly => none
  | .miss => some (getMem s a n)

/-- The bytes of a list of parts; none when one of them must wait. -/
def readParts (s : State) (vt : Vent) : List (Nat × Nat) → Option (List Byte)
  | [] => some []
  | (a, n) :: r => match readPart s vt a n, readParts s vt r with
    | some x, some y => some (x ++ y)
    | _, _ => none

/-- The bytes at a local location: the palette directly, caldera memory through the store buffer (R166, R167). -/
def readLocal (s : State) (vt : Vent) (v : Nat) (loc : VLoc) (n : Nat) : Option (List Byte) :=
  match loc with
  | .pal o => some (getMem s (palBase v + o) n)
  | l => readParts s vt (blocksOf (n / 64 + 2) (localAddr v l) n)

/-- The response code and the word at a vent address, unchecked by the region table (R229); an address that leads
nowhere, or into the context cache (R135), answers ERROR: the read of a handler table is part of an entry, whose failures
R229 reports as machine checks (notes/assumptions/11.md). -/
def readWordRaw (s : State) (v a : Nat) : RespCode × Nat × State :=
  let vt := ventAt s v
  match ventLoc vt v a with
  | .none => (.error, 0, s)
  | .pal o =>
    if badIn s (palBase v + o) 4 then (.ue, 0, s) else (.okay, leNat (getMem s (palBase v + o) 4), s)
  | .cal o =>
    if inCtxc s o then (.error, 0, s)
    else match sbLook vt.fl.sbuf.reverse (calBase (v / 8) + o) 4 with
      | .bytes bs => (.okay, leNat bs, s)
      | _ => if badIn s (calBase (v / 8) + o) 4 then (.ue, 0, s) else (.okay, leNat (getMem s (calBase (v / 8) + o) 4), s)
  | .far ma _ => let (c, bs, s1) := matRead (ventMaster v) ma 4 s; (c, leNat bs, s1)
  | .dev ma => let (c, bs, s1) := matRead (ventMaster v) ma 4 s; (c, leNat bs, s1)

/-- Whether some dirty line of the vent's D-cache in the set of a block lies behind a locked port: a line taken into that set
could evict it (R170, R264). -/
def evictBlocked (s : State) (v block : Nat) : Bool :=
  (ventAt s v).fl.dcache.any (fun l => l.dirty && l.block / 64 % 64 == block / 64 % 64 && matLocked (ventMaster v) l.block s)

/-- A dirty line is written back (R170). -/
def writeBack (s : State) (v : Nat) (l : DLine) : State :=
  if l.dirty then matPut (ventMaster v) (addrBytes l.block (leBytes 64 l.data.toNat)) s else s

/-- A line taken into a vent's D-cache: 64 sets of 4 ways; a full set gives up the way that Config names (R170). -/
def dcAlloc (s : State) (v : Nat) (block : Nat) (bytes : List Byte) : State :=
  let vt := ventAt s v
  let set := vt.fl.dcache.filter (fun l => l.block / 64 % 64 == block / 64 % 64)
  let rest := vt.fl.dcache.filter (fun l => l.block / 64 % 64 != block / 64 % 64)
  let new : DLine := { block := block, data := BitVec.ofNat 512 (leNat bytes), dirty := false }
  if vt.fl.dcache.any (fun l => l.block == block) then s
  else if set.length < 4 then updVent s v (fun vt => { vt with fl := { vt.fl with dcache := new :: vt.fl.dcache } })
  else
    let k := Config.dcacheVictim s.freeCtr % 4
    let s1 := { s with freeCtr := s.freeCtr + 1 }
    let s2 := updVent s1 v (fun vt => { vt with fl := { vt.fl with dcache := new :: (set.take k ++ set.drop (k + 1)) ++ rest } })
    match set[k]? with
    | some l => writeBack s2 v l
    | none => s2

/-- The line with bytes written, now dirty. -/
def lineWrite (l : DLine) (w : FMap Byte) : DLine :=
  let bs := w.foldl (fun (a : List Byte) p => splice a (p.1 - l.block) [p.2]) (leBytes 64 l.data.toNat)
  { l with data := BitVec.ofNat 512 (leNat bs), dirty := true }

/-- R166, R170: the oldest store buffer entry drains. A far entry that the matrix takes leaves its response code to be
returned; an entry of a cacheable window updates a present line instead. -/
def sbDrain (s : State) (v : Nat) : State :=
  let vt := ventAt s v
  match vt.fl.sbuf with
  | [] => s
  | x :: r =>
    let s1 := setVent s v { vt with fl := { vt.fl with sbuf := r } }
    if !x.far then putDie s1 x.bytes
    else if x.cache && vt.fl.dcache.any (fun l => l.block == x.block) then
      updVent s1 v (fun vt => { vt with fl := { vt.fl with
        dcache := vt.fl.dcache.map (fun l => if l.block = x.block then lineWrite l x.bytes else l) } })
    else
      let (c, s2) := matWrite (ventMaster v) x.bytes s1
      updVent s2 v (fun vt => { vt with fl := { vt.fl with farWrites := vt.fl.farWrites ++ [(c, x)] } })

/-! ### Taking an exception -/

/-- The level that takes a cause raised at level `lvl` (R227). -/
def takenAt (vt : Vent) (cause lvl : Nat) : Nat :=
  if cause < 32 && vt.deleg.getLsbD cause && lvl != 3 then 1 else 3

/-- The vent locks up (R239). -/
def lockUp (vt : Vent) : Vent :=
  { vt with fl := { vt.fl with bundle := [] }, evt := { vt.evt with excStat := vt.evt.excStat ||| 5, mcPend := none } }

/-- MCSRC of a machine check of the register file (R239). -/
def mcSrcReg : Nat := 3

/-- MCSRC of a machine check at a vent address, by whether scrub found it (R239). -/
def mcSrc (vt : Vent) (v a : Nat) (scrub : Bool) : Nat :=
  match ventLoc vt v a with
  | .pal _ => if scrub then 4 else 1
  | .cal _ => if scrub then 5 else 2
  | _ => wbits vt.evt.excStat 7 4

/-- VEXC_STAT.MCSRC and VMC_ADDR record a machine check (R239). -/
def mcRecord (vt : Vent) (src a : Nat) : Vent :=
  { vt with evt := { vt.evt with
      mcAddr := BitVec.ofNat 32 a
      excStat := BitVec.ofNat 8 (nput vt.evt.excStat.toNat 7 4 src) } }

/-- The hold ends and the budget becomes HOLD_MAX (R230, R231, R235). -/
def holdReset (vt : Vent) : Vent := { vt with hold := { vt.hold with count := 0, budget := vt.hold.max } }

/-- What an event brings to its entry: cause, ASYNC, CLASS, OPIDX, N, FADDR, the return address, and the level at which
it is raised or taken; of a machine check also whether MCACT was 1 as it was raised (R239). -/
structure Event where
  cause : Nat := 0
  async : Bool := false
  cls : Nat := 0
  idx : Nat := 0
  n : Nat := 0
  faddr : Nat := 0
  rta : Nat := 0
  lvl : Nat := 3
  mcact : Bool := false
deriving DecidableEq, Repr

/-- The CAUSE word of an event (R230). -/
def causeWord (e : Event) : Word :=
  BitVec.ofNat 32 (e.cause + 256 * b2n e.async + 512 * e.cls + 4096 * e.idx + 65536 * e.n)

/-- Steps 2 to 7 of R230: loads land, RTA, STS, CAUSE, FADDR, STAT and the hold registers are written, and the bundle
under assembly is abandoned; one more handler is under way. STAT and the region table already hold what a mode shadow
applied. -/
def entryRegs (vt0 : Vent) (e : Event) : Vent :=
  let vt := landAll vt0
  let l := takenAt vt e.cause e.lvl
  let old := if l = 3 then vt.m else vt.s
  let x : ExcRegs := { old with
    rta := BitVec.ofNat 32 (e.rta / 4 * 4)
    sts := BitVec.ofNat 32 (statRead vt)
    cause := causeWord e
    faddr := BitVec.ofNat 32 e.faddr }
  let st0 := if l = 3 then (vt.stat &&& 0xFFFFFFF7) ||| 3 else (vt.stat &&& 0xFFFFFFEC) ||| 1
  let st := st0 ||| (if e.cause = 49 then 0x24 else 0) ||| (if e.cause = 51 then 0x40 else 0)
  let vt1 := if l = 3 then { vt with m := x } else { vt with s := x }
  let vt2 := holdReset { vt1 with stat := st }
  { vt2 with fl := { vt2.fl with bundle := [], handlers := e.cause :: vt2.fl.handlers } }

/-- The handler-table base of the level that takes an event (R229). -/
def entryBase (vt : Vent) (e : Event) : Nat :=
  if takenAt vt e.cause e.lvl = 3 then vt.m.tbase.toNat else vt.s.tbase.toNat

/-- Entry without the machine check that an error of the handler read raises: the outcome's state, and the address of
the word whose read failed. -/
def entryOnce (s : State) (v : Nat) (e : Event) : State × Option Nat :=
  let vt := ventAt s v
  let a := (entryBase vt e + 4 * e.cause) % 2 ^ 32
  let s1 := setVent s v (entryRegs vt e)
  let (c, w, s2) := readWordRaw s1 v a
  if c = .okay then (updVent s2 v (fun vt => { vt with pc := BitVec.ofNat 32 (w / 4 * 4) }), none)
  else (s2, some a)

/-- Whether the read of a handler table's entry for a cause of level l must wait: for a locked port, or for the 64
transactions of the vent's own (R261, R264). -/
def handlerWaits (s : State) (v l cause : Nat) : Bool :=
  let vt := ventAt s v
  match ventLoc vt v (((if l = 3 then vt.m.tbase.toNat else vt.s.tbase.toNat) + 4 * cause) % 2 ^ 32) with
  | .far ma _ => matLocked (ventMaster v) ma s || !portRoom s v 1
  | .dev _ => !portRoom s v 1
  | _ => false

/-- Whether the entry of a cause raised at level `lvl` must wait for its handler-table read, or for that of the machine check
to which an error of it would lead (R229). -/
def entryWaits (s : State) (v cause lvl : Nat) : Bool :=
  let vt := ventAt s v
  let l := takenAt vt cause lvl
  handlerWaits s v l cause ||
  ((readWordRaw s v (((if l = 3 then vt.m.tbase.toNat else vt.s.tbase.toNat) + 4 * cause) % 2 ^ 32)).1 != .okay &&
    handlerWaits s v 3 49)

/-- The vent without the handler that an entry was to start: its cause is still to be taken (R238, R246). -/
def dropHandler (vt : Vent) : Vent := { vt with fl := { vt.fl with handlers := vt.fl.handlers.tail } }

/-- Taking an exception (R230). A machine check while MCACT is 1, or whose handler cannot be read, locks the vent up; any
other unreadable handler word raises machine check at M (R229, R239), whose handler alone is then under way. -/
def ventEnter (s : State) (v : Nat) (e : Event) : State :=
  if e.cause = 49 && e.mcact then updVent s v lockUp
  else
    match entryOnce s v e with
    | (s1, none) => s1
    | (s1, some a) =>
      if e.cause = 49 then updVent s1 v lockUp
      else
        let vt := dropHandler (ventAt s1 v)
        let s2 := setVent s1 v (mcRecord vt (mcSrc vt v a false) a)
        if ventMcact vt then updVent s2 v lockUp
        else
          match entryOnce s2 v { cause := 49, faddr := a, rta := e.rta, lvl := 3 } with
          | (s3, none) => s3
          | (s3, some _) => updVent s3 v lockUp

/-! ### Returning -/

/-- STAT after RETM (R231): every field from STS_M, NARROW only ever cleared; a saved LEVEL of 2 leaves LEVEL. -/
def statRetm (old sts : Word) : Word :=
  let lvl := if wbits sts 1 0 = 2 then old &&& 3 else sts &&& 3
  lvl ||| (old &&& sts &&& 4) ||| (sts &&& 0x78)

/-- STAT after RETS (R231): LEVEL and SIE from STS_S, a saved M or 2 taken as S. -/
def statRets (old sts : Word) : Word :=
  let lvl : Word := if 2 ≤ wbits sts 1 0 then 1 else sts &&& 3
  (old &&& 0xFFFFFFEC) ||| lvl ||| (sts &&& 0x10)

/-- The return from a handler: STAT, the hold registers, and the innermost handler's end (R231, R238). The MV stays in
Narrow mode. -/
def ventReturn (vt : Vent) (machine mv : Bool) : Vent :=
  let st := (if machine then statRetm vt.stat vt.m.sts else statRets vt.stat vt.s.sts) ||| (if mv then 4 else 0)
  let vt1 := holdReset { vt with stat := st }
  { vt1 with fl := handlerEnd vt1.fl }

/-! ### Asynchronous events -/

/-- Whether interrupt cause c can be taken (R227, R228). -/
def intReady (s : State) (v c : Nat) (toM : Bool) : Bool :=
  let vt := ventAt s v
  let lvl := ventLevel vt
  let s_ := vt.deleg.getLsbD c
  nbit (vintPend s v) c && nbit (vintEn vt) c && (s_ != toM) &&
  (if s_ then lvl == 0 || (lvl == 1 && vt.stat.getLsbD 4) else lvl != 3 || vt.stat.getLsbD 3)

/-- The highest asynchronous event that is pending and not held off by a hold (R233, R234): cause and FADDR. A hold holds
off all but machine check and NMI; in Narrow mode cause 10 is a synchronous fault of the next bundle (R145). -/
def pendingAsync (s : State) (v : Nat) : Option (Nat × Nat) :=
  let vt := ventAt s v
  let hold := vt.hold.count != 0
  if !ventRuns s v then none
  else match vt.evt.mcPend with
  | some a => some (49, a.toNat)
  | none =>
    if vt.evt.nmiPend && !ventNmiact vt && !ventMcact vt then some (51, 0)
    else if hold then none
    else if vt.hold.ovr then some (48, vt.hold.haddr.toNat)
    else if vt.evt.wdPend then some (50, 0)
    else if deferDue vt && !ventNarrow vt then
      some (10, (vt.fl.deferq.headD {}).addr.toNat)
    else
      match (List.range 8).find? (fun i => intReady s v (16 + i) true) with
      | some i => some (16 + i, 0)
      | none => match (List.range 8).find? (fun i => intReady s v (16 + i) false) with
        | some i => some (16 + i, 0)
        | none => none

/-- The asynchronous event that the vent takes at the present boundary, if any (R233, R234): none where a mode shadow
opens. -/
def nextAsync (s : State) (v : Nat) : Option (Nat × Nat) := if (ventAt s v).shadowOpen then none else pendingAsync s v

/-- The request of an asynchronous event is used up as it is taken (R236, R240, R241). -/
def asyncTaken (vt : Vent) (cause : Nat) : Vent :=
  if cause = 49 then { vt with evt := { vt.evt with mcPend := none } }
  else if cause = 51 then { vt with evt := { vt.evt with nmiPend := false } }
  else if cause = 48 then { vt with hold := { vt.hold with ovr := false } }
  else if cause = 50 then { vt with evt := { vt.evt with wdPend := false } }
  else vt

/-- ASYNC_ENTRY: the highest pending asynchronous event is taken at this boundary, once its handler's address can be read. -/
def takeAsync (s : State) (v : Nat) : State :=
  match nextAsync s v with
  | none => s
  | some (c, a) =>
    let vt := ventAt s v
    if entryWaits s v c (ventLevel vt) then s
    else
      ventEnter (setVent s v (asyncTaken vt c)) v
        { cause := c, async := true, faddr := a, rta := vt.pc.toNat, lvl := ventLevel vt, mcact := ventMcact vt }

end Sys2Proof.Machine
end

