-- ==== Sys2Proof/Machine/VentFetch.lean ====
section
/-! DEFINITION. Fetch (R149, R174): where code lies, the I-cache and the line buffer, and the lines that a bundle takes. -/

namespace Sys2Proof.Machine

/-- The matrix address at which a vent fetches a word, if it can hold code (R149): caldera memory or a far window; for the
MV also the boot ROM and its SRAM, under the fixed map of R255. -/
def codeAddr (vt : Vent) (v a : Nat) : Option Nat :=
  match ventLoc vt v a with
  | .cal o => some (calBase (v / 8) + o)
  | .far ma _ => some ma
  | .none => if v = mvNum ∧ a < 0x2000000 then some a else none
  | _ => none

/-- The line of a block that fetch holds already: in the line buffer, else in the I-cache, where a parity error makes it a miss
(R149). -/
def codeLine (vt : Vent) (b : Nat) : Option ILine :=
  match vt.fl.lbuf.find? (fun l => l.block == b) with
  | some l => some l
  | none => vt.fl.icache.find? (fun l => l.block == b && !l.bad)

/-- A read of code at a matrix address: the vent's own caldera memory directly, anything else by the matrix. -/
def codeRead (s : State) (v m n : Nat) : RespCode × List Byte × State :=
  if v ≠ mvNum ∧ calBase (v / 8) ≤ m ∧ m < calBase (v / 8) + 0x400000 then
    (if badIn s m n then (.ue, List.replicate n 0, s) else (.okay, getMem s m n, s))
  else matRead (ventMaster v) m n s

/-- A word as fetch finds it: in a line that it holds, else in memory, which the store buffer has not reached (R174). -/
def fetchWord (s : State) (v a : Nat) : Nat :=
  let vt := ventAt s v
  match codeAddr vt v a with
  | none => 0
  | some m => match codeLine vt (m / 64 * 64) with
    | some l => wbits l.data (8 * (m % 64) + 31) (8 * (m % 64))
    | none => leNat (codeRead s v m 4).2.1

/-- The length in words of the bundle that fetch finds at a vent address: up to its first word sequence that ends with
LAST, eight at most (R175). -/
def bundleLen (s : State) (v : Nat) : Nat → Nat → Nat → Nat
  | 0, _, n => n
  | f + 1, a, n =>
    if 8 ≤ n then 8
    else
      let w := fetchWord s v (a % 2 ^ 32)
      let len := if nbit w 1 then 2 else 1
      if nbit w 0 then n + len else bundleLen s v f (a + 4 * len) (n + len)

/-- Whether a word of a bundle can be fetched (R149): fetch holds its line, or memory answers the refill of the whole line
with OKAY; the MV has no I-cache (R13) and reads the word. -/
def fetchOk (s : State) (v a : Nat) : Bool :=
  match codeAddr (ventAt s v) v a with
  | none => false
  | some m => (codeLine (ventAt s v) (m / 64 * 64)).isSome ||
      (if v = mvNum then (codeRead s v m 4).1 else (codeRead s v (m / 64 * 64) 64).1) == .okay

/-- Whether a word lies in a context cache area (R135). -/
def inCache (s : State) (v a : Nat) : Bool := inCacheArea s (ventLoc (ventAt s v) v a)

/-- An I-cache with a line used (R149): it comes first, and a set of more than four lines loses the one used longest ago. -/
def icUse (ic : List ILine) (l : ILine) : List ILine :=
  let rest := ic.filter (fun x => x.block != l.block)
  let same (x : ILine) : Bool := x.block / 64 % 128 == l.block / 64 % 128
  match (rest.filter same).drop 3 with
  | [] => l :: rest
  | old => l :: rest.filter (fun x => !old.contains x)

/-- The line that holds a vent address is fetched: from the line buffer, from the I-cache, or by a refill, which reads the
whole line from memory. -/
def fetchLine (s : State) (v a : Nat) : Option ILine × State :=
  let vt := ventAt s v
  match codeAddr vt v a with
  | none => (none, s)
  | some m =>
    let b := m / 64 * 64
    match codeLine vt b with
    | some l =>
      (some l, if vt.fl.icache.contains l then setVent s v { vt with fl := { vt.fl with icache := icUse vt.fl.icache l } } else s)
    | none =>
      let (code, bs, s1) := codeRead s v b 64
      if code = .okay then
        let l : ILine := { block := b, data := BitVec.ofNat 512 (leNat bs) }
        (some l, updVent s1 v (fun vt => { vt with fl := { vt.fl with icache := icUse vt.fl.icache l } }))
      else (none, s1)

/-- The lines of a bundle at pc are fetched (R149, R174). The line buffer then holds the bundle's first line and the next
one in sequence: the bundle's own second line, else what the I-cache holds of it. The MV has no I-cache (R13). -/
def fetchBundle (s : State) (v pc words : Nat) : State :=
  if v = mvNum then s
  else
    let (l, s1) := fetchLine s v pc
    let b := pc / 64 * 64
    let (k, s2) :=
      if b + 64 < pc + 4 * words then fetchLine s1 v ((b + 64) % 2 ^ 32)
      else ((codeAddr (ventAt s1 v) v ((b + 64) % 2 ^ 32)).bind (fun m => codeLine (ventAt s1 v) (m / 64 * 64)), s1)
    updVent s2 v (fun vt => { vt with fl := { vt.fl with lbuf := l.toList ++ k.toList } })

/-- Whether the fetch of a bundle must wait: for a locked port (R264), or, through a window, for the 64 transactions of its
own (R261). -/
def fetchBlocked (s : State) (v pc words : Nat) : Bool :=
  (List.range words).any (fun i => match codeAddr (ventAt s v) v ((pc + 4 * i) % 2 ^ 32) with
    | none => false
    | some m => (codeLine (ventAt s v) (m / 64 * 64)).isNone && (matLocked (ventMaster v) m s ||
        (!(ventLoc (ventAt s v) v ((pc + 4 * i) % 2 ^ 32)).isLocal && !portRoom s v 1)))

end Sys2Proof.Machine
end

