-- ==== Sys2Proof/Machine/VentEval.lean ====
section
/-! DEFINITION. What one operation of a bundle does, read from the state before the bundle (R144, R145): its faults,
whether its bundle must wait, and the writes it makes when the bundle commits. Machine/VentRun.lean puts the operations
of a bundle together. -/

namespace Sys2Proof.Machine

/-- A write that an operation makes when its bundle commits. `mem`: palette bytes at matrix addresses; `store`: one
block for the store buffer; `load`: a fixed-delay load; `sync`: a far load of Narrow mode, whose reads are made before
anything of its bundle is written; `memNow`: the memory and uncorrectable words that a string operation leaves, and the
addresses it wrote; `fetch`: the lines of a bundle that does not execute (R197); `icinv`, `isync`: R174; `time`: a
reading of TIMEBASE; `draw`: a draw of an open value was used. -/
inductive Eff where
  | regs (ws : List RegW)
  | mem (w : List (Nat × Byte))
  | store (x : SbEntry)
  | load (d : Nat) (ws : List RegW)
  | far (l : FarLoad)
  | sync (l : FarLoad)
  | long (l : LongOp)
  | mts (n : Nat) (w : Word)
  | astat (f : Nat)
  | fp (f : Nat)
  | vl (x : Nat)
  | vres (k : Nat)
  | hold (n : Nat)
  | gobroad
  | pref (block : Nat)
  | flush (blocks : List Nat) (write : Bool)
  | job (bs : List Byte)
  | loop (lvl lbeg lend cnt : Nat)
  | fetch (a words : Nat)
  | memNow (m : List Host.Cell) (bad ws : List Nat)
  | icinv (blocks : List Nat)
  | isync
  | lprog (x : Nat)
  | time (t : DWord)
  | draw
deriving DecidableEq, Repr

/-- What an operation does: fault candidates, whether the bundle waits in issue, writes, a taken branch's target, a
return (true for RETM), a trap (cause, N), whether a resumable operation stopped at a boundary, and the far load of Narrow
mode that a cause 10 reports. -/
structure OpRes where
  faults : List VFault := []
  wait : Bool := false
  effs : List Eff := []
  target : Option Nat := none
  ret : Option Bool := none
  trap : Option (Nat × Nat) := none
  stop : Bool := false
  made : Option FarLoad := none
deriving DecidableEq, Repr

/-- What operations read: the state, the vent's number and registers before the bundle, the bundle's address and length
in words. -/
structure Ctx where
  s : State
  v : Nat
  vt : Vent
  pc : Nat
  words : Nat

/-- The level under which the bundle runs. -/
def Ctx.lvl (c : Ctx) : Nat := ventLevel c.vt

/-- Whether the bundle runs in Narrow mode. -/
def Ctx.narrow (c : Ctx) : Bool := ventNarrow c.vt

/-- An operation with its encoding and its stopping point. -/
structure BOp where
  k : OpKind
  e : OpEnc
  stop : Option Nat
deriving DecidableEq, Repr

/-! ### Addresses -/

/-- The address a specifier gives, the update of An, and the fault of an invalid circular buffer (R181 to R183). `sz`:
bytes that modes 1 and 2 step; `dsp`, `abs`: units of modes 0 and 7. -/
def specAddr (vt : Vent) (sp sz dsp abs : Nat) : Nat × List RegW × List VFault :=
  let n := spReg sp
  let an := gp vt n
  let mm := gp vt (16 + spExt sp % 8)
  let up := fun (x : Nat) => [RegW.gpr n (BitVec.ofNat 32 x)]
  match spMode sp with
  | 0 => (unsgn 32 ((an : Int) + sgn 8 (spExt sp) * (dsp : Int)), [], [])
  | 1 => (an, up (an + sz), [])
  | 2 => let a := unsgn 32 ((an : Int) - sz); (a, up a, [])
  | 3 => ((an + mm) % 2 ^ 32, [], [])
  | 4 => (an, up (an + mm), [])
  | 5 =>
    let cl := (fget 0 vt.loop.cl n).toNat
    let cb := (fget 0 vt.loop.cb n).toNat
    if 16 ≤ cl && cl ≤ 262144 && (cl &&& (cl - 1)) == 0 && cb % cl == 0 then
      (an, up (cb ||| ((an + mm) % 2 ^ 32 &&& (cl - 1))), [])
    else (an, [], [⟨50, 5, an⟩])
  | 6 => (an, up (revBits 32 ((revBits 32 an + revBits 32 mm) % 2 ^ 32)), [])
  | _ => (nbits sp 11 0 * abs, [], [])

/-- Cause 6 of an access to caldera memory: a byte in a context cache area, by whatever path (R135), or a store to a byte in
a write-protected range (R332). -/
def calFaults (c : Ctx) (k : Acc) (a n : Nat) : List VFault :=
  let hit (x : Nat) : Bool := inCacheArea c.s (ventLoc c.vt c.v x) || match ventLoc c.vt c.v x with
    | .cal o => k == .wr && calProt c.s (c.v / 8) o
    | _ => false
  match (List.range n).find? (fun i => hit ((a + i) % 2 ^ 32)) with
  | some i => [⟨52, 6, (a + i) % 2 ^ 32⟩]
  | none => []

/-- One part of a load, within a block: its vent address, length, destination byte, and the element it belongs to. -/
structure LPart where
  va : Nat
  len : Nat
  dst : Nat := 0
  elem : Nat := 0
deriving DecidableEq, Repr

/-- Whether a load from a vent address checks the store buffer (R167). -/
def checksBuffer : VLoc → Bool
  | .cal _ => true
  | .far _ cache => cache
  | _ => false

/-- What the store buffer holds of a load as a whole (R167): the entry with every byte of it, and whether the bundle must
wait for an entry with only some. -/
def loadBuffer (c : Ctx) (qs : List LPart) : Option SbEntry × Bool :=
  let at_ (q : LPart) : List Nat :=
    (List.range q.len).map (fun i => localAddr c.v (ventLoc c.vt c.v q.va) + i)
  let chk := qs.filter (fun q => checksBuffer (ventLoc c.vt c.v q.va))
  if chk.isEmpty then (none, false)
  else match sbWhole (chk.flatMap at_) c.vt.fl.sbuf.reverse with
    | (some x, _) => if (qs.flatMap at_).all (fun a => fhas x.bytes a) then (some x, false) else (none, true)
    | r => r

/-- The machine check of operand parts `ps` of a load of parts `qs` (R239): FADDR is the first failing word. A load that takes
its bytes from the store buffer reads no memory, and one that waits for the buffer is checked once that has drained (R167). -/
def operandFaults (c : Ctx) (qs ps : List LPart) : List VFault :=
  if loadBuffer c qs ≠ (none, false) then []
  else (ps.filterMap (fun q =>
    let loc := ventLoc c.vt c.v q.va
    let m := localAddr c.v loc
    if loc.isLocal && badIn c.s m q.len then some (VFault.mk 30 49 ((q.va / 4 + badWord c.s m q.len) * 4 % 2 ^ 32)) else none)).take 1

/-- The machine check of a load of n bytes at one address. -/
def oneOperand (c : Ctx) (a n : Nat) : List VFault := operandFaults c [{ va := a, len := n }] [{ va := a, len := n }]

/-- The faults of an aligned access of n bytes (R184, R243). `own`: only palette and caldera memory are admitted (R161). -/
def accFaults (c : Ctx) (k : Acc) (a n : Nat) (own : Bool) : List VFault :=
  if a % n ≠ 0 then [⟨50, 5, a⟩]
  else
    let loc := ventLoc c.vt c.v a
    let f := byteFaults c.vt c.v c.lvl a k ++ (if own && !loc.isLocal then [⟨52, 6, a⟩] else []) ++ calFaults c k a n
    if !f.isEmpty then f
    else if k = .rd then oneOperand c a n
    else []

/-! ### Loads and stores -/

/-- The store buffer entry of part of a block. -/
def entryFor (c : Ctx) (loc : VLoc) (va ma : Nat) (bs : List Byte) : SbEntry :=
  { block := ma / 64 * 64, bytes := addrBytes ma bs, level := BitVec.ofNat 2 c.lvl, vaddr := va, seq := c.vt.fl.seq,
    far := !loc.isLocal, cache := (match loc with
      | .far _ k => k
      | _ => false) }

/-- The writes of bytes at a vent address whose parts by block each lie in one place (R166). DESIGN CHOICE: a store to the
device registers enters the store buffer and merges by block as one to a far window does (notes/assumptions/53.md). -/
def storeAt (c : Ctx) (a : Nat) (bs : List Byte) : List Eff :=
  (blocksOf (bs.length / 64 + 2) a bs.length).map (fun p =>
    let part := slice bs (p.1 - a) p.2
    match ventLoc c.vt c.v p.1 with
    | .pal o => Eff.mem (addrBytes (palBase c.v + o) part)
    | l => Eff.store (entryFor c l p.1 (localAddr c.v l) part))

/-- What a part of a load finds at issue: its bytes, or an access to the matrix. -/
inductive PartLoad where
  | got (bs : List Byte) | out (p : FarPiece)
deriving DecidableEq, Repr

/-- The bytes of n addresses in a store buffer entry that holds them all. -/
def entryBytes (x : SbEntry) (a n : Nat) : List Byte := (List.range n).map (fun i => fget 0 x.bytes (a + i))

/-- One part of a load, with the store buffer entry that holds all of the load, if one does (R167, R168, R170). -/
def partLoad (c : Ctx) (sb : Option SbEntry) (q : LPart) : PartLoad :=
  let out (ma : Nat) (k : Bool) : PartLoad :=
    .out { maddr := ma, len := q.len, dst := q.dst, vaddr := q.va, elem := q.elem, cache := k }
  match ventLoc c.vt c.v q.va, sb with
  | .pal o, _ => .got (getMem c.s (palBase c.v + o) q.len)
  | .cal o, some x => .got (entryBytes x (calBase (c.v / 8) + o) q.len)
  | .cal o, none => .got (getMem c.s (calBase (c.v / 8) + o) q.len)
  | .far ma true, some x => .got (entryBytes x ma q.len)
  | .far ma true, none => (match dcLook c.vt.fl.dcache ma q.len with
    | some bs => .got bs
    | none => out ma true)
  | .far ma false, _ => out ma false
  | .dev ma, _ => out ma false
  | .none, _ => .got (List.replicate q.len 0)

/-- The writes of bytes of a V register from byte `dst` on; past VLENB they go to the next register. -/
def vBytesW (vl n dst : Nat) (bs : List Byte) : List RegW :=
  let one (d : Nat) (xs : List Byte) : List RegW :=
    if xs.isEmpty then []
    else [.vreg (n + d / vl) (BitVec.ofNat 512 (leNat xs <<< (8 * (d % vl))))
      (BitVec.ofNat 512 ((2 ^ (8 * xs.length) - 1) <<< (8 * (d % vl))))]
  let k := vl - dst % vl
  one dst (bs.take k) ++ one (dst + k) (bs.drop k)

/-- The writes that loaded bytes make (R188): extension for a scalar register, zero-fill for an F register. -/
def destW (vl : Nat) (d : FarDest) (dst : Nat) (bs : List Byte) : List RegW :=
  match d with
  | .gpr n w signed => [.gpr n (BitVec.ofNat 32 (if signed then sext32 (8 * w) (leNat bs) else leNat bs))]
  | .freg n _ => [fregW n (leNat bs)]
  | .vreg n => vBytesW vl n dst bs

/-- One far piece's response: code, bytes, and the state after the access; a cacheable miss reads and allocates its
line (R170). A read that its island had accepted before the island's gating began is served there; one that the island has
ended receives DOMAIN_OFF, whatever the island's power is by now (R277). -/
def farPiece (s : State) (v : Nat) (p : FarPiece) : RespCode × List Byte × State :=
  if p.ended then (.domainOff, List.replicate p.len 0, s)
  else
  let read (a n : Nat) : RespCode × List Byte × State :=
    if p.accepted then
      let c := (List.range 12).find? (fun c => inIsland c p.maddr)
      let (code, bs, _) := matRead (ventMaster v) a n (updCal s (c.getD 12) (fun x => { x with power := .on }))
      (code, bs, s)
    else matRead (ventMaster v) a n s
  if p.cache then
    let b := p.maddr / 64 * 64
    let (code, bs, s1) := read b 64
    if code = .okay then (code, slice bs (p.maddr - b) p.len, dcAlloc s1 v b bs) else (code, [], s1)
  else read p.maddr p.len

/-- The deferred-fault entry of a load's piece (R238), with n handlers under way: it waits where one of them has been entered
since the load issued (R246). -/
def loadDefer (n : Nat) (l : FarLoad) (p : FarPiece) (code : RespCode) : DeferEntry :=
  { kind := deferKind code, store := false, level := l.level, addr := BitVec.ofNat 32 p.vaddr,
    wait := if l.depth < n then some l.depth else none,
    vec := (match l.dest with
      | .gpr .. => false
      | _ => true),
    reg := (match l.dest with
      | .gpr n _ _ => BitVec.ofNat 5 n
      | .freg n _ => BitVec.ofNat 5 n
      | .vreg n => BitVec.ofNat 5 n) }

/-- Whether a far load's accesses can be made now: uncached ones wait for the store buffer (R168), and all for a locked
target port, their own or that of a line they could evict (R264). -/
def farBlocked (s : State) (v : Nat) (l : FarLoad) : Bool :=
  (l.pieces.any (fun p => !p.cache) && (ventAt s v).fl.sbuf.any (fun x => decide (x.seq < l.seq))) ||
  l.pieces.any (fun p => matLocked (ventMaster v) p.maddr s || (p.cache && evictBlocked s v p.maddr))

/-- The accesses of a far load: each piece's code and bytes, with what the load kept of them (R144), and the state after. -/
def farReads (s : State) (v : Nat) (l : FarLoad) : List (FarPiece × RespCode × List Byte) × State :=
  l.pieces.foldl (fun (r : List (FarPiece × RespCode × List Byte) × State) p =>
    let (code, bs, s1) := farPiece r.2 v p
    let own := (List.range bs.length).map (fun i => match ffind l.kept (p.maddr + i) with
      | some x => x
      | none => bs.getD i 0)
    (r.1 ++ [(p, code, own)], s1)) ([], s)

/-- The bits of a V or K register that a list of writes covers. -/
def coveredV (n : Nat) (ws : List RegW) : BitVec 512 := ws.foldl (fun m w => match w with
  | .vreg k _ x => if k = n then m ||| x else m
  | _ => m) 0

/-- A list of writes without what `later` writes too: the later writer of a bundle prevails (R144). -/
def lessWrites (later ws : List RegW) : List RegW :=
  if later.isEmpty then ws
  else ws.filterMap (fun w => match w with
    | .gpr n _ => if later.any (fun x => match x with
        | .gpr k _ => k == n
        | _ => false) then none else some w
    | .vreg n x m => some (.vreg n x (m &&& ~~~coveredV n later))
    | _ => some w)

/-- The responses of a far load: the writes of every element whose pieces all succeed, the deferred-fault entries of the
pieces that fail, and the state after the accesses (R209, R211, R237). -/
def farOutcome (s : State) (v : Nat) (l : FarLoad) : List RegW × List DeferEntry × State :=
  let (rs, s1) := farReads s v l
  let bad := rs.filter (fun r => r.2.1 != .okay)
  let whole (e : Nat) : Bool := !bad.any (fun r => r.1.elem == e)
  (lessWrites l.later ((l.ready.filter (fun x => whole x.1)).flatMap (fun x => destW (vlenb s) l.dest x.2.1 x.2.2) ++
    (rs.filter (fun r => whole r.1.elem)).flatMap (fun r => destW (vlenb s) l.dest r.1.dst r.2.2)),
    bad.map (fun r => loadDefer (ventAt s v).fl.handlers.length l r.1 r.2.1), s1)

/-- A far load's responses arrive: its elements are written, its failures deferred (R162, R237). -/
def farLand (s : State) (v : Nat) (l : FarLoad) : State :=
  let (ws, ds, s1) := farOutcome s v l
  updVent s1 v (fun vt => ds.foldl deferAdd (writeRegs ws vt))

/-- The effects of a load of parts with delay d (R157, R162, R167). Bytes found at issue of an element that has others to
fetch are written with them. -/
def loadParts (c : Ctx) (d : Nat) (dest : FarDest) (qs : List LPart) : OpRes :=
  let (sb, waits) := loadBuffer c qs
  let got := qs.map (fun q => (q, partLoad c sb q))
  let outs := got.filterMap (fun x => match x.2 with
    | .out p => some p
    | _ => none)
  let open_ (e : Nat) : Bool := outs.any (fun p => p.elem == e)
  let ws := got.flatMap (fun x => match x.2 with
    | .got bs => if open_ x.1.elem then [] else destW (vlenb c.s) dest x.1.dst bs
    | _ => [])
  let ready := got.filterMap (fun x => match x.2 with
    | .got bs => if open_ x.1.elem then some (x.1.elem, x.1.dst, bs) else none
    | _ => none)
  let fixed := qs.all (fun q => (ventLoc c.vt c.v q.va).isLocal)
  let imm := if ws.isEmpty then [] else if fixed && !c.narrow then [Eff.load d ws] else [Eff.regs ws]
  let l : FarLoad := { dest := dest, pieces := outs, ready := ready, level := BitVec.ofNat 2 c.lvl, seq := c.vt.fl.seq,
                       depth := c.vt.fl.handlers.length }
  if outs.isEmpty then { wait := waits, effs := imm }
  else
    let full := !portRoom c.s c.v l.bursts
    if c.narrow then
      -- R145: the responses come before the bundle commits; a failure is a fault of this bundle
      let stays := waits || full || (outs.any (fun p => !p.cache) && !c.vt.fl.sbuf.isEmpty) || farBlocked c.s c.v l
      match outs.find? (fun p => (farPiece c.s c.v p).1 != .okay) with
      | some p => { wait := stays || !c.vt.fl.sbuf.isEmpty, faults := [⟨70, 10, p.vaddr⟩], made := some l }
      | none => { wait := stays, effs := imm ++ [.sync l] }
    else { wait := waits || full, effs := imm ++ [.far l] }

/-! ### Operands of formats R and M -/

/-- A source operand's value, faults, wait, and An update. -/
structure SrcRes where
  val : Nat := 0
  faults : List VFault := []
  wait : Bool := false
  upds : List RegW := []
deriving DecidableEq, Repr

/-- The value of a source operand (R177): a register, an immediate, or memory of w bits extended to 32. -/
def srcOpnd (c : Ctx) (sz : Nat) (signed : Bool) (o : Opnd) : SrcRes :=
  match o with
  | .absent => {}
  | .reg n => { val := gp c.vt n }
  | .spec sp =>
    if spMode sp = 8 then { val := unsgn 32 (spImm sp) }
    else
      let (a, upds, f) := specAddr c.vt sp sz sz sz
      if !f.isEmpty then { faults := f }
      else
        let g := accFaults c .rd a sz true
        if !g.isEmpty then { faults := g }
        else match readLocal c.s c.vt c.v (ventLoc c.vt c.v a) sz with
          | none => { wait := true }
          | some bs => { val := if signed then sext32 (8 * sz) (leNat bs) else leNat bs, upds := upds }

/-- Operations that write a predicate. -/
def opIsCmp : OpKind → Bool
  | .cmpeq | .cmpne | .cmplt | .cmpltu | .cmple | .cmpleu | .tst => true
  | _ => false

/-- Divisions. -/
def opIsDiv : OpKind → Bool
  | .div | .divu | .rem | .remu => true
  | _ => false

/-- The result of a long operation: outstanding in Broad mode, written at once in Narrow mode (R145, R162). -/
def longEff (c : Ctx) (ws : List RegW) (flags : Nat) : List Eff :=
  if c.narrow then [.regs ws, .fp flags] else [.long { writes := ws, flags := BitVec.ofNat 5 flags }]

/-- Operations of formats R and M on scalar operands: S, AG and X (R177, R184, R188, R191). -/
def evalRm (c : Ctx) (k : OpKind) (e : OpEnc) : OpRes :=
  let ((d, ao, bo), _) := opOperands k e
  let sz := 2 ^ fSZ e
  let a := srcOpnd c sz (opSigned k) ao
  let b := srcOpnd c sz (opSigned k) bo
  let isS := e.cls.toNat < 2
  let fl := fun (f : Nat) => if isS && f != 0 then [Eff.astat f] else []
  let upd := fun (u : List RegW) => if u.isEmpty then [] else [Eff.regs u]
  if opIsDiv k then
    if b.val = 0 && c.vt.astat.getLsbD 8 then
      { faults := a.faults ++ b.faults ++ [⟨60, 8, 0⟩], wait := a.wait || b.wait }
    else
      let (q, f) := divOp k a.val b.val
      { faults := a.faults ++ b.faults, wait := a.wait || b.wait,
        effs := upd (a.upds ++ b.upds) ++ (if f = 0 then [] else [.astat f]) ++
          longEff c [.gpr (fD e) (BitVec.ofNat 32 q)] 0 }
  else if opIsCmp k then
    { faults := a.faults ++ b.faults, wait := a.wait || b.wait,
      effs := [.regs (a.upds ++ b.upds ++ [.pred (fD e) (cmpOp k a.val b.val)])] }
  else match d with
  | .spec sp =>
    let (da, du, df) := specAddr c.vt sp sz sz sz
    let wf := if df.isEmpty then accFaults c .wr da sz true else df
    let old := if k = .ins && wf.isEmpty then srcOpnd c sz false d else {}
    let (r, f) := aluOp k (8 * sz) a.val b.val old.val
    { faults := wf ++ old.faults ++ a.faults ++ b.faults, wait := a.wait || b.wait || old.wait,
      effs := upd (du ++ a.upds ++ b.upds) ++ storeAt c da (leBytes sz r) ++ fl f }
  | _ =>
    let (r, f) := aluOp k 32 a.val b.val (gp c.vt (fD e))
    { faults := a.faults ++ b.faults, wait := a.wait || b.wait,
      effs := [.regs (a.upds ++ b.upds ++ [.gpr (fD e) (BitVec.ofNat 32 r)])] ++ fl f }

/-- The fault of an enabled floating-point exception (R220): flags, lowest element, slot. -/
def fpTrap (cls flags elem : Nat) : VFault :=
  ⟨61, 9, flags + elem * 256 + (if cls = 5 then 0 else if cls = 6 then 1 else 2) * 65536⟩

/-- FDIV and FSQRT (R216, R219, R220). -/
def evalFlong (c : Ctx) (k : OpKind) (e : OpEnc) : OpRes :=
  let f := fmtOf (fSZ e)
  let x := fun (n : Nat) => vReg c.vt n % 2 ^ f.width
  let (r, fl) := fpOp k f (fctl c.vt) 0 (x (fA e)) (x (fB e))
  let en := fpEnables c.vt
  if en &&& fl != 0 then { faults := [fpTrap 7 fl 0] }
  else if en != 0 then { effs := [.regs [fregW (fD e) r], .fp fl] }
  else { effs := longEff c [fregW (fD e) r] fl }

/-- The vent addresses at which a matrix block appears through the windows (R259). -/
def windowVas (vt : Vent) (b : Nat) : List Nat :=
  (List.range 4).filterMap (fun k =>
    let w := fget 0 vt.winbase k
    let base := wbits w 31 12 * 0x10000000
    if wbits w 0 0 = 1 ∧ base ≤ b ∧ b < base + 0x10000000 then some (0x40000000 + k * 0x10000000 + (b - base)) else none)

/-- Whether the line at a vent address touches [a, a + n). -/
def lineTouches (a n va : Nat) : Bool :=
  decide (n ≠ 0) && (decide ((va + 2 ^ 32 - a) % 2 ^ 32 < n) || decide ((a + 2 ^ 32 - va) % 2 ^ 32 < 64))

/-- The blocks of the D-cache that the lines of [a, a + n) reach through the windows (R171, R259). -/
def rangeBlocks (vt : Vent) (a n : Nat) : List Nat :=
  (vt.fl.dcache.map (fun l => l.block)).filter (fun b => (windowVas vt b).any (lineTouches a n))

/-- The blocks of the I-cache that the lines of [a, a + n) reach, in caldera memory or through the windows (R174). -/
def codeBlocks (vt : Vent) (v a n : Nat) : List Nat :=
  (vt.fl.icache.map (fun l => l.block)).filter (fun b =>
    (windowVas vt b ++ (if calBase (v / 8) ≤ b ∧ b < calBase (v / 8) + 0x400000 ∧ v ≠ mvNum then
      [0x100000 + (b - calBase (v / 8))] else [])).any (lineTouches a n))

/-- DCINV below M needs write permission on every line (R243); regions are multiples of 4 KiB. -/
def dcinvFaults (c : Ctx) (a n : Nat) : List VFault :=
  if c.lvl = 3 || n = 0 then []
  else
    let pts := a :: ((List.range (n / 4096 + 1)).map (fun i => (a / 4096 + i + 1) * 4096)).filter (fun x => decide (x < a + n))
    match (pts.map (fun p => byteFaults c.vt c.v c.lvl (p % 2 ^ 32) .wr)).find? (fun f => !f.isEmpty) with
    | some f => f
    | none => []

/-- JR, JRL, the cache operations, FDIV and FSQRT. -/
def evalR (c : Ctx) (k : OpKind) (e : OpEnc) : OpRes :=
  let a := gp c.vt (fA e)
  let b := gp c.vt (fB e)
  match k with
  | .jr | .jrl =>
    if a % 4 ≠ 0 then { faults := [⟨50, 5, a⟩] }
    else { target := some a,
           effs := if k = .jrl then [.regs [.gpr 15 (BitVec.ofNat 32 (c.pc + 4 * c.words))]] else [] }
  | .dcflush =>
    let bl := rangeBlocks c.vt a b
    { wait := c.vt.fl.dcache.any (fun l => l.dirty && bl.contains l.block &&
        (matLocked (ventMaster c.v) l.block c.s || !portRoom c.s c.v 1)),
      effs := [.flush bl true] }
  | .dcinv => { faults := dcinvFaults c a b, effs := [.flush (rangeBlocks c.vt a b) false] }
  | .icinv => { effs := [.icinv (codeBlocks c.vt c.v a b)] }
  | _ => evalFlong c k e

/-- The VJOB register of vent v (R168). -/
def vjobAddr (v : Nat) : Nat := 0x90000000 + v / 8 * 0x100000 + v % 8 * 0x1000 + 0x40

/-- 64 bytes of V register n: with VLENB 32 the second half is register n + 1. -/
def vldlBytes (c : Ctx) (n : Nat) : List Byte :=
  if vlenb c.s = 64 then leBytes 64 (vReg c.vt n) else leBytes 32 (vReg c.vt n) ++ leBytes 32 (vReg c.vt (n + 1))

/-- The faults of VLDL and VSTL: a 64-byte block, never in the device registers (R188, R211, R257). -/
def blockFaults (c : Ctx) (k : Acc) (a : Nat) : List VFault :=
  let f := accFaults c k a 64 false
  if !f.isEmpty then f
  else match ventLoc c.vt c.v a with
    | .dev _ => [⟨52, 6, a⟩]
    | _ => []

/-- The operations of format M in slots LS0 and LS1 (R157, R162, R166, R168, R188). The size that modes 1 and 2 step by, and
the unit of modes 0 and 7, are 64 for VLDL and VSTL, for which the spec states none (notes/assumptions/10.md). DESIGN CHOICE: an
LD, LDS or LDF of mode 8 takes the low w bits of the immediate and extends them as a load does (notes/assumptions/10.md); a
PREF that R183 would fault does nothing at all, and one outside a cacheable far window steps An and does nothing else
(notes/assumptions/11.md). -/
def evalM (c : Ctx) (k : OpKind) (e : OpEnc) : OpRes :=
  let ((d, a, _), _) := opOperands k e
  let o := if k = .st || k = .stf || k = .vstl then d else a
  let sp := match o with
    | .spec x => x
    | _ => 0
  let sz := if k = .vldl || k = .vstl then 64 else 2 ^ fSZ e
  let (addr, upds, bad) := specAddr c.vt sp sz sz sz
  let up := if upds.isEmpty then [] else [Eff.regs upds]
  let imm := spMode sp == 8
  let iv := unsgn (8 * sz) (spImm sp)
  let delay := match ventLoc c.vt c.v addr with
    | .pal _ => 2
    | _ => 5
  let fin := fun (dest : FarDest) (parts : List LPart) (faults : List VFault) =>
    if imm then
      { effs := [Eff.regs [match dest with
          | .gpr n w s => .gpr n (BitVec.ofNat 32 (if s then sext32 (8 * w) iv else iv))
          | .freg n _ => fregW n iv
          | .vreg n => .vreg n (BitVec.ofNat 512 iv) (BitVec.allOnes 512)]] }
    else if !(bad ++ faults).isEmpty then { faults := if bad.isEmpty then faults else bad }
    else
      let r := loadParts c delay dest parts
      { r with effs := up ++ r.effs }
  match k with
  | .ld | .lds => fin (.gpr (fD e) sz (k == .lds)) [{ va := addr, len := sz }] (accFaults c .rd addr sz false)
  | .ldf => fin (.freg (fD e) sz) [{ va := addr, len := sz }] (accFaults c .rd addr sz false)
  | .vldl => fin (.vreg (fD e)) [{ va := addr, len := 64 }] (blockFaults c .rd addr)
  | .st | .stf =>
    let x := if k = .st then gp c.vt (fD e) else vReg c.vt (fD e) % 2 ^ 64
    let f := if bad.isEmpty then accFaults c .wr addr sz false else bad
    { faults := f, effs := up ++ storeAt c addr (leBytes sz x) }
  | .vstl =>
    if !bad.isEmpty then { faults := bad }
    else if ventLoc c.vt c.v addr = .dev (vjobAddr c.v) && addr % 64 = 0 then
      { faults := accFaults c .wr addr 64 false, wait := !c.vt.fl.sbuf.isEmpty,
        effs := up ++ [.job (vldlBytes c (fD e))] }
    else { faults := blockFaults c .wr addr, effs := up ++ storeAt c addr (vldlBytes c (fD e)) }
  | _ =>
    if imm || !bad.isEmpty then {}
    else match ventLoc c.vt c.v addr with
      | .far ma true =>
        { wait := !c.vt.fl.dcache.any (fun l => l.block == ma / 64 * 64) &&
            (matLocked (ventMaster c.v) (ma / 64 * 64) c.s || evictBlocked c.s c.v ma || !portRoom c.s c.v 1), effs := up ++ [.pref (ma / 64 * 64)] }
      | _ => { effs := up }

/-! ### Branches, loops, predicates, system operations -/

/-- Operations of format L and B (R188, R189). -/
def evalLB (c : Ctx) (k : OpKind) (e : OpEnc) : OpRes :=
  let link := [Eff.regs [.gpr 15 (BitVec.ofNat 32 (c.pc + 4 * c.words))]]
  let t := unsgn 32 ((c.pc : Int) + (match k with
    | .br | .brl => 4 * sgn 17 e.lo.toNat
    | _ => sgn 32 (hiw e)))
  match k with
  | .movi => { effs := [.regs [.gpr (fD e) (BitVec.ofNat 32 (hiw e))]] }
  | .addi => { effs := [.regs [.gpr (fD e) (BitVec.ofNat 32 (gp c.vt (fD e) + hiw e))]] }
  | .br | .brf => { target := some t }
  | _ => { target := some t, effs := link }

/-- LOOP (R197). A count of 0 fetches the bundle at LEND, once that can be done, and continues at the one after it. -/
def evalLoop (c : Ctx) (e : OpEnc) : OpRes :=
  let lbeg := (c.pc + 4 * fld e 31 23) % 2 ^ 32
  let lend := (c.pc + 4 * fldH e 47 32) % 2 ^ 32
  let cnt := if fld e 22 22 = 1 then fldH e 63 48 else gp c.vt (fld e 21 17)
  let set := Eff.loop (fld e 16 15) lbeg lend cnt
  if cnt = 0 then
    let n := bundleLen c.s c.v 8 lend 0
    { wait := fetchBlocked c.s c.v lend n
      effs := [set, .fetch lend n]
      target := some ((lend + 4 * n) % 2 ^ 32) }
  else { effs := [set] }

/-- The fault of an operation or register refused by level (R224, R180). -/
def lvlFault (c : Ctx) (ok : Bool) : List VFault := if ok then [] else [⟨40, 6, c.pc⟩]

/-- MTS and MFS (R180). A running hold's COUNT is between 1 and what was granted; which is left open. -/
def evalS (c : Ctx) (k : OpKind) (e : OpEnc) : OpRes :=
  let n := fld e 31 22
  let (rl, wl) := sregLevels n
  if k = .mts then
    { faults := lvlFault c (wl == 4 || decide (wl ≤ c.lvl)),
      effs := if wl = 4 then [] else [.mts n (BitVec.ofNat 32 (gp c.vt (fD e)))] }
  else
    let f := lvlFault c (decide (rl ≤ c.lvl))
    let put := fun (x : Nat) => Eff.regs [.gpr (fD e) (BitVec.ofNat 32 x)]
    if n = 0x0E then
      let t := (localTime c.s (islandOf c.v)).1
      { faults := f, effs := [put (t.toNat % 2 ^ 32), .time t] }
    else if n = 0x09 then
      let cnt := c.vt.hold.count.toNat
      let x := if cnt = 0 then 0 else 1 + (drawFree c.s).1 % cnt
      { faults := f, effs := [put (x + 4096 * c.vt.hold.budget.toNat + 2 ^ 24 * b2n c.vt.hold.ovr), .draw] }
    else { faults := f, effs := [put (sregRead c.s c.vt n)] }

/-- System operations of formats I and N in AG, and FENCE (R147, R169, R224, R231, R232, R235, R238). -/
def evalSys (c : Ctx) (k : OpKind) (e : OpEnc) : OpRes :=
  let fl := c.vt.fl
  match k with
  | .syscall => { trap := some (11, fld e 28 17) }
  | .brk => { trap := some (12, fld e 28 17) }
  | .hold => { faults := lvlFault c (c.lvl != 0), effs := [.hold (fld e 28 17)] }
  | .retm => { faults := lvlFault c (c.lvl == 3), ret := some true }
  | .rets => { faults := lvlFault c (c.lvl != 0), ret := some false }
  | .gobroad => { faults := lvlFault c (c.lvl == 3), effs := [.gobroad] }
  | .barrier =>
    { wait := !(fl.far.isEmpty && fl.longs.isEmpty && fl.sbuf.isEmpty && fl.farWrites.isEmpty),
      faults := if fl.deferq.isEmpty then [] else [⟨70, 10, (fl.deferq.headD {}).addr.toNat⟩] }
  | .fence => { wait := !fl.sbuf.isEmpty }
  | .isync => { effs := [.isync] }
  | _ => {}

/-- A predicate register. -/
def predBit (vt : Vent) (n : Nat) : Bool := n == 0 || vt.pred.getLsbD n

/-- PAND, POR, PXOR (R186). -/
def evalP (c : Ctx) (k : OpKind) (e : OpEnc) : OpRes :=
  let a := predBit c.vt (fld e 20 18) != (fld e 21 21 == 1)
  let b := predBit c.vt (fld e 24 22) != (fld e 25 25 == 1)
  { effs := [.regs [.pred (fld e 17 15) (predOp k a b)]] }

/-! ### String operations -/

/-- The faults of an element at each of its addresses (R195). -/
def elemFaults (c : Ctx) (k : OpKind) (sz d a j : Nat) : List VFault :=
  let wr := k == .movs || k == .fils
  let two := k == .movs || k == .cmps
  accFaults c (if wr then .wr else .rd) ((d + j * sz) % 2 ^ 32) sz true ++
  (if two then accFaults c .rd ((a + j * sz) % 2 ^ 32) sz true else [])

/-- The first refused element below n, from j on. -/
def firstFault (c : Ctx) (k : OpKind) (sz d a : Nat) : Nat → Nat → Option Nat
  | 0, _ => none
  | n + 1, j => if (elemFaults c k sz d a j).isEmpty then firstFault c k sz d a n (j + 1) else some j

/-- An element's value in memory. -/
def elemVal (s : State) (c : Ctx) (a sz : Nat) : Nat :=
  leNat (getMem s (localAddr c.v (ventLoc c.vt c.v (a % 2 ^ 32))) sz)

/-- n elements of MOVS or FILS from element j on, one at a time in ascending order (R193, R196). -/
def strCopy (c : Ctx) (k : OpKind) (sz d a : Nat) : Nat → Nat → State → State
  | 0, _, s => s
  | n + 1, j, s =>
    let x := if k = .movs then elemVal s c (a + j * sz) sz else a % 2 ^ (8 * sz)
    strCopy c k sz d a n (j + 1) (putDie s
      (addrBytes (localAddr c.v (ventLoc c.vt c.v ((d + j * sz) % 2 ^ 32))) (leBytes sz x)))

/-- The first element below n, from j on, at which CMPS or SCNS ends. -/
def strScan (c : Ctx) (k : OpKind) (sz d a : Nat) : Nat → Nat → Option Nat
  | 0, _ => none
  | n + 1, j =>
    let x := elemVal c.s c (d + j * sz) sz
    let hit := match k with
      | .cmps => x != elemVal c.s c (a + j * sz) sz
      | .scnsEq => x == a % 2 ^ (8 * sz)
      | _ => x != a % 2 ^ (8 * sz)
    if hit then some j else strScan c k sz d a n (j + 1)

/-- Whether an asynchronous event is there to stop a resumable operation at a boundary of its own, in a shadow bundle too
(R165, R234, R249). -/
def asyncWaits (c : Ctx) : Bool := (pendingAsync c.s c.v).isSome

/-- MOVS, FILS, CMPS and SCNS (R193 to R196). `stop`: elements after which an asynchronous event stops it. -/
def evalX (c : Ctx) (k : OpKind) (e : OpEnc) (stop : Option Nat) : OpRes :=
  let sz := 2 ^ fSZ e
  let cn := 24 + fld e 18 17
  let rd := fld e 22 19
  let ra := fld e 26 23
  let cnt := gp c.vt cn
  let d := gp c.vt rd
  let a := gp c.vt ra
  let two := k == .movs || k == .cmps
  let al := (if d % sz ≠ 0 then [VFault.mk 50 5 d] else []) ++ (if two && a % sz ≠ 0 then [VFault.mk 50 5 a] else [])
  let regs := fun (n : Nat) => [RegW.gpr cn (BitVec.ofNat 32 (cnt - n)), RegW.gpr rd (BitVec.ofNat 32 (d + n * sz))] ++
    (if two then [RegW.gpr ra (BitVec.ofNat 32 (a + n * sz))] else [])
  let step := if sz = 4 then 1 else 4 / sz
  let bad := firstFault c k sz d a cnt 0
  -- where an asynchronous event stops it: a boundary below the count
  let evt : Option Nat := match stop with
    | some n => if asyncWaits c && n % step = 0 && decide (n < cnt) then some n else none
    | none => none
  let refuse := fun (j : Nat) => { faults := elemFaults c k sz d a j, wait := !c.vt.fl.sbuf.isEmpty }
  let done := fun (n : Nat) (stopped : Bool) =>
    if k == .movs || k == .fils then
      let s1 := strCopy c k sz d a n 0 c.s
      let ws := (List.range (n * sz)).map (fun i => localAddr c.v (ventLoc c.vt c.v ((d + i) % 2 ^ 32)))
      { wait := !c.vt.fl.sbuf.isEmpty, stop := stopped, effs := [Eff.memNow s1.mem s1.hbm.badWords ws, .regs (regs n)] }
    else
      let p := if k = .cmps then n == cnt else n != cnt
      { wait := !c.vt.fl.sbuf.isEmpty, stop := stopped,
        effs := [Eff.regs (regs n ++ (if stopped then [] else [.pred (fld e 29 27) p]))] }
  if !al.isEmpty then { faults := al }
  else
    let lim := match bad with
      | some j => j
      | none => cnt
    let hit : Option Nat := if k == .movs || k == .fils then none else strScan c k sz d a lim 0
    -- the elements made, whether it completes there, and the refused element otherwise
    match hit, bad, evt with
    | some n, _, some t => if t ≤ n then done t true else done n false
    | some n, _, none => done n false
    | none, none, some t => done t true
    | none, none, none => done cnt false
    | none, some j, ev =>
      let b := j / step * step
      match ev with
      | some t => if t ≤ b then done t true else if b = 0 then refuse j else done b true
      | none => if b = 0 then refuse j else done b true

/-! ### VKECCAK and VNTT -/

/-- The faults of a palette operand of n bytes aligned to `al` (R222); FADDR holds An, and of a machine check the failing
word (R226). -/
def palOperand (c : Ctx) (a n al : Nat) : List VFault :=
  if a % al ≠ 0 then [⟨50, 5, a⟩]
  else
    let out := match ventLoc c.vt c.v a, ventLoc c.vt c.v (a + n - 1) with
      | .pal _, .pal _ => []
      | _, _ => [VFault.mk 52 6 a]
    let rg := [a, (a + n - 1) % 2 ^ 32].flatMap (fun x => [Acc.rd, Acc.wr].filterMap (fun k =>
      (rgnRefuses c.vt c.lvl x k).map (fun z => VFault.mk (memRank z) z a)))
    if !(out ++ rg).isEmpty then out ++ rg
    else oneOperand c a n

/-- VKECCAK and VNTT (R222, R223). `stop`: the steps completed when an asynchronous event stops it. -/
def evalK (c : Ctx) (k : OpKind) (e : OpEnc) (stop : Option Nat) : OpRes :=
  let a := gp c.vt (fA e)
  let inv := fSUB e == 1
  let op := if k = .vkeccak then 1 else if inv then 3 else 2
  let last := if k = .vkeccak then 24 else 7
  let n := if k = .vkeccak then 200 else 512
  let f := palOperand c a n (if k = .vkeccak then 8 else 64)
  let lp := c.vt.vec.lprog.toNat
  let start := if nbits lp 6 5 = op && nbits lp 4 0 < last then nbits lp 4 0 else 0
  let upto : Nat := match stop with
    | some t => if asyncWaits c && decide (start ≤ t) && decide (t < last) then t else last
    | none => last
  let old := getMem c.s (palBase c.v + a) n
  let new := if upto = start then old
    else if k = .vkeccak then keccakBytes (keccakRounds (upto - start) start (keccakLanes old))
    else nttWrite (nttLayers inv (upto - start) start (nttRead old))
  { faults := f, stop := upto != last,
    effs := [.mem (addrBytes (palBase c.v + a) new), .lprog (if upto = last then 0 else upto + 32 * op)] }

/-! ### Vector and scalar floating-point operations of VA and VB -/

/-- Elements of width w under VL (R203). -/
def vCount (vt : Vent) (w : Nat) : Nat := vt.vec.vl.toNat * 8 / w

/-- The active elements below n (R206). -/
def vActive (vt : Vent) (km n : Nat) : List Nat := (List.range n).filter (fun i => nbit (kReg vt km) i)

/-- The write of bits of a K register, one for each listed element. -/
def kBitsW (n : Nat) (xs : List (Nat × Bool)) : RegW :=
  .kreg n (BitVec.ofNat 64 (xs.foldl (fun a p => a ||| (b2n p.2 <<< p.1)) 0))
    (BitVec.ofNat 64 (xs.foldl (fun a p => a ||| (1 <<< p.1)) 0))

/-- Operand B of element width w as a scalar (R204). -/
def vScalarB (c : Ctx) (e : OpEnc) (w : Nat) : Nat :=
  if fBX e then unsgn w (sgn 32 (gp c.vt (fB e))) else unsgn w (sgn 16 (fIMM e))

/-- Vector floating-point operations: results, flags and traps over the active elements (R216 to R220). -/
def evalVF (c : Ctx) (k : OpKind) (e : OpEnc) : OpRes :=
  let act := vActive c.vt (fKM e) (vCount c.vt 32)
  let el := fun (n i : Nat) => elemAt (vReg c.vt n) 32 i
  let one := fun (i : Nat) => match k with
    | .vfcvt => fcvtOp fmt32 (fctl c.vt) (fSUB e) (el (fA e) i)
    | .vfsgn => (fsgnOp fmt32 (fSUB e) (el (fA e) i) (el (fB e) i), 0)
    | .vfcmp => let (b, f) := fcmpOp (fSUB e) (fdec fmt32 (el (fA e) i)) (fdec fmt32 (el (fB e) i)); (b2n b, f)
    | _ => fpOp k fmt32 (fctl c.vt) (el (fD e) i) (el (fA e) i) (el (fB e) i)
  let rs := act.map (fun i => (i, one i))
  let flags := rs.foldl (fun a p => a ||| p.2.2) 0
  match rs.find? (fun p => p.2.2 &&& fpEnables c.vt != 0) with
  | some p => { faults := [fpTrap e.cls.toNat flags p.1] }
  | none =>
    let w := if k = .vfcmp then kBitsW (fD e) (rs.map (fun p => (p.1, p.2.1 == 1)))
      else elemsW (fD e) 32 (rs.map (fun p => (p.1, p.2.1)))
    { effs := [.regs [w]] ++ (if flags = 0 then [] else [.fp flags]) }

/-- Scalar floating-point operations of VA and VB (R216 to R220). -/
def evalF (c : Ctx) (k : OpKind) (e : OpEnc) : OpRes :=
  let f := fmtOf (fSZ e)
  let full := fun (n : Nat) => vReg c.vt n % 2 ^ 64
  let x := fun (n : Nat) => full n % 2 ^ f.width
  let c' := fctl c.vt
  let fin := fun (w : RegW) (flags : Nat) =>
    if fpEnables c.vt &&& flags != 0 then { faults := [fpTrap e.cls.toNat flags 0] }
    else { effs := [Eff.regs [w]] ++ (if flags = 0 then [] else [Eff.fp flags]) }
  match k with
  | .fcmp => let (b, fl) := fcmpOp (fSUB e) (fdec f (x (fA e))) (fdec f (x (fB e))); fin (.pred (fD e) b) fl
  | .fcvt =>
    let src := if 2 ≤ fSUB e then x (fA e) else gp c.vt (fA e)
    let (r, fl) := fcvtOp f c' (fSUB e) src
    fin (if 2 ≤ fSUB e then .gpr (fD e) (BitVec.ofNat 32 r) else fregW (fD e) r) fl
  | .fcvtf =>
    let src := if fSZ e = 3 then fmt32 else fmt64
    let (r, fl) := fcvtFmt f c' (fdec src (full (fA e) % 2 ^ src.width))
    fin (fregW (fD e) r) fl
  | .fsgn => fin (fregW (fD e) (fsgnOp f (fSUB e) (x (fA e)) (x (fB e)))) 0
  | .fmvx => match fSUB e with
    | 0 => fin (fregW (fD e) (gp c.vt (fA e))) 0
    | 1 => fin (.vreg (fD e) (BitVec.ofNat 512 (gp c.vt (fA e) <<< 32)) (BitVec.ofNat 512 ((2 ^ 32 - 1) <<< 32))) 0
    | 2 => fin (.gpr (fD e) (BitVec.ofNat 32 (full (fA e)))) 0
    | _ => fin (.gpr (fD e) (BitVec.ofNat 32 (full (fA e) >>> 32))) 0
  | .fclass => fin (.gpr (fD e) (BitVec.ofNat 32 (fclassOf f (x (fA e))))) 0
  | _ => let (r, fl) := fpOp k f c' (x (fD e)) (x (fA e)) (x (fB e)); fin (fregW (fD e) r) fl

/-- Vector integer, configuration and mask operations (R207, R212 to R214). -/
def evalVI (c : Ctx) (k : OpKind) (e : OpEnc) : OpRes :=
  let w := ewBits (fSZ e)
  let n := vCount c.vt w
  let cap := vlenb c.s * 8 / w
  let act := vActive c.vt (fKM e) n
  let va := vReg c.vt (fA e)
  let sc := fBX e || fBI e
  let b := fun (i : Nat) => if sc then vScalarB c e w else elemAt (vReg c.vt (fB e)) w i
  let idx := vScalarB c e w
  let put := fun (xs : List (Nat × Nat)) => { effs := [Eff.regs [elemsW (fD e) w xs]] : OpRes }
  let scalar := fun (x : Nat) => { effs := [Eff.regs [.gpr (fD e) (BitVec.ofNat 32 x)]] : OpRes }
  match k with
  | .setvl =>
    let cnt := if fBI e then fIMM e else gp c.vt (fA e)
    let m := min cnt cap
    { effs := [.vl (m * w / 8), .regs [.gpr (fD e) (BitVec.ofNat 32 m)]] }
  | .klog => { effs := [.regs [.kreg (fD e) (BitVec.ofNat 64 (klogOp (fSUB e) (kReg c.vt (fA e)) (kReg c.vt (fB e))))
      (BitVec.allOnes 64)]] }
  | .kmov => match fSUB e with
    | 0 => scalar (kReg c.vt (fA e))
    | 1 => scalar (kReg c.vt (fA e) >>> 32)
    | 2 => { effs := [.regs [.kreg (fD e) (BitVec.ofNat 64 (gp c.vt (fA e))) (BitVec.ofNat 64 (2 ^ 32 - 1))]] }
    | _ => { effs := [.regs [.kreg (fD e) (BitVec.ofNat 64 (gp c.vt (fA e) <<< 32))
        (BitVec.ofNat 64 ((2 ^ 32 - 1) <<< 32))]] }
  | .kpop =>
    let set := (List.range n).filter (fun i => nbit (kReg c.vt (fA e)) i)
    scalar (if fSUB e = 0 then set.length else set.headD n)
  | .vsel => put ((List.range n).map (fun i => (i, if nbit (kReg c.vt (fKM e)) i then b i else elemAt va w i)))
  | .vmov => put (act.map (fun i => (i, if sc then b i else elemAt va w i)))
  | .vcmp | .vcmpl =>
    { effs := [.regs [kBitsW (fD e) (act.map (fun i => (i, vCmpElem k w (fSUB e) (elemAt va w i) (b i))))]] }
  | .vred =>
    put [(0, act.foldl (fun x i => vRedElem w (fSUB e) x (elemAt va w i)) (elemAt (vReg c.vt (fB e)) w 0))]
  | .vgete => scalar (if idx < cap then elemAt va w idx else 0)
  | .vsete => if idx < cap then put [(idx, unsgn w (sgn 32 (gp c.vt (fA e))))] else {}
  | .vsldn => put (act.map (fun i => (i, if i + idx < cap then elemAt va w (i + idx) else 0)))
  | .vslup => put ((act.filter (fun i => decide (idx ≤ i))).map (fun i => (i, elemAt va w (i - idx))))
  | _ =>
    let rs := act.map (fun i => (i, vElem k w (fSUB e) (wbits c.vt.vec.vtype 1 0) (elemAt va w i) (b i)))
    let sat := rs.any (fun p => p.2.2)
    { effs := [.regs [elemsW (fD e) w (rs.map (fun p => (p.1, p.2.1)))]] ++ (if sat then [.astat 4] else []) }

/-- Whether an operation is a scalar floating-point operation of VA and VB. -/
def opIsF : OpKind → Bool
  | .fadd | .fsub | .fmul | .fma | .fmin | .fmax | .fcmp | .fcvt | .fcvtf | .fsgn | .fmvx | .fclass => true
  | _ => false

/-- Whether an operation is a vector floating-point operation. -/
def opIsVF : OpKind → Bool
  | .vfadd | .vfsub | .vfmul | .vfma | .vfmin | .vfmax | .vfcmp | .vfcvt | .vfsgn => true
  | _ => false

/-! ### Vector memory accesses -/

/-- A VLD or VST ready to be made: its base address, element size in bytes, elements, active elements, An update
(R208). -/
structure VMem where
  load : Bool
  reg : Nat
  base : Nat
  es : Nat
  n : Nat
  act : List Nat
  upds : List RegW
  bad : List VFault
  imm : Option Nat
deriving DecidableEq, Repr

/-- The access that a VLD or VST names. -/
def vmemOf (c : Ctx) (k : OpKind) (e : OpEnc) : VMem :=
  let w := ewBits (fSZ e)
  let n := vCount c.vt w
  let sp := fIMM e
  let (a, u, f) := specAddr c.vt sp (n * (w / 8)) (vlenb c.s) 64
  { load := k == .vld, reg := fD e, base := a, es := w / 8, n := n, act := vActive c.vt (fKM e) n, upds := u, bad := f,
    imm := if spMode sp = 8 then some (unsgn w (spImm sp)) else none }

/-- The faults of byte x of an element. -/
def elemByteFaults (c : Ctx) (k : Acc) (x : Nat) : List VFault := byteFaults c.vt c.v c.lvl x k ++ calFaults c k x 1

/-- Whether some active element of an access from VRES on reaches the device registers (R209). -/
def reachesDev (c : Ctx) (m : VMem) : Bool :=
  (m.act.filter (fun i => decide (c.vt.vec.vres.toNat ≤ i))).any (fun i => (List.range m.es).any (fun j =>
    match ventLoc c.vt c.v ((m.base + i * m.es + j) % 2 ^ 32) with
    | .dev _ => true
    | _ => false))

/-- The parts of element i, by block. -/
def VMem.parts (m : VMem) (i : Nat) : List LPart :=
  let a := m.base + i * m.es
  (blocksOf 3 a m.es).map (fun p => { va := p.1 % 2 ^ 32, len := p.2, dst := i * m.es + (p.1 - a), elem := i })

/-- The parts of a VLD's active elements lo to hi − 1. -/
def vmemParts (m : VMem) (lo hi : Nat) : List LPart :=
  (m.act.filter (fun i => decide (lo ≤ i) && decide (i < hi))).flatMap m.parts

/-- The faults of element i (R209, R210, R232, R250): an access that reaches the device registers is refused at its first active
element; the lowest byte that the checks refuse decides; else each part of the element that is an operand read is
checked for errors. -/
def vmemFaults (c : Ctx) (m : VMem) (i : Nat) : List VFault :=
  if m.imm.isSome || !m.act.contains i then []
  else
    let a := m.base + i * m.es
    let k : Acc := if m.load then .rd else .wr
    let refused := match (List.range m.es).find? (fun j => !(elemByteFaults c k ((a + j) % 2 ^ 32)).isEmpty) with
      | some j => elemByteFaults c k ((a + j) % 2 ^ 32)
      | none => []
    if reachesDev c m then ⟨52, 6, a % 2 ^ 32⟩ :: refused
    else if !refused.isEmpty then refused
    else if m.load then operandFaults c (vmemParts m c.vt.vec.vres.toNat m.n) (m.parts i)
    else []

/-- The effects of elements lo to hi − 1 (R209 to R211). The store buffer is checked for all the elements that the access has
yet to make (R167). -/
def vmemMake (c : Ctx) (m : VMem) (lo hi : Nat) : OpRes :=
  let xs := m.act.filter (fun i => decide (lo ≤ i) && decide (i < hi))
  match m.imm with
  | some x => { effs := [.regs [elemsW m.reg (8 * m.es) (xs.map (fun i => (i, x)))]] }
  | none =>
    if m.load then
      let un := m.base % vlenb c.s != 0
      let d := (match ventLoc c.vt c.v m.base with
        | .pal _ => 2
        | _ => 5) + b2n un
      let parts := vmemParts m lo hi
      if parts.isEmpty then {}
      else
        let r := loadParts c d (.vreg m.reg) parts
        { r with wait := r.wait || (loadBuffer c (vmemParts m lo m.n)).2 }
    else { effs := xs.flatMap (fun i =>
        let a := (m.base + i * m.es) % 2 ^ 32
        storeAt c a (leBytes m.es (elemAt (vReg c.vt m.reg) (8 * m.es) i))) }

/-! ### One operation -/

/-- What an enabled operation other than VLD and VST does. -/
def evalOp (c : Ctx) (o : BOp) : OpRes :=
  match opFormat o.k with
  | .rm => evalRm c o.k o.e
  | .r => evalR c o.k o.e
  | .m => evalM c o.k o.e
  | .l | .b => evalLB c o.k o.e
  | .j => evalLoop c o.e
  | .s => evalS c o.k o.e
  | .i | .n => evalSys c o.k o.e
  | .p => evalP c o.k o.e
  | .x => evalX c o.k o.e o.stop
  | .k => evalK c o.k o.e o.stop
  | .vmem => {}
  | .v => if opIsF o.k then evalF c o.k o.e else if opIsVF o.k then evalVF c o.k o.e else evalVI c o.k o.e

/-- Whether the guard enables an operation (R185). -/
def guardOn (vt : Vent) (e : OpEnc) : Bool := predBit vt (e.guard.toNat % 8) != e.guard.getLsbD 3

end Sys2Proof.Machine
end

