-- ==== Sys2Proof/Machine/VentRun.lean ====
section
/-! DEFINITION. A bundle as a whole: fetch and encoding faults (R149, R200, R201), waiting in issue (R162, R166), fault
priority (R232), commit (R144, R145), loops (R197 to R199), the mode shadow (R244), traps (R232). Every operation of the
vents is handed to `offerOp`. -/

namespace Sys2Proof.Machine

/-- A chosen fault: the candidate, with the class and index of its operation, whether it is a machine check of the register
file, and the far load of Narrow mode that a cause 10 reports. -/
structure Chosen where
  f : VFault
  cls : Nat := 0
  idx : Nat := 0
  file : Bool := false
  made : Option FarLoad := none
deriving DecidableEq, Repr

/-- The first candidate in the order of R232; among equals the earliest listed. -/
def bestFault : List Chosen → Option Chosen
  | [] => none
  | x :: r => match bestFault r with
    | none => some x
    | some y => if y.f.rank < x.f.rank then some y else some x

/-- The operations of a bundle with their index and the word at which each starts. -/
def placeOps : List BOp → Nat → Nat → List (BOp × Nat × Nat)
  | [], _, _ => []
  | o :: r, i, w => (o, i, w) :: placeOps r (i + 1) (w + opWords o.e)

/-- The words of a bundle. -/
def bundleWords (b : List BOp) : Nat := (b.map (fun o => opWords o.e)).sum

/-! ### Fetch -/

/-- Fetch faults of a bundle: no-execute, then fetch error, then access permission in the context cache area (R149, R232,
R243, R135). -/
def fetchFaults (s : State) (v : Nat) (vt : Vent) (words : Nat) : List Chosen :=
  let pc := vt.pc.toNat
  let bytes := (List.range (4 * words)).map (fun i => (pc + i) % 2 ^ 32)
  (match bytes.find? (fun a => (rgnRefuses vt (ventLevel vt) a .ex).isSome) with
    | some a => [{ f := ⟨10, 3, a⟩ }]
    | none => []) ++
  let ws := (List.range words).map (fun i => (pc + 4 * i) % 2 ^ 32)
  (match ws.find? (fun a => !inCache s v a && !fetchOk s v a) with
    | some a => [{ f := ⟨11, 4, a⟩ }]
    | none => []) ++
  (match ws.find? (inCache s v) with
    | some a => [{ f := ⟨12, 6, a⟩ }]
    | none => [])

/-- The classes of the first n operations hold a conflict (R178). -/
def hasConflict (b : List BOp) : Bool :=
  let cs := b.map (fun o => o.e.cls.toNat)
  !(decide cs.Nodup) || (decide (2 ≤ b.length) && b.any (fun o => opAlone o.k))

/-- Encoding faults of a bundle in the order 0, 2, 1 (R200, R201). -/
def encFaults (s : State) (v : Nat) (vt : Vent) (b : List BOp) : List Chosen :=
  let words := bundleWords b
  let ps := placeOps b 0 0
  let adr := fun (w : Nat) => (vt.pc.toNat + 4 * w) % 2 ^ 32
  let long := fun (p : BOp × Nat × Nat) => decide (8 < p.2.2 + opWords p.1.e) || (decide (p.2.2 + opWords p.1.e = 8) && !p.1.e.last)
  (match ps.find? (fun p => !encOk p.1.k p.1.e words (v == mvNum) || long p) with
    | some p => [{ f := ⟨20, 0, adr p.2.2⟩, cls := p.1.e.cls.toNat, idx := p.2.1 }]
    | none => []) ++
  (match ps.find? (fun p => hasConflict (b.take (p.2.1 + 1))) with
    | some p => [{ f := ⟨21, 2, adr p.2.2⟩, cls := p.1.e.cls.toNat, idx := p.2.1 }]
    | none => []) ++
  (match ps.find? (fun p => (p.1.k == .vkeccak || p.1.k == .vntt) && !hasGlaze s) with
    | some p => [{ f := ⟨22, 1, adr words⟩, cls := p.1.e.cls.toNat, idx := p.2.1 }]
    | none => [])

/-! ### Waiting in issue -/

/-- The V registers that a far load of register n writes, with registers of vl bytes (R162, R211). -/
def farRegs (vl n : Nat) (l : FarLoad) : List Nat :=
  if vl ≤ l.pieces.foldl (fun m p => max m (p.dst + p.len - 1)) 0 then [n, n + 1] else [n]

/-- Scalar and V registers whose scoreboard bit is set (R162). -/
def scoreboard (vl : Nat) (vt : Vent) : List Nat × List Nat :=
  let ofW := fun (w : RegW) => match w with
    | .gpr n _ => ([n], [])
    | .vreg n _ _ => ([], [n])
    | _ => (([] : List Nat), ([] : List Nat))
  let ofD := fun (l : FarLoad) => match l.dest with
    | .gpr n _ _ => ([n], [])
    | .freg n _ => (([] : List Nat), [n])
    | .vreg n => ([], farRegs vl n l)
  let xs := vt.fl.far.map ofD ++ vt.fl.longs.flatMap (fun l => l.writes.map ofW)
  (xs.flatMap (fun p => p.1), xs.flatMap (fun p => p.2))

/-- Whether Narrow mode still has a far access or a long operation of an earlier bundle outstanding (R145). DESIGN
CHOICE: so a machine-check handler entered from Broad mode first waits for what the Broad bundles left
(notes/assumptions/11.md). -/
def narrowWaits (vt : Vent) : Bool :=
  ventNarrow vt && !(vt.fl.far.isEmpty && vt.fl.longs.isEmpty && vt.fl.farWrites.isEmpty && vt.fl.sbuf.all (fun x => !x.far))

/-- Whether the bundle waits in issue because a register's scoreboard bit is set (R162). -/
def issueWaits (s : State) (vt : Vent) (b : List BOp) : Bool :=
  let (rs, vs) := scoreboard (vlenb s) vt
  let half := vlenb s == 64
  b.any (fun o =>
    let (r, v) := opRegs o.k o.e
    let v' := if half && (o.k == .vldl || o.k == .vstl) then v.take 1 else v
    r.any rs.contains || v'.any vs.contains)

/-! ### Vector memory accesses of a bundle -/

/-- The first element, from VRES on, at which some access is refused, with the fault (R210). -/
def vmemFirst (c : Ctx) (ms : List (VMem × BOp × Nat)) : Nat → Nat → Option (Nat × Chosen)
  | 0, _ => none
  | n + 1, i =>
    let fs := ms.flatMap (fun m => if i < m.1.n then
      (vmemFaults c m.1 i).map (fun f => ({ f := f, cls := m.2.1.e.cls.toNat, idx := m.2.2 } : Chosen)) else [])
    match bestFault fs with
    | some x => some (i, x)
    | none => vmemFirst c ms n (i + 1)

/-! ### Commit -/

/-- A far load is outstanding until its response; a store takes its place in the buffer; a write of the palette or of caldera
memory leaves outstanding far loads the bytes they read (R144). -/
def commitEff (v : Nat) (s : State) (x : Eff) : State :=
  let vt := ventAt s v
  let fl := vt.fl
  let set := fun (f : VentFlight) => setVent s v { vt with fl := f }
  match x with
  | .regs ws => setVent s v (writeRegs ws vt)
  | .mem w => putDie (set { fl with far := keepBytes s.mem (w.map (fun p => p.1)) fl.far }) w
  | .store e => set { fl with sbuf := sbPush fl.far fl.sbuf e }
  | .load d ws => if ventNarrow vt then setVent s v (writeRegs ws vt)
      else set { fl with loads := fl.loads ++ [{ due := fl.bno + d, writes := ws }] }
  | .far l => set { fl with far := fl.far ++ [l] }
  | .sync l => farLand s v l
  | .long l => set { fl with longs := fl.longs ++ [l] }
  | .mts n w => if n = 0 || 0x60 ≤ n then s else setVent s v (sregWrite s vt n w)
  | .astat _ => s
  | .fp _ => s
  | .vl n => setVent s v { vt with vec := { vt.vec with vl := BitVec.ofNat 32 n } }
  | .vres n => setVent s v { vt with vec := { vt.vec with vres := BitVec.ofNat 32 (n % 64) } }
  | .hold n =>
    let g := min n vt.hold.budget.toNat
    setVent s v { vt with hold := { vt.hold with
      count := BitVec.ofNat 12 g
      budget := BitVec.ofNat 12 (vt.hold.budget.toNat - g)
      ovr := vt.hold.ovr || decide (g < n)
      haddr := if g < n then vt.pc else vt.hold.haddr } }
  | .gobroad => s
  | .pref b =>
    if fl.dcache.any (fun l => l.block == b) then s
    else
      let (code, bs, s1) := matRead (ventMaster v) b 64 s
      if code = .okay then dcAlloc s1 v b bs else s
  | .flush bl wr =>
    let s1 := set { fl with dcache := fl.dcache.filter (fun l => !bl.contains l.block) }
    if wr then (fl.dcache.filter (fun l => bl.contains l.block)).foldl (fun s l => writeBack s v l) s1 else s1
  | .job bs => submitJob s v bs
  | .loop n b e k => setVent s v { vt with loop := { vt.loop with
      lbeg := fset n (BitVec.ofNat 32 b) vt.loop.lbeg
      lend := fset n (BitVec.ofNat 32 e) vt.loop.lend
      lcnt := fset n (BitVec.ofNat 32 k) vt.loop.lcnt } }
  | .memNow m bad ws =>
    let s1 := set { fl with far := keepBytes s.mem ws fl.far }
    { s1 with mem := m, hbm := { s1.hbm with badWords := bad } }
  | .fetch a n => fetchBundle s v a n
  | .icinv bl => set { fl with icache := fl.icache.filter (fun l => !bl.contains l.block) }
  | .isync => set { fl with lbuf := [] }
  | .lprog n => setVent s v { vt with vec := { vt.vec with lprog := BitVec.ofNat 32 n } }
  | .time t =>
    let s1 := updCal { s with freeCtr := s.freeCtr + 1 } (islandOf v) (fun c => { c with tbCopy := t })
    setVent s1 v { vt with tbLatch := BitVec.ofNat 32 (t.toNat / 2 ^ 32) }
  | .draw => { s with freeCtr := s.freeCtr + 1 }

/-- The flags that operations set, which stand whatever an MTS of the bundle writes (R192, R219). -/
def commitFlags (vt : Vent) (effs : List Eff) : Vent :=
  effs.foldl (fun vt x => match x with
    | .astat f => { vt with astat := vt.astat ||| BitVec.ofNat 32 f }
    | .fp f => { vt with vec := { vt.vec with fpflags := vt.vec.fpflags ||| BitVec.ofNat 32 f } }
    | _ => vt) vt

/-- The writes of STAT and the region table open a shadow (R244). -/
def openShadow (vt : Vent) (effs : List Eff) : Vent :=
  effs.foldl (fun vt x => match x with
    | .mts n w =>
      if n = 0 then { vt with shadowOpen := true, shadowStat := some (statMts vt.stat w) }
      else if 0x60 ≤ n then { vt with shadowOpen := true, shadowRgn := vt.shadowRgn ++ [(n - 0x60, w)] }
      else vt
    | .gobroad => { vt with shadowOpen := true, shadowStat := some (vt.stat &&& 0xFFFFFFFB) }
    | _ => vt) vt

/-- The loop-back check of a completing bundle, from level n − 1 down (R198): the vent and where it loops back to. -/
def loopCheck (vt : Vent) (pc : Nat) : Nat → Vent × Option Nat
  | 0 => (vt, none)
  | n + 1 =>
    let cnt := (fget 0 vt.loop.lcnt n).toNat
    if cnt = 0 || (fget 0 vt.loop.lend n).toNat ≠ pc then loopCheck vt pc n
    else
      let vt1 := { vt with loop := { vt.loop with lcnt := fset n (BitVec.ofNat 32 (cnt - 1)) vt.loop.lcnt } }
      if 1 < cnt then (vt1, some (fget 0 vt.loop.lbeg n).toNat) else loopCheck vt1 pc n

/-- A bundle's far loads before its other effects: a load reads what stood there before the bundle, so a store of the
bundle finds it outstanding (R144). -/
def farFirst (effs : List Eff) : List Eff :=
  let far (x : Eff) : Bool := match x with
    | .far _ => true
    | _ => false
  effs.filter far ++ effs.filter (fun x => !far x)

/-- The far loads of a list of effects. -/
def farsOf (effs : List Eff) : List FarLoad := effs.filterMap (fun x => match x with
  | .far l => some l
  | _ => none)

/-- The registers that an effect writes, with the bits of each; the values of a far load are not known yet. -/
def effRegs (vl : Nat) : Eff → List RegW
  | .regs ws => ws
  | .load _ ws => ws
  | .long l => l.writes
  | .far l => l.pieces.flatMap (fun p => destW vl l.dest p.dst (List.replicate p.len 0)) ++
      l.ready.flatMap (fun x => destW vl l.dest x.2.1 x.2.2)
  | _ => []

/-- An effect whose result comes after its bundle, less what operations later in the bundle write (R144). -/
def yieldTo (later : List RegW) (x : Eff) : Eff :=
  if later.isEmpty then x
  else match x with
    | .long l => .long { l with writes := lessWrites later l.writes }
    | .far l => .far { l with later := later }
    | x => x

/-- The effects of a bundle's operations in encoding order, and the registers that they write: of two writers of one register
the later prevails, whenever their results come (R144, R148). -/
def laterWins (vl : Nat) : List OpRes → List Eff × List RegW
  | [] => ([], [])
  | r :: rest =>
    let (xs, later) := laterWins vl rest
    (r.effs.map (yieldTo later) ++ xs, r.effs.flatMap (effRegs vl) ++ later)

/-- The effects of a bundle as it commits. -/
def bundleEffs (s : State) (rs : List OpRes) : List Eff := farFirst (laterWins (vlenb s) rs).1

/-- The transactions of an effect that is a far load (R261). -/
def Eff.bursts : Eff → Nat
  | .far l => l.bursts
  | .sync l => l.bursts
  | _ => 0

/-- Whether the vent's port has room for the transactions of a bundle's far loads (R261). -/
def portFits (s : State) (v : Nat) (effs : List Eff) : Bool :=
  let n := (effs.map Eff.bursts).sum
  n == 0 || portRoom s v n

/-- The store buffer after a bundle's stores (R166). -/
def sbAfter (far : List FarLoad) (sb : List SbEntry) (effs : List Eff) : List SbEntry :=
  effs.foldl (fun sb x => match x with
    | .store e => sbPush far sb e
    | _ => sb) sb

/-- Whether a bundle's stores fit a store buffer of eight entries (R166). -/
def sbFits (vt : Vent) (effs : List Eff) : Bool :=
  decide ((sbAfter (vt.fl.far ++ farsOf effs) vt.fl.sbuf effs).length ≤ max 8 vt.fl.sbuf.length)

/-- R145: the far loads of a Narrow bundle are answered before anything of the bundle is written; each becomes the writes
of its registers. -/
def answerSync (v : Nat) : List Eff → State → State × List Eff
  | [], s => (s, [])
  | .sync l :: r, s =>
    let (ws, _, s1) := farOutcome s v l
    let (s2, r2) := answerSync v r s1
    (s2, .regs ws :: r2)
  | x :: r, s =>
    let (s2, r2) := answerSync v r s
    (s2, x :: r2)

/-- A synchronous fault of the bundle (R226, R230, R245): pending shadow writes take effect, the event is entered at the
level of the old mode with RTA at the bundle. A far load of Narrow mode that failed leaves its entries in the queue (R145,
R237), whose oldest cause 10 names. -/
def raiseFault (s0 : State) (v lvl : Nat) (x : Chosen) : State :=
  let (s, ds) := match x.made with
    | some l => let (_, ds, s1) := farOutcome s0 v l; (s1, ds)
    | none => (s0, [])
  let vt := ventAt s v
  let vt1 := applyShadow vt
  let vt2 := ds.foldl deferAdd vt1
  let vt3 := if x.f.cause = 49 then
      mcRecord vt2 (if x.file then mcSrcReg else mcSrc vt2 v x.f.faddr false) x.f.faddr else vt2
  let faddr := if x.f.cause = 10 then (vt2.fl.deferq.headD {}).addr.toNat else x.f.faddr
  let s1 := setVent s v { vt3 with fl := { vt3.fl with bundle := [], narrowFault := false } }
  ventEnter s1 v { cause := x.f.cause, cls := x.cls, idx := x.idx, faddr := faddr, rta := vt.pc.toNat, lvl := lvl,
                   mcact := ventMcact vt }

/-- A bundle raises a synchronous fault, or waits for the read of the handler's address (R261, R264). -/
def tryRaise (s : State) (v lvl : Nat) (x : Chosen) : Option State :=
  if entryWaits s v x.f.cause lvl then none else some (raiseFault s v lvl x)

/-- The effects of operations in encoding order. -/
def commitAll (s : State) (v : Nat) (effs : List Eff) : State := effs.foldl (commitEff v) s

/-- A bundle completes (R144, R145, R198, R199, R231, R232, R244). -/
def completeBundle (s0 : State) (v lvl pc words : Nat) (rs : List OpRes) (trap : Option Event) : State :=
  let (s1, effs) := answerSync v (bundleEffs s0 rs) s0
  let s := commitAll s1 v effs
  let vt1 := applyShadow (commitFlags (ventAt s v) effs)
  let vt2 := openShadow vt1 effs
  let next := (pc + 4 * words) % 2 ^ 32
  let (vt3, dest) := match (rs.filterMap (fun r => r.target)).head?, (rs.filterMap (fun r => r.ret)).head? with
    | some t, _ => (vt2, t)
    | none, some m => (ventReturn vt2 m (v == mvNum), if m then vt2.m.rta.toNat else vt2.s.rta.toNat)
    | none, none => match loopCheck vt2 pc 4 with
      | (x, some t) => (x, t)
      | (x, none) => (x, next)
  let vt4 := { vt3 with
    pc := BitVec.ofNat 32 dest
    fl := { vt3.fl with bundle := [], bno := vt3.fl.bno + 1, seq := vt3.fl.seq + 1 }
    evt := { vt3.evt with perfIssue := vt3.evt.perfIssue + 1 } }
  let s1 := setVent s v vt4
  match trap with
  | none => s1
  | some e => ventEnter (setVent s1 v (applyShadow vt4)) v { e with rta := dest, lvl := lvl }

/-- A resumable operation stopped at a boundary: its progress is written and its bundle stays to be executed again
(R165, R194, R223). A shadow that was open ends here (R249). -/
def stopBundle (s0 : State) (v : Nat) (rs : List OpRes) : State :=
  let s := commitAll s0 v (rs.flatMap (fun r => r.effs))
  let vt := applyShadow (ventAt s v)
  setVent s v { vt with fl := { vt.fl with bundle := [] } }

/-- The trap event of a bundle, if any. -/
def trapOf (pc : Nat) (xs : List (OpRes × BOp × Nat)) : Option Event :=
  (xs.filterMap (fun x => x.1.trap.map (fun t =>
    ({ cause := t.1, n := t.2, cls := x.2.1.e.cls.toNat, idx := x.2.2, faddr := pc } : Event)))).head?

/-- The machine checks of operands in the register file (R239), in the place of R232 that those of memory operands have:
FADDR is 0. -/
def regFaults (vl : Nat) (vt : Vent) (on : List (BOp × Nat × Nat)) : List Chosen :=
  (on.filter (fun p => readsBad vl vt.badRegs p.1.k p.1.e)).map (fun p =>
    { f := ⟨30, 49, 0⟩, cls := p.1.e.cls.toNat, idx := p.2.1, file := true })

/-- What the enabled operations of a bundle that has issued do: it waits (none), faults, stops or completes (R232, R245). -/
def issueBundle (s : State) (v words : Nat) (vt : Vent) (on : List (BOp × Nat × Nat)) : Option State :=
  let pc := vt.pc.toNat
  let lvl := ventLevel vt
  let c : Ctx := { s := s, v := v, vt := vt, pc := pc, words := words }
  let isV := fun (o : BOp) => o.k == .vld || o.k == .vst
  let vres := vt.vec.vres.toNat
  let ms := (on.filter (fun p => isV p.1)).map (fun p => (vmemOf c p.1.k p.1.e, p.1, p.2.1))
  let top := ms.foldl (fun m x => max m x.1.n) 0
  let circ := ms.flatMap (fun m => m.1.bad.map (fun f => ({ f := f, cls := m.2.1.e.cls.toNat, idx := m.2.2 } : Chosen)))
  let vf := if circ.isEmpty then vmemFirst c ms (top - vres) vres else none
  let rs := (on.filter (fun p => !isV p.1)).map (fun p => (evalOp c p.1, p.1, p.2.1))
  let make := fun (hi : Nat) => ms.map (fun m => (vmemMake c m.1 vres (min hi m.1.n), m.2.1, m.2.2))
  let vs := make top
  let chosen := fun (r : OpRes × BOp × Nat) => r.1.faults.map (fun f =>
    ({ f := f, cls := r.2.1.e.cls.toNat, idx := r.2.2, made := r.1.made } : Chosen))
  let others := regFaults (vlenb s) vt on ++ (rs.flatMap chosen) ++ circ ++ (if vf.isSome then [] else vs.flatMap chosen)
  -- encoding order among equal ranks: the sort is stable in the operation's index
  let ordered := (List.range 8).flatMap (fun i => (others ++ (match vf with
    | some x => [x.2]
    | none => [])).filter (fun x => x.idx == i))
  match bestFault ordered with
  | some x =>
    match vf with
    | some (k, y) =>
      if x = y && y.f.cause = 49 then tryRaise s v lvl y
      else if x = y then
        let part := make k
        let effs := bundleEffs s (part.map (fun r => r.1))
        if part.any (fun r => r.1.wait) || !sbFits vt effs || !portFits s v effs then none
        else match bestFault (part.flatMap chosen) with
          | some z => tryRaise s v lvl z
          | none =>
            let (s1, effs1) := answerSync v effs s
            if entryWaits s v y.f.cause lvl then none
            else some (raiseFault (commitAll s1 v (effs1 ++ [.vres k])) v lvl y)
      else if (rs.map (fun r => r.1)).any (fun r => r.wait) then none
      else tryRaise s v lvl x
    | none => if ((rs ++ vs).map (fun r => r.1)).any (fun r => r.wait) then none else tryRaise s v lvl x
  | none =>
    let upd := ms.map (fun m => (({ effs := (if m.1.upds.isEmpty then [] else [Eff.regs m.1.upds]) ++ [.vres 0] } : OpRes),
      m.2.1, m.2.2))
    let all := (List.range 8).flatMap (fun i => (rs ++ vs ++ upd).filter (fun r => r.2.2 == i))
    let res := all.map (fun r => r.1)
    if res.any (fun r => r.wait) || !sbFits vt (res.flatMap (fun r => r.effs)) || !portFits s v (res.flatMap (fun r => r.effs)) then none
    else if res.any (fun r => r.stop) then some (stopBundle s v res)
    else if (trapOf pc all).any (fun e => entryWaits s v e.cause lvl) then none
    else some (completeBundle s v lvl pc words res (trapOf pc all))

/-- Whether a deferred fault is due that is a synchronous fault of a Narrow vent's next bundle (R145, R238): no hold runs and no
mode shadow is open. -/
def narrowDue (vt : Vent) : Bool := ventNarrow vt && deferDue vt && vt.hold.count == 0 && !vt.shadowOpen

/-- A bundle is ready to execute: it waits (none), faults, stops or completes (R145 to R149, and the cases of R246 to R248).
In Narrow mode it enters only when every far access of the bundle before has been answered (R145), and a deferred fault that
is due is a synchronous fault of it (R145, R238); it is fetched, and its fetch and encoding are checked, before its operations
read their operands (R232). -/
def runBundle (s0 : State) (v : Nat) (b : List BOp) : Option State :=
  let vt1 := landLoads (ventAt s0 v) (ventAt s0 v).fl.bno
  let s1 := setVent s0 v vt1
  let pc := vt1.pc.toNat
  let lvl := ventLevel vt1
  let words := bundleWords b
  if narrowWaits vt1 then none
  else if vt1.fl.narrowFault || narrowDue vt1 then
    tryRaise s1 v lvl { f := ⟨0, 10, (vt1.fl.deferq.headD {}).addr.toNat⟩ }
  else if fetchBlocked s1 v pc (min words 8) then none
  else
    let fetch := fetchFaults s1 v vt1 (min words 8)
    let s := if fetch.isEmpty then fetchBundle s1 v pc (min words 8) else s1
    match bestFault (fetch ++ encFaults s v vt1 b) with
    | some x => tryRaise s v lvl x
    | none =>
      let vt := ventAt s v
      let on := (placeOps b 0 0).filter (fun p => guardOn vt p.1.e)
      if issueWaits s vt (on.map (fun p => p.1)) then none else issueBundle s v words vt on

/-- One operation is handed to a vent: it joins the bundle under assembly, and the bundle executes with its last
operation, or as soon as its eight words hold none (R175); a step of the debug access port ends with it (R351). A bundle
that waits leaves the state as it stands, and its last
operation is offered again (notes/assumptions/3.md). -/
def offerOp (s : State) (v : Nat) (k : OpKind) (e : OpEnc) (stop : Option Nat) : State :=
  if !ventRuns s v then s
  else
    let vt := ventAt s v
    let b := vt.fl.bundle.map (fun x => ({ k := x.1, e := x.2.1, stop := x.2.2 } : BOp)) ++ [⟨k, e, stop⟩]
    if e.last || decide (8 ≤ bundleWords b) then
      match runBundle s v b with
      | some s1 => updVent s1 v (fun vt => { vt with single := false })
      | none => s
    else setVent s v { vt with fl := { vt.fl with bundle := vt.fl.bundle ++ [(k, e, stop)] } }

/-- An operation of a vent as a command: refused only where its header names another operation than its mnemonic (R187). -/
def ventOp (s : State) (v : Nat) (k : OpKind) (e : OpEnc) (stop : Option Nat) (name : String) :
    Host.Outcome State Fault Refusal :=
  if opSpelt k e then .next (offerOp s v k e stop)
  else .refused (.noSuchEncoding name)

end Sys2Proof.Machine
end

