-- ==== Sys2Proof/Machine/Adm.lean ====
section
/-! DEFINITION. Admin commands: acceptance with its order of checks and its waiting rule (R293, R299, R300, R371, R372),
completions and halts (R294, R316). -/

namespace Sys2Proof.Machine

/-! ### Halts and completions -/

/-- A ring halts (R316): HALTED, LATE, HSTAT, its statistics, and RING_HALT to its owner. -/
def haltRing (s : State) (r status : Nat) (late : Bool) : State :=
  match ringAt s r with
  | none => s
  | some x =>
    postEvent (setRing s r { x with halted := true, late := late, hstat := BitVec.ofNat 8 status, halts := x.halts + 1 })
      x.func 4 1 (r * 256 + status * 2 ^ 20 + b2n late * 2 ^ 28)

/-- The ADMCQ entry of a completed command (R294). -/
def cqEntry (c : AdmCmd) (status : Nat) : BitVec 128 :=
  BitVec.ofNat 128 (c.tag.toNat + status % 256 * 2 ^ 16 + c.sqhead % 2 ^ 16 * 2 ^ 32 + c.detail % 2 ^ 16 * 2 ^ 48 +
    c.result % 2 ^ 32 * 2 ^ 64)

/-- A completion is written and its failure halts the admin ring. OK and SKIPPED are no failures. -/
def cqWrite (s : State) (c : AdmCmd) (status : Nat) : State :=
  let s1 := ringWrite { s with adm := { s.adm with cmds := s.adm.cmds.tail } } 1 (cqEntry c status)
  if status = 0 ∨ status = 7 then s1 else haltRing s1 0 status (!c.atAccept)

/-- The first command's completion, when it is due (R299): a discarded one leaves without an entry. -/
def admComplete (s : State) : State :=
  match s.adm.cmds with
  | [] => s
  | c :: r => match c.status with
    | none => s
    | some st =>
      if c.discard then admClose { s with adm := { s.adm with cmds := r } }
      else match ringAt s 1 with
        | none => s
        | some x => if ringRoom x && funcLive s 0 then admClose (cqWrite s c st) else s

/-- The completion of an admin command is written in ring order (R299). -/
def execAdmcqCompletion (s : State) : Host.Outcome State Fault Refusal := .next (admComplete s)

/-- An accepted command fails (R316): acceptance stops. -/
def admFail (s : State) (id status detail : Nat) : State :=
  let s1 := admEnd s id status detail 0
  { s1 with adm := { s1.adm with stopped := true } }

/-! ### Acceptance -/

/-- What a command brings to acceptance: its OPCODE and PLEN; whether it returns data, none where its parameters decide;
the least
RLEN; whether ISSUER can be a VF; whether it waits for every earlier command; whether a host buffer's read fails, and its
host address. Of its
parameter block: whether ISSUER may not act on what it names; the refused fields with their offsets; the RLEN it needs;
whether it needs an absent unit; the objects it names (R372). Of the state: a refusal (status, detail, result). -/
structure AdmReq where
  opcode : Nat
  plen : Nat
  returns : Option Bool := some false
  rlen : Nat := 0
  vf : Bool := false
  alone : Bool := false
  hostErr : Bool := false
  hostAddr : Nat := 0
  reads : List (Nat × Nat) := []
  denied : Bool := false
  fields : List (Bool × Nat) := []
  need : Option Nat := some 0
  absent : Bool := false
  objs : List AdmObj := []
  check : Option (Nat × Nat × Nat) := none

/-- The lowest offset among refused fields. -/
def lowestBad : List (Bool × Nat) → Option Nat
  | [] => none
  | (b, o) :: r => match lowestBad r with
    | some k => if b ∧ o < k then some o else some k
    | none => if b then some o else none

/-- Reserved bytes of a parameter block: n bytes from offset o. -/
def rsvBytes (ps : List Byte) (o n : Nat) : List (Bool × Nat) :=
  (List.range n).map (fun i => (byteAt ps (o + i) != 0, o + i))

/-- Order 1 of R371: the descriptor. An OPCODE outside the table of R300 is refused. -/
def descBad (d : AdmDesc) (q : AdmReq) : Bool :=
  !admOpcode d.opcode || d.rsv || d.plen.toNat != q.plen || d.paddr.toNat % 8 != 0 || d.raddr.toNat % 8 != 0 ||
  (d.plen == 0 && d.paddr != 0) || (d.rlen == 0 && d.raddr != 0) ||
  (match q.returns with
    | some true => d.rlen == 0 || decide (d.rlen.toNat < q.rlen)
    | some false => d.rlen != 0
    | none => false)

/-- Order 1 of R371 where the parameter block decides the RLEN: less than the command needs, or any where it returns
nothing. -/
def rlenBad (d : AdmDesc) (q : AdmReq) : Bool := match q.need with
  | some n => decide (d.rlen.toNat < n)
  | none => d.rlen != 0

/-- The first refusal of a descriptor in the order of R371: status, DETAIL, RESULT. -/
def admRefusal (s : State) (d : AdmDesc) (p : Option (List Byte)) (q : AdmReq) : Option (Nat × Nat × Nat) :=
  let iss := d.issuer.toNat
  if descBad d q || (p.isSome && rlenBad d q) then some (1, 0xFFFF, 0)
  else if iss ≠ 0 ∧ (s.hb.numvf < iss ∨ ¬ q.vf) then some (5, 0, 0)
  else if p.isSome ∧ q.denied then some (5, 0, 0)
  else if (q.plen ≠ 0 ∧ p.isNone) ∨ q.hostErr then some (6, 0, 0)
  else match lowestBad q.fields with
    | some o => some (1, o, 0)
    | none =>
      if q.absent then some (3, 0, 0)
      else q.check

/-- Whether the admin ring has a descriptor that the MV can accept now. -/
def admReady (s : State) : Bool :=
  s.glob.phase == .primed && funcLive s 0 && s.hb.cfg.getLsbD 11 && !s.adm.stopped && s.adm.fw.isNone &&
  decide ((s.adm.cmds.filter (fun c => c.status.isNone)).length < 256) &&
  (match ringAt s 0 with
    | some x => !x.halted && x.prod != x.cons
    | none => false)

/-- Whether a command must wait for earlier ones (R299, R372). -/
def admWaits (s : State) (d : AdmDesc) (q : AdmReq) : Bool :=
  let busy := s.adm.cmds.filter (fun c => c.status.isNone)
  ((d.fence || q.alone) && !busy.isEmpty) || busy.any (fun c => c.objs.any (fun o => q.objs.contains o))

/-- The part reads from the host, one after the other, what acceptance needs (R299): a descriptor, its parameter block where
it has one, and the buffers that the command reads, each an address and a length. -/
def admAsk (s : State) (x : Ring) (d : AdmDesc) (reads : List (Nat × Nat) := []) : State :=
  (((x.rbase.toNat + 32 * x.cons, 32) :: (if d.plen = 0 then [] else [(d.paddr.toNat, d.plen.toNat)])) ++ reads).foldl
    (fun s p => hostAsk s 0 x.nosnoop false p.1 p.2) s

/-- A descriptor's place in the ring is passed, and its command joins the queue of R299. -/
def admTake (s : State) (x : Ring) (d : AdmDesc) (objs : List AdmObj) (reads : List (Nat × Nat) := []) : State :=
  let nxt := (x.cons + 1) % 2 ^ x.log
  let s1 := setRing (admAsk s x d reads) 0 { x with cons := nxt, entries := x.entries + 1 }
  { s1 with adm := { s1.adm with
      nextId := s1.adm.nextId + 1
      cmds := s1.adm.cmds ++ [{ id := s1.adm.nextId, tag := d.tag, sqhead := nxt, objs := objs }] } }

/-- What a refused command has read of its buffers (R371): nothing where the refusal stands before the reads, in the
descriptor, the ISSUER or what it may not act on, or where the parameter block could not be read; else all of them, the failing
one among them. -/
def readsMade (d : AdmDesc) (p : Option (List Byte)) (q : AdmReq) (status : Nat) : List (Nat × Nat) :=
  if descBad d q || (p.isSome && rlenBad d q) || status == 5 || (q.plen != 0 && p.isNone) then [] else q.reads

/-- A descriptor fails at acceptance (R316): its completion joins the queue and acceptance stops. -/
def admRefuse (s : State) (x : Ring) (d : AdmDesc) (r : Nat × Nat × Nat) (reads : List (Nat × Nat) := []) : State :=
  { admAsk s x d reads with adm := { s.adm with
      stopped := true
      nextId := s.adm.nextId + 1
      cmds := s.adm.cmds ++ [{ id := s.adm.nextId, tag := d.tag, sqhead := x.cons, status := some r.1, detail := r.2.1,
                               result := r.2.2, atAccept := true }] } }

/-- An admin command reaches the MV: it waits, is refused, or is accepted and proceeds with `go`, which is given its
number. A descriptor whose OPCODE is another command's is not this command, and has no effect here. -/
def admAccept (s : State) (d : AdmDesc) (p : Option (List Byte)) (q : AdmReq) (go : Nat → State → State) : State :=
  match ringAt s 0 with
  | none => s
  | some x =>
    if !admReady s || (admOpcode d.opcode && d.opcode != q.opcode) then s
    else if admWaits s d q then s
    else match admRefusal s d p q with
      | some r => admRefuse (if r.1 = 6 then hostReadBad s (if p.isNone then d.paddr.toNat else q.hostAddr) else s) x d r
          (readsMade d p q r.1)
      | none => go s.adm.nextId (admTake s x d q.objs q.reads)

/-- A parameter block of the length its command has. -/
def admBlock (p : Option (List Byte)) (n : Nat) : List Byte := fit (p.getD []) n

/-- An admin command's result is written to the host at an address. -/
def putAdm (s : State) (raddr : Nat) (bs : List Byte) : State := hostPut s 0 ((ringAt s 0).any (fun x => x.nosnoop)) raddr bs

/-- A result written to the host's buffer of a descriptor. -/
def admResult (s : State) (d : AdmDesc) (bs : List Byte) : State := putAdm s d.raddr.toNat bs

end Sys2Proof.Machine
end

