-- ==== Sys2Proof/Machine/Chacha.lean ====
section
/-! DEFINITION. ChaCha20-Poly1305 (RFC 8439) as the LCEs use it. -/

namespace Sys2Proof.Machine

/-- A 32-bit rotation to the left. -/
def rotl32 (x k : Nat) : Nat := (x * 2 ^ k) % 2 ^ 32 + x / 2 ^ (32 - k)

/-- The quarter round on words a, b, c, d. -/
def chachaQ (a0 b0 c0 d0 : Nat) : Nat × Nat × Nat × Nat :=
  let a := (a0 + b0) % 2 ^ 32
  let d := rotl32 (d0 ^^^ a) 16
  let c := (c0 + d) % 2 ^ 32
  let b := rotl32 (b0 ^^^ c) 12
  let a := (a + b) % 2 ^ 32
  let d := rotl32 (d ^^^ a) 8
  let c := (c + d) % 2 ^ 32
  let b := rotl32 (b ^^^ c) 7
  (a, b, c, d)

/-- The quarter round on four places of the state. -/
def chachaAt (st : List Nat) (i j k l : Nat) : List Nat :=
  let r := chachaQ (st.getD i 0) (st.getD j 0) (st.getD k 0) (st.getD l 0)
  (((st.set i r.1).set j r.2.1).set k r.2.2.1).set l r.2.2.2

/-- n double rounds. -/
def chachaRounds : Nat → List Nat → List Nat
  | 0, st => st
  | n + 1, st =>
    let a := chachaAt (chachaAt (chachaAt (chachaAt st 0 4 8 12) 1 5 9 13) 2 6 10 14) 3 7 11 15
    chachaRounds n (chachaAt (chachaAt (chachaAt (chachaAt a 0 5 10 15) 1 6 11 12) 2 7 8 13) 3 4 9 14)

/-- A byte string as little-endian 32-bit words. -/
def leWords (bs : List Byte) : List Nat := (chunks 4 (bs.length + 1) bs).map leNat

/-- The block of 64 key bytes for a counter. -/
def chachaBlock (key nonce : List Byte) (ctr : Nat) : List Byte :=
  let st := [0x61707865, 0x3320646e, 0x79622d32, 0x6b206574] ++ leWords key ++ [ctr % 2 ^ 32] ++ leWords nonce
  ((st.zip (chachaRounds 10 st)).map (fun p => (p.1 + p.2) % 2 ^ 32)).flatMap (leBytes 4)

/-- The cipher from counter i. -/
def chachaCtr (key nonce : List Byte) : Nat → List (List Byte) → List Byte
  | _, [] => []
  | i, b :: r => xorBytes b (chachaBlock key nonce i) ++ chachaCtr key nonce (i + 1) r

/-- Poly1305's accumulator over blocks, r clamped. -/
def polyBlocks (r : Nat) : List (List Byte) → Nat → Nat
  | [], a => a
  | b :: t, a => polyBlocks r t ((a + leNat b + 2 ^ (8 * b.length)) * r % (2 ^ 130 - 5))

/-- Poly1305. -/
def poly1305 (key msg : List Byte) : List Byte :=
  let r := leNat (key.take 16) &&& 0x0ffffffc0ffffffc0ffffffc0fffffff
  leBytes 16 (polyBlocks r (chunks 16 (msg.length + 1) msg) 0 + leNat (slice key 16 16))

/-- A string zero-filled to a multiple of 16 bytes. -/
def pad16 (bs : List Byte) : List Byte := fit bs (roundUp bs.length 16)

/-- The tag of RFC 8439 over additional data and ciphertext. -/
def chachaTag (key nonce aad ct : List Byte) : List Byte :=
  poly1305 ((chachaBlock key nonce 0).take 32)
    (pad16 aad ++ pad16 ct ++ leBytes 8 aad.length ++ leBytes 8 ct.length)

/-- ChaCha20-Poly1305 encryption: the ciphertext and the tag. -/
def chachaSeal (key nonce aad pt : List Byte) : List Byte × List Byte :=
  let ct := chachaCtr key nonce 1 (chunks 64 (pt.length + 1) pt)
  (ct, chachaTag key nonce aad ct)

/-- ChaCha20-Poly1305 decryption: the plaintext, and the tag that the ciphertext must carry. -/
def chachaOpen (key nonce aad ct : List Byte) : List Byte × List Byte :=
  (chachaCtr key nonce 1 (chunks 64 (ct.length + 1) ct), chachaTag key nonce aad ct)

end Sys2Proof.Machine
end

