-- ==== Sys2Proof/Machine/Frames.lean ====
section
/-! DEFINITION. Frames in the part: their cells and bytes (R90), the record beside each (R31, R43), their order tickets
(R40) and their drops (R45). -/

namespace Sys2Proof.Machine

/-- A frame. -/
def frameAt (s : State) (n : Nat) : Frame := fget {} s.path.frames n

/-- The state with a frame changed. -/
def updFrame (s : State) (n : Nat) (g : Frame → Frame) : State :=
  { s with path := { s.path with frames := fset n (g (frameAt s n)) s.path.frames } }

/-- The state without a frame: its cells are free. -/
def delFrame (s : State) (n : Nat) : State := { s with path := { s.path with frames := fdel n s.path.frames } }

/-- A new frame, and its number. -/
def newFrame (s : State) (f : Frame) : Nat × State :=
  (s.path.nextFid, { s with path := { s.path with
    frames := fset s.path.nextFid f s.path.frames
    nextFid := s.path.nextFid + 1 } })

/-- A frame's handle: its first cell (R90). -/
def pbhOf (f : Frame) : Nat := f.cells.headD 0xFFFFF

/-- The frame that a handle names. -/
def frameOf (s : State) (pbh : Nat) : Option Nat := (s.path.frames.find? (fun p => p.2.cells.head? == some pbh)).map (fun p => p.1)

/-! ### Cells -/

/-- Cells that n bytes take; every frame takes at least one, which its handle names. -/
def cellsFor (n : Nat) : Nat := max 1 ((n + 255) / 256)

/-- Whether a cell is free. -/
def cellFree (s : State) (c : Nat) : Bool := decide (c < 196608) && !s.path.frames.any (fun p => p.2.cells.contains c)

/-- Whether a list of cells has no repeats. -/
def noRepeat : List Nat → Bool
  | [] => true
  | a :: r => !r.contains a && noRepeat r

/-- Whether `cells` are n distinct free cells: the allocation that an event brings with it. -/
def cellsOk (s : State) (cells : List Nat) (n : Nat) : Bool :=
  cells.length == n && noRepeat cells && cells.all (cellFree s)

/-- Bytes with their places in a chain of cells. -/
def cellBytes (cells : List Nat) (bs : List Byte) : List (Nat × Byte) :=
  (cells.zip (chunks 256 cells.length bs)).flatMap (fun p => addrBytes (cellBase p.1) p.2)

/-- The state with bytes written to a chain of cells. -/
def writeCells (s : State) (cells : List Nat) (bs : List Byte) : State := putDie s (cellBytes cells bs)

/-- A frame's bytes, from its cells or from HBM. -/
def frameBytes (s : State) (f : Frame) : List Byte :=
  if f.cells.isEmpty then getMem s f.spillAt f.len else (f.cells.flatMap (fun c => getMem s (cellBase c) 256)).take f.len

/-- The first of a frame's cells that holds an uncorrectable error (R92). -/
def badCell (s : State) (f : Frame) : Option Nat := f.cells.find? (fun c => badIn s (cellBase c) 256)

/-- A frame's bytes and cells replaced: cells it no longer needs are free. -/
def setFrameBytes (s : State) (n : Nat) (cells : List Nat) (bs : List Byte) : State :=
  let cs := cells.take (cellsFor bs.length)
  updFrame (writeCells s cs bs) n (fun f => { f with
    cells := cs
    len := bs.length })

/-! ### Tickets -/

/-- A frame's ticket is retired or released (R40): the rack no longer waits for it. -/
def endTicket (s : State) (bucket : Nat) (t : Word) : State :=
  { s with path := { s.path with opens := s.path.opens.filter (fun o => !(o.bucket == bucket && o.ticket == t)) } }

/-- Whether a ticket's 100 µs have not yet passed (R4, R40): at stamp + 100,000 it is over, whether or not the rack has
yet acted on it. -/
def ticketInTime (s : State) (o : OpenTicket) : Bool := decide (s.timebase.toNat < o.tick.toNat + 100000)

/-- Whether a ticket is still open. -/
def ticketOpen (s : State) (bucket : Nat) (t : Word) : Bool :=
  s.path.opens.any (fun o => o.bucket == bucket && o.ticket == t && ticketInTime s o)

/-- Whether a ticket is the earliest open one of its bucket. -/
def ticketFirst (s : State) (bucket : Nat) (t : Word) : Bool :=
  (s.path.opens.find? (fun o => o.bucket == bucket && ticketInTime s o)).any (fun o => o.ticket == t)

/-! ### Glaze channels and drops -/

/-- A shaping channel. -/
def chanAt (s : State) (p g : Nat) : Channel := fget {} s.glaze.chans (1024 * p + g)

/-- The state with a channel changed. -/
def updChan (s : State) (p g : Nat) (h : Channel → Channel) : State :=
  { s with glaze := { s.glaze with chans := fset (1024 * p + g) (h (chanAt s p g)) s.glaze.chans } }

/-- The channel that issued a slot frame. -/
def slotChan (f : Frame) : Option (Nat × Nat) :=
  match f.stage with
  | .slotPlain p g => some (p, g)
  | .slotSealed p g => some (p, g)
  | _ => none

/-- The frame carried in pieces that a frame is or belongs to, with its channel. -/
def carriedOf (s : State) (n : Nat) : Option (Nat × Nat × Nat) :=
  let f := frameAt s n
  match f.stage, slotChan f, f.gfid with
  | .staged p g, _, _ => some (p, g, n)
  | _, some (p, g), some k => some (p, g, k)
  | _, _, _ => none

/-- Whether a frame carried in pieces is still staged, or one of its pieces is in the part. -/
def carriedLives (s : State) (k : Nat) : Bool := s.path.frames.any (fun q => q.1 == k || q.2.gfid == some k)

/-- A frame counted under a drop code: a frame carried in pieces counts once, whichever of its pieces are dropped (R113). -/
def countFrame (s : State) (n code : Nat) : State :=
  match carriedOf s n with
  | none => countDrop s (frameAt s n).src code
  | some (p, g, k) =>
    if (chanAt s p g).counted.contains k then s
    else countDrop (updChan s p g (fun c => { c with counted := k :: c.counted.filter (carriedLives s) })) (frameAt s n).src code

/-- A frame is dropped (R45): one counter, its ticket retired, its cells free. -/
def dropFrame (s : State) (n code : Nat) : State :=
  let f := frameAt s n
  let s1 := countFrame s n code
  let s2 := match slotChan f with
    | some (p, g) => updChan s1 p g (fun c => { c with slots := c.slots.filter (· != n) })
    | none => endTicket s1 f.bucket f.ticket
  delFrame { s2 with path := { s2.path with pieces := s2.path.pieces.filter (fun o => o.frame != n) } } n

/-- An uncorrectable error is met in a frame's cell (R92): the frame's first where none is marked bad and the LCE alone reports
it (notes/assumptions/24.md). -/
def frameUe (s : State) (f : Frame) : State :=
  match badCell s f with
  | some c => pbUe s c
  | none => pbUe s (pbhOf f)

/-- A frame's cells are read, and an uncorrectable one is recorded (R92). -/
def meetUe (s : State) (f : Frame) : State :=
  match badCell s f with
  | some c => pbUe s c
  | none => s

end Sys2Proof.Machine
end

