-- ==== Sys2Proof/Machine/Parse.lean ====
section
/-! DEFINITION. Intake's parse of a frame (R30 step 5, R370), its flow key and classifier keys (R32, R306). -/

namespace Sys2Proof.Machine

/-- What the parse of a frame gives (R31), with the fields its keys need: SCI, SPI, the IP addresses, protocol and DSCP,
and the offset of the ports (some none: taken as zero). Kinds are numbered as R30 has them. -/
structure Parsed where
  kind : Nat := 0
  trunc : Bool := false
  frag : Bool := false
  l3off : Nat := 0xFF
  l4off : Nat := 0xFF
  secoff : Nat := 0xFF
  vids : List Nat := []
  dmac : List Byte := []
  smac : List Byte := []
  sci : List Byte := []
  spi : List Byte := []
  saddr : List Byte := []
  daddr : List Byte := []
  proto : Nat := 0
  dscp : Nat := 0
  ip : Bool := false
  ports : Option (Option Nat) := none
deriving DecidableEq, Repr

/-- 16 bits in network order at an offset. -/
def be16 (h : List Byte) (o : Nat) : Nat := byteAt h o * 256 + byteAt h (o + 1)

/-- VLAN tags (R30): the VIDs and the offset of the EtherType after them. -/
def vlanTags (h : List Byte) : List Nat × Nat :=
  if be16 h 12 = 0x88A8 ∨ be16 h 12 = 0x8100 then
    if be16 h 16 = 0x8100 then ([be16 h 14 % 4096, be16 h 18 % 4096], 20) else ([be16 h 14 % 4096], 16)
  else ([], 12)

/-- What a UDP header at l4 of a datagram that ends at `e` makes of it (R30, R370). -/
inductive UdpKind where
  | beyond | plain | ike | esp
deriving DecidableEq, Repr

/-- R30: the port-500 and port-4500 datagrams. -/
def udpKind (h : List Byte) (l4 e : Nat) : UdpKind :=
  let n := e - (l4 + 8)
  if 128 < l4 + 8 then .beyond
  else if be16 h (l4 + 2) = 500 then .ike
  else if be16 h (l4 + 2) ≠ 4500 then .plain
  else if 128 < l4 + 8 + min n 4 then .beyond
  else if n = 1 ∧ byteAt h (l4 + 8) = 0xFF then .ike
  else if n < 4 then .plain
  else if slice h (l4 + 8) 4 = [0, 0, 0, 0] then .ike
  else .esp

/-- An ESP header at offset o (R30, R370): kind k, or MALFORMED for SPI 0 outside a fragment. The SPI of a datagram that holds
fewer than four bytes there is what follows it in the frame, of which the spec says nothing (notes/assumptions/18.md). -/
def espParse (h : List Byte) (x : Parsed) (k o l4 : Nat) (frag : Bool) : Parsed :=
  let spi := if frag then [0, 0, 0, 0] else slice h o 4
  { x with
    kind := if !frag && spi == [0, 0, 0, 0] then 11 else k
    frag := frag
    l4off := l4
    spi := spi }

/-- The upper header of an IP datagram that ends at `e` at offset l4 (R30, R370): v6, fragment, first fragment. Ports that lie
beyond byte 127 are zeros in the flow key, or left out where the header does, of which the spec says nothing
(notes/assumptions/18.md). -/
def upperParse (h : List Byte) (x : Parsed) (v6 frag first : Bool) (l4 e : Nat) : Parsed :=
  let past : Parsed := if v6 then { x with trunc := true } else x
  let tcpUdp := x.proto == 6 || x.proto == 17
  if frag && x.proto == 50 then espParse h x (if v6 then 5 else 4) l4 (if first && decide (l4 < 128) then l4 else 0xFF) true
  else if !first then { x with ports := if tcpUdp then some none else none }
  else if x.proto = 50 then (if 128 < l4 + 4 then past else espParse h x (if v6 then 5 else 4) l4 l4 false)
  else if x.proto = 17 then match udpKind h l4 e with
    | .beyond => past
    | .plain => { x with l4off := l4, ports := some (some l4) }
    | .ike => { x with kind := if v6 then 10 else 9, l4off := l4, ports := some (some l4) }
    | .esp => espParse h x (if v6 then 7 else 6) (l4 + 8) l4 frag
  else if 128 ≤ l4 then past
  else { x with l4off := l4, ports := if x.proto = 6 then some (some l4) else none }

/-- IPv4 at offset o of a frame of n bytes. -/
def ip4Parse (h : List Byte) (n o : Nat) (x : Parsed) : Parsed :=
  let ihl := byteAt h o % 16
  let tot := be16 h (o + 2)
  let fo := be16 h (o + 6) % 0x4000
  if byteAt h o / 16 ≠ 4 ∨ ihl < 5 ∨ n - o < tot then { x with kind := 11 }
  else
    let y := { x with
      kind := 1
      l3off := o
      ip := true
      saddr := slice h (o + 12) 4
      daddr := slice h (o + 16) 4
      proto := byteAt h (o + 9)
      dscp := byteAt h (o + 1) / 4 }
    upperParse h y false (fo != 0) (fo % 0x2000 == 0) (o + 4 * ihl) (o + tot)

/-- The walk of IPv6 extension headers (R30): the header where it stops and its offset, none when it reaches byte 128
without ending. -/
def ip6Walk (h : List Byte) : Nat → Nat → Nat → Option (Nat × Nat)
  | 0, _, _ => none
  | f + 1, nh, o =>
    if nh = 0 ∨ nh = 43 ∨ nh = 60 then
      if 128 < o + 2 then none else ip6Walk h f (byteAt h o) (o + 8 * (byteAt h (o + 1) + 1))
    else some (nh, o)

/-- IPv6 at offset o of a frame of n bytes. A Fragment header that byte 128 cuts still shows its Next Header, which alone
makes a fragment of ESP one. A fragment with offset 0 is classified as the whole datagram would be: the walk goes on behind
its Fragment header, and a chain that ends in ESP makes it a fragment of ESP (R370; notes/assumptions/18.md). -/
def ip6Parse (h : List Byte) (n o : Nat) (x : Parsed) : Parsed :=
  let plen := be16 h (o + 4)
  if byteAt h o / 16 ≠ 6 ∨ n - (o + 40) < plen then { x with kind := 11 }
  else
    let y := { x with
      kind := 2
      l3off := o
      ip := true
      saddr := slice h (o + 8) 16
      daddr := slice h (o + 24) 16
      dscp := (byteAt h o % 16 * 256 + byteAt h (o + 1)) / 64 }
    match ip6Walk h 17 (byteAt h (o + 6)) (o + 40) with
    | none => { y with trunc := true }
    | some (nh, q) =>
      if nh = 44 then
        if 128 ≤ q then { y with proto := nh, trunc := true }
        else
          let z := { y with proto := byteAt h q }
          if q + 4 ≤ 128 ∧ be16 h (q + 2) / 8 = 0 then
            match ip6Walk h 17 z.proto (q + 8) with
            | none => { y with trunc := true }
            | some (k, l) => upperParse h { y with proto := k } true true true l (o + 40 + plen)
          else if q + 4 ≤ 128 ∨ z.proto = 50 then upperParse h z true true false (q + 8) (o + 40 + plen)
          else { z with trunc := true }
      else upperParse h { y with proto := nh } true false true q (o + 40 + plen)

/-- MACsec's SecTAG at offset o (its EtherType): MALFORMED for V = 1, ES = SC = 1 or SL of 48 or more (R30); the SCI with
SC = 0 is the source MAC and port 0x0001 (R32). -/
def macsecParse (h : List Byte) (o : Nat) (x : Parsed) : Parsed :=
  let tci := byteAt h (o + 2)
  { x with
    kind := if nbit tci 7 || (nbit tci 6 && nbit tci 5) || decide (48 ≤ byteAt h (o + 3) % 64) then 11 else 3
    secoff := o
    sci := if nbit tci 5 then slice h (o + 8) 8 else slice h 6 6 ++ [0, 1] }

/-- The parse of a frame within its first 128 bytes. -/
def parseFrame (bs : List Byte) : Parsed :=
  let h := fit bs 128
  let (vids, o) := vlanTags h
  let x : Parsed := { vids := vids, dmac := slice h 0 6, smac := slice h 6 6 }
  let et := be16 h o
  if et = 0x88E5 then macsecParse h o x
  else if et = 0x888E then { x with kind := 8 }
  else if et = 0x0800 then ip4Parse h bs.length (o + 2) x
  else if et = 0x86DD then ip6Parse h bs.length (o + 2) x
  else x

/-! ### Keys -/

/-- The VID of a tag, 0xFFFF where it is absent (R32, R306). -/
def vidOf (x : Parsed) (i : Nat) : Nat := x.vids.getD i 0xFFFF

/-- Whether a kind is one of ESP's. -/
def isEsp (k : Nat) : Bool := decide (4 ≤ k) && decide (k ≤ 7)

/-- The flow key (R32). -/
def flowKey (h : List Byte) (x : Parsed) : List Byte :=
  if x.kind = 3 then x.sci
  else if isEsp x.kind then x.spi ++ x.daddr
  else if x.ip then x.saddr ++ x.daddr ++ [BitVec.ofNat 8 x.proto] ++ (match x.ports with
    | none => []
    | some none => [0, 0, 0, 0]
    | some (some o) => slice h o 4)
  else x.smac ++ x.dmac ++ beBytes 2 (vidOf x 0)

/-- The 24-byte exact-match key (R306). -/
def emKey (src : Nat) (x : Parsed) : List Byte :=
  let s := BitVec.ofNat 8 src
  fit (if x.kind = 3 then s :: 0 :: x.sci
    else if isEsp x.kind then s :: (if x.daddr.length = 16 then 2 else 1) :: (x.spi ++ x.daddr)
    else s :: 3 :: (beBytes 2 (vidOf x 0) ++ beBytes 2 (vidOf x 1) ++ x.dmac)) 24

/-- The 12-byte wildcard tuple (R32). Protocol, DSCP and destination of a frame without an IP header, and the protocol where
the walk of extension headers is cut, are zeros, of which the spec says nothing (notes/assumptions/49.md). -/
def wildTuple (src : Nat) (x : Parsed) : List Byte :=
  let d := if x.daddr.length = 16 then x.daddr.take 6 else if x.daddr.length = 4 then [0, 0] ++ x.daddr
    else List.replicate 6 0
  [BitVec.ofNat 8 src, BitVec.ofNat 8 x.kind] ++ beBytes 2 (vidOf x 0) ++ [BitVec.ofNat 8 x.proto, BitVec.ofNat 8 x.dscp] ++ d

/-- Whether a wildcard rule matches a tuple: equal in the bits its mask selects. -/
def wildMatch (t : List Byte) (r : WildRule) : Bool :=
  (List.range 12).all (fun i => (r.mask.getD i 0) &&& (r.value.getD i 0) == (r.mask.getD i 0) &&& (t.getD i 0))

end Sys2Proof.Machine
end

