-- ==== Sys2Proof/Machine/Intake.lean ====
section
/-! DEFINITION. Intake (R23, R30 to R34, R40): the sequence of R30, steering with holds and dealing (R124 to R127, R137),
frames from the host (R295), and the delivery of items to the vents' input rings (R154, R155). -/

namespace Sys2Proof.Machine

/-! ### Steering -/

/-- The bank that serves a frame: host frames have the bank of their ring's function (R124). -/
def frameBank (s : State) (f : Frame) : Nat := bankOf s (if f.src = 32 then 32 + f.hfunc else f.src)

/-- Whether the bank of a frame's source is being switched (R137). -/
def srcSwitching (s : State) (f : Frame) : Bool :=
  s.easel.switching.any (fun p => p.1 == (if f.src = 32 then 32 + f.hfunc else f.src))

/-- Whether a frame is dealt over its vent set (R125). -/
def frameDealt (s : State) (f : Frame) : Bool :=
  let c := (setAt s f.epoch).sub
  let partner := (fget {} c f.src).partner
  f.action == 3 && f.role && decide (partner < 32) && !(fget {} c partner).cipher && decide (64 ≤ f.win)

/-- An item joins those that wait for a vent's input ring. -/
def pushItem (s : State) (v : Nat) (it : Item) : State :=
  updVent s v (fun x => { x with inp := { x.inp with items := x.inp.items ++ [it] } })

/-- Where an item stands now: only a frame records it. -/
def itemStage (s : State) (it : Item) (st : Stage) : State :=
  match it with
  | .frame n => updFrame s n (fun f => { f with stage := st })
  | _ => s

/-- An item goes to the vent set of entry b of bank j: round robin where it is dealt, else to VENT. -/
def dealItem (s : State) (it : Item) (j b : Nat) (deal : Bool) : State :=
  let e := steerAt s j b
  let k := fget 0 s.path.deal (4096 * j + b)
  let v := if deal then e.vent + k % 2 ^ e.spread else e.vent
  let s1 := if deal then { s with path := { s.path with deal := fset (4096 * j + b) (k + 1) s.path.deal } } else s
  let s2 := match it with
    | .frame n => { s1 with path := { s1.path with dealtTo := fset (4096 * j + b) (frameAt s n).ticket s1.path.dealtTo } }
    | _ => s1
  pushItem (itemStage s2 it (.waiting v)) v it

/-- Whether an item is a frame that is dealt. -/
def itemDealt (s : State) : Item → Bool
  | .frame n => frameDealt s (frameAt s n)
  | _ => false

/-- An item is steered by entry b of bank j (R30 step 11): a migration of the entry holds it (R127). -/
def placeItem (s : State) (it : Item) (j b : Nat) : State :=
  if (steerAt s j b).mig then
    itemStage { s with easel := { s.easel with
        migs := s.easel.migs.map (fun m => if m.bank = j ∧ m.bucket = b then { m with held := m.held ++ [it] } else m) } }
      it (.heldMig j b)
  else dealItem s it j b (itemDealt s it)

/-- A classified frame is steered, or kept in its port buffer while its source is switched (R137). -/
def steerFrame (s : State) (n : Nat) : State :=
  let f := frameAt s n
  if srcSwitching s f then updFrame s n (fun f => { f with stage := .heldSrc })
  else placeItem s (.frame n) (frameBank s f) f.bucket

/-! ### R30 -/

/-- The epoch in force for a source (R85). -/
def srcEpoch (s : State) (src : Nat) : Bool :=
  if s.sets.flipping && s.sets.flipped.contains src then !s.sets.epoch else s.sets.epoch

/-- Bytes in a port's Intake buffer: frames that wait for their vent or for a bank switch (R155, R137). -/
def portFill (s : State) (p : Nat) : Nat :=
  (s.path.frames.map (fun q => match q.2.stage with
    | .waiting _ => if q.2.src / 8 = p then q.2.len else 0
    | .heldSrc => if q.2.src / 8 = p then q.2.len else 0
    | _ => 0)).sum

/-- R30 steps 2 and 3 for a sub-port: the first drop they give. -/
def macDrop (s : State) (src len : Nat) (fcsOk : Bool) : Option Nat :=
  let m := (subAt s src).maxframe
  if 524288 < portFill s (src / 8) + m then some 4
  else if !fcsOk then some 1
  else if len + 4 < 64 then some 2
  else if m < len + 4 then some 3
  else none

/-- What the classifier finds for a frame (R33): RULE, RTYPE and the result, none on a miss. No frame is told apart by who
sent it (R21), and each pair of ports has a mode of its own (R22). -/
def classify (c : ConfigSet) (src : Nat) (x : Parsed) : Option (Nat × Bool × RuleRes) :=
  match c.em.find? (fun p => p.2.key == emKey src x) with
  | some p => some (p.1, false, p.2.res)
  | none => (c.wild.find? (fun p => wildMatch (wildTuple src x) p.2)).map (fun p => (p.1, true, p.2.res))

/-- The security header of a frame whose first 128 bytes are h (R35, R36). -/
def secHdr (h : List Byte) (x : Parsed) : SecHdr :=
  let stop := if x.daddr.length = 16 then x.l3off + 40 + be16 h (x.l3off + 4) else x.l3off + be16 h (x.l3off + 2)
  { tci := if x.kind = 3 then byteAt h (x.secoff + 2) else 0
    sci := x.sci
    espLen := if isEsp x.kind then stop - (x.l4off + if 6 ≤ x.kind then 8 else 0) else 0 }

/-- The record of a classified frame (R31, R43, R69). -/
def frameRecord (s : State) (src func len : Nat) (cells : List Nat) (h : List Byte) (x : Parsed) : Frame :=
  let e := srcEpoch s src
  let c := setAt s e
  let a : SubAttr := if src < 32 then fget {} c.sub src else {}
  let base : Frame := {
    cells := cells
    len := len
    tick := s.timebase
    epoch := e
    role := a.cipher
    src := src
    bucket := (Config.flowHash src (flowKey h x)).toNat % 4096
    kind := x.kind
    trunc := x.trunc
    frag := x.frag
    l3off := x.l3off
    l4off := x.l4off
    secoff := x.secoff
    sec := secHdr h x
    nvlan := x.vids.length
    hfunc := func }
  match classify c src x with
  | some (r, w, res) => { base with
      rule := r
      rtype := w
      hit := true
      action := res.action
      ctx := res.ctx
      rdata := res.rdata
      win := pbWin (blkOf (ctxAt s res.ctx) e) }
  | none => { base with
      action := if a.missHost then 4 else 0
      rdata := if a.missHost then a.missq % 4096 else 0 }

/-- R30 steps 6 to 9: the first drop of a classified frame; a host frame has no port, so R19 and R34 do not touch it. -/
def classDrop (s : State) (f : Frame) : Option Nat :=
  let a := fget {} (setAt s f.epoch).sub f.src
  if !f.hit && f.action == 0 then some 12
  else if f.src < 32 ∧ (pairOf (setAt s f.epoch) f.src).isNone ∧ f.action ≠ 4 then some 8
  else if f.src < 32 ∧ f.action ≠ 1 ∧ f.role ∧ f.kind ≤ 2 then some 10
  else if f.src < 32 ∧ f.action ≠ 1 ∧ ¬ f.role ∧ a.check ∧ 3 ≤ f.kind ∧ f.kind ≤ 7 then some 9
  else if f.frag ∧ f.action ≠ 4 then some 11
  else none

/-- The role alarm of a source (R34), with its event when the bit becomes 1. -/
def roleAlarm (s : State) (src code : Nat) : State :=
  if code = 9 then
    let s1 := { s with path := { s.path with alarmP := s.path.alarmP ||| ((1 : Word) <<< src) } }
    if s.path.alarmP.getLsbD src then s1 else postEvent s1 0 2 1 (src * 256)
  else if code = 10 then
    let s1 := { s with path := { s.path with alarmC := s.path.alarmC ||| ((1 : Word) <<< src) } }
    if s.path.alarmC.getLsbD src then s1 else postEvent s1 0 2 2 (src * 256)
  else s

/-- R30 steps 10 and 11: the order ticket and the steering. -/
def ticketFrame (s : State) (f : Frame) : State :=
  let t := fget 0 s.path.lastTicket f.bucket + 1
  let (n, s1) := newFrame s { f with ticket := t }
  steerFrame { s1 with path := { s1.path with
    lastTicket := fset f.bucket t s1.path.lastTicket
    opens := s1.path.opens ++ [{ bucket := f.bucket, ticket := t, tick := f.tick }] } } n

/-- R30 from step 4 on, with the cells that the PB gives; none when they are not free cells. -/
def intakeFrame (s : State) (src func : Nat) (bs : List Byte) (cells : List Nat) : Option State :=
  let cost := 8 * (bs.length + 24)
  let n := cellsFor bs.length
  if s.path.tokens < cost then some (countDrop s src 6)
  else
    let s1 := { s with path := { s.path with tokens := s.path.tokens - cost } }
    if pbFree s < n + 4096 then some (countDrop s1 src 5)
    else if !cellsOk s cells n then none
    else
      let s2 := writeCells s1 cells bs
      let x := parseFrame bs
      if x.kind = 11 then some (countDrop s2 src 7)
      else
        let f := frameRecord s2 src func bs.length cells (fit bs 128) x
        match classDrop s2 f with
        | some c => some (countDrop (roleAlarm s2 src c) src c)
        | none => some (ticketFrame s2 f)

/-- Intake takes a frame that a sub-port received: its bytes from the DA on without the FCS, and the MAC's verdict on the
FCS. -/
def execFrameReceive (src : Nat) (frame : List Byte) (fcsOk : Bool) (cells : List Nat) (s : State) :
    Host.Outcome State Fault Refusal :=
  if !subUp s src then .next s
  else match macDrop s src frame.length fcsOk with
    | some c => .next (countDrop s src c)
    | none => .next ((intakeFrame s src 0 frame cells).getD s)

/-! ### Frames from the host -/

/-- Whether a FROMHOST descriptor is refused: a reserved field, or a length that R295 does not admit. -/
def fromhostBad (d : Nat) : Bool :=
  let n := nbits d 77 64 + nbits d 93 80
  nbits d 79 78 != 0 || nbits d 127 94 != 0 || nbits d 255 192 != 0 || nbits d 77 64 == 0 ||
  decide (n < 60) || decide (9796 < n)

/-- Whether a FROMHOST ring has a descriptor that the part can act on now. -/
def fromhostReady (s : State) (r : Nat) (x : Ring) : Bool :=
  s.glob.phase == .primed && decide (2 ≤ r) && x.kind == .fromhost && !x.halted && x.prod != x.cons && funcLive s x.func &&
  !s.easel.switching.any (fun p => p.1 == 32 + x.func)

/-- The descriptor's place is passed and the count of frames read is written back (R295). -/
def fromhostDone (s : State) (r : Nat) (x : Ring) (len : Nat) : State :=
  let n := (x.cons + 1) % 2 ^ x.log
  let s1 := setRing s r { x with cons := n, entries := x.entries + 1, bytes := x.bytes + BitVec.ofNat 64 len }
  let s2 := hostPut s1 x.func x.nosnoop (x.rbase.toNat + 32 * 2 ^ x.log) (leBytes 4 n)
  match x.vec with
  | some v => msixCount s2 x.func v
  | none => s2

/-- The host bridge's reads for a FROMHOST descriptor: the descriptor, and the one or two buffers of its frame (R292,
R295). -/
def fromhostAsk (s : State) (x : Ring) (d : Nat) : State :=
  ([(x.rbase.toNat + 32 * x.cons, 32), (nbits d 63 0, nbits d 77 64)] ++
    (if nbits d 93 80 = 0 then [] else [(nbits d 191 128, nbits d 93 80)])).foldl
    (fun s p => hostAsk s x.func x.nosnoop false p.1 p.2) s

/-- The host bridge reads the FROMHOST descriptor next in ring order (R290) and its frame (none: it cannot be read; which
of two segments failed is left open), which enters Intake as source 32. -/
def execFromhostDescriptor (r : Nat) (desc : List Byte) (frame : Option (List Byte)) (cells : List Nat) (s : State) :
    Host.Outcome State Fault Refusal :=
  match ringAt s r with
  | none => .next s
  | some x =>
    let d := leNat (fit desc 32)
    if !fromhostReady s r x then .next s
    else if fromhostBad d then .next (haltRing (hostAsk s x.func x.nosnoop false (x.rbase.toNat + 32 * x.cons) 32) r 1 false)
    else match frame with
      | none =>
        let (k, s1) := drawFree (fromhostAsk s x d)
        let a := if nbits d 93 80 = 0 ∨ k % 2 = 0 then nbits d 63 0 else nbits d 191 128
        .next (haltRing (hostReadBad s1 a) r 6 false)
      | some bs =>
        if bs.length ≠ nbits d 77 64 + nbits d 93 80 then .next s
        else match intakeFrame (fromhostAsk s x d) 32 x.func bs cells with
          | none => .next s
          | some s1 => .next (fromhostDone s1 r x bs.length)

/-! ### Input rings -/

/-- A frame's descriptor (R31). -/
def frameDesc (f : Frame) : Nat :=
  f.tick.toNat + pbhOf f * 2 ^ 64 + b2n f.epoch * 2 ^ 84 + b2n f.role * 2 ^ 85 + f.src * 2 ^ 86 + f.len * 2 ^ 96 +
  f.bucket * 2 ^ 110 + f.kind * 2 ^ 122 + b2n f.trunc * 2 ^ 126 + b2n f.frag * 2 ^ 127 + f.ticket.toNat * 2 ^ 128 +
  f.l3off * 2 ^ 160 + f.l4off * 2 ^ 168 + f.secoff * 2 ^ 176 + f.nvlan * 2 ^ 184 + f.rule * 2 ^ 192 +
  b2n f.rtype * 2 ^ 209 + b2n f.hit * 2 ^ 210 + f.action * 2 ^ 211 + f.ctx * 2 ^ 224 + f.rdata * 2 ^ 240

/-- A marker's entry (R127). -/
def markerEntry (m : Migration) : List Byte :=
  leBytes 32 (m.start.toNat + 0xFFFFF * 2 ^ 64 + m.bucket * 2 ^ 110 + m.lastTicket.toNat * 2 ^ 128) ++
  leBytes 4 m.migno.toNat ++ [BitVec.ofNat 8 m.toV, BitVec.ofNat 8 m.bank] ++ List.replicate 122 0

/-- The entry of an item and its kind byte (R154): none for a marker whose migration is over. -/
def itemEntry (s : State) : Item → Option (List Byte × Byte)
  | .frame n => let f := frameAt s n; some (leBytes 32 (frameDesc f) ++ fit (frameBytes s f) 128, 1)
  | .marker k => (s.easel.migs.find? (fun m => m.migno.toNat == k)).map (fun m => (markerEntry m, 2))
  | .slot _ _ n => let f := frameAt s n; some (leBytes 32 f.desc.toNat ++ fit (frameBytes s f) 128, 3)

/-- What an item's delivery to vent v changes beside the ring. -/
def itemArrived (s : State) (v : Nat) : Item → State
  | .frame n => updFrame s n (fun f => { f with stage := .atVent v })
  | .marker k => { s with easel := { s.easel with
      migs := s.easel.migs.map (fun m => if m.migno.toNat = k then { m with arrived := fset v s.timebase m.arrived } else m) } }
  | .slot _ _ _ => s

/-- An item is written to a vent's input ring (R154, R155): the entry, the kind byte, then the producer count. -/
def deliverEntry (s : State) (v : Nat) (e : List Byte) (k : Byte) : State :=
  let x := (ventAt s v).inp
  let depth := wbits x.cfg 22 12
  let base := palBase v + wbits x.cfg 11 0 * 64
  let i := x.count % depth
  let s1 := putDie s (addrBytes (base + 160 * i) e ++ [(base + 160 * depth + 16 + i, k)] ++
    addrBytes (base + 160 * depth) (leBytes 4 (x.prod + 1).toNat))
  updVent s1 v (fun y => { y with inp := { y.inp with
    prod := y.inp.prod + 1
    count := y.inp.count + 1
    items := y.inp.items.tail } })

/-- Whether a vent's input ring can take an item. -/
def inputRoom (s : State) (v : Nat) : Bool :=
  let x := (ventAt s v).inp
  ventFitted s v && x.cfg.getLsbD 24 && decide ((x.prod - x.cons).toNat < wbits x.cfg 22 12) &&
  (calAt s (v / 8)).power == .on

/-- What a slot record's item reads of the PB to fill its entry: the first cell of its plaintext (R92, R107). Intake fills a
frame's entry from its port buffer. -/
def itemMet (s : State) : Item → State
  | .slot _ _ n => let f := frameAt s n; meetUe s { f with cells := f.cells.take 1 }
  | _ => s

/-- The producer writes the first waiting item into a vent's input ring once there is room; the write waits for a lock that
the host bridge holds on the palette's port (R264). -/
def execInputEntryDelivery (v : Nat) (s : State) : Host.Outcome State Fault Refusal :=
  match (ventAt s v).inp.items with
  | [] => .next s
  | it :: _ =>
    if !inputRoom s v || matLocked .intake (palBase v) s then .next s
    else match itemEntry s it with
      | some (e, k) => .next (itemArrived (deliverEntry (itemMet s it) v e k) v it)
      | none => .next (updVent s v (fun y => { y with inp := { y.inp with items := y.inp.items.tail } }))

end Sys2Proof.Machine
end

