-- ==== Sys2Proof/Machine/GlazeBase.lean ====
section
/-! DEFINITION. Glaze's profiles and schedules (R86, R108 to R110, R117 to R120): the profile in force on a channel, its
slots, and the lengths a slot frame can have. -/

namespace Sys2Proof.Machine

/-! ### Profiles (R119) -/

/-- A channel's profile in the set of epoch e. -/
def gprofOf (s : State) (e : Bool) (p g : Nat) : Nat := (fget 0 (setAt s e).gprof (1024 * p + g)).toNat

/-- MODE: 0 OFF, 1 CONSTANT, 2 MASKED. -/
def pMode (x : Nat) : Nat := nbits x 1 0
/-- SUBIDX. -/
def pSub (x : Nat) : Nat := nbits x 4 2
/-- XHDR. -/
def pXhdr (x : Nat) : Nat := nbits x 15 8
/-- CTX. -/
def pCtx (x : Nat) : Nat := nbits x 31 16
/-- SIZE. -/
def pSize (x : Nat) : Nat := nbits x 45 32
/-- INTERVAL, in 1/64 ns. -/
def pInterval (x : Nat) : Nat := nbits x 79 48
/-- LEAD, in ns. -/
def pLead (x : Nat) : Nat := nbits x 95 80
/-- TABLE. -/
def pTable (x : Nat) : Nat := nbits x 100 96

/-- The sub-port that a channel feeds (R119). -/
def chanSrc (s : State) (p g : Nat) : Nat := 8 * p + pSub (gprofOf s (chanAt s p g).epoch p g)

/-! ### Lengths (R110) -/

/-- The overhead of a channel's context under epoch e, less XHDR: all that an OFF profile has (R119). -/
def ctxOverhead (s : State) (e : Bool) (x : Nat) : Nat :=
  let b := blkOf (ctxAt s (pCtx x)) e
  if pbProto b = 2 then (if nbit b 15 then (if nbit b 14 then 100 else 92) else (if nbit b 14 then 80 else 72))
  else if nbit b 11 then 48 else 40

/-- The overhead F of a channel's context under epoch e. -/
def chanOverhead (s : State) (e : Bool) (x : Nat) : Nat := pXhdr x + ctxOverhead s e x

/-- Whether a channel's context is ESP. -/
def chanEsp (s : State) (e : Bool) (x : Nat) : Bool := pbProto (blkOf (ctxAt s (pCtx x)) e) == 2

/-- S′: the largest length at or below `m` that the protocol can produce; 0 where ESP can produce none, of which the spec
says nothing (notes/assumptions/51.md). -/
def slotLen (esp : Bool) (f m : Nat) : Nat := if esp then (if m + 2 < f then 0 else m - (m + 2 - f) % 4) else m

/-- The capacity C of a slot frame of length S′. -/
def slotCap (esp : Bool) (f s' : Nat) : Nat := if esp then s' - f else s' - f - 14

/-! ### Schedules -/

/-- The two 12-bit indices, for size and for interval, that a MASKED slot consumes after n draws (R118): the SHAKE256 stream of
the seed and the channel number, 12 bits a draw. How the number is spelled and the bits are taken is left open
(notes/assumptions/51.md). -/
def maskIndices (seed : List Byte) (ch n : Nat) : Nat × Nat :=
  let x := leNat ((shake256 (seed ++ leBytes 2 ch) (3 * (n / 2) + 3)).drop (3 * (n / 2)))
  (x % 4096, x / 4096)

/-- The slot of number k opens at `start` (1/64 ns) under the profile in force (R108, R109, R118). A table pair never
written holds zeros, as stage A leaves it (R322). Once no frame of the old epoch remains, Glaze works under the new set
alone (R88), and a slot that still opens under the old set's profile is stale. -/
def openSlot (s : State) (p g start k : Nat) : State :=
  let c := chanAt s p g
  let x := gprofOf s c.epoch p g
  let put (len size n : Nat) : State :=
    updChan s p g (fun c => { c with
      slotEp := if s.sets.copying then s.sets.epoch else c.epoch
      prof := BitVec.ofNat 512 x
      stale := s.sets.copying && c.epoch != s.sets.epoch
      running := true
      start := start
      len := len
      size := size
      slotNo := k
      draws := c.draws + n })
  if pMode x = 1 then put (pInterval x) (pSize x) 0
  else if pMode x = 2 then
    let t := fget {} (setAt s c.epoch).tables (pTable x)
    let (a, b) := maskIndices c.seed (1024 * p + g) c.draws
    put (t.intervals.getD b 0) (t.sizes.getD a 0) 2
  else updChan s p g (fun c => { c with running := false })

/-- A channel's generator takes a fresh seed from KC's random bits (R118). -/
def reseedChan (s : State) (p g : Nat) : State :=
  let (r, s1) := drawRandom s 32
  updChan s1 p g (fun c => { c with
    seed := r
    draws := 0 })

/-- The tick at which a channel's open slot ends (R108). -/
def slotEnd (c : Channel) : Nat := (c.start + c.len) / 64

/-- A profile takes effect on a channel (R86, R108, R118, R120): a running schedule goes on to the end of its slot, and a
channel that was OFF starts slot 0 at this tick. -/
def chanTurn (s : State) (p g : Nat) (e : Bool) : State :=
  let s1 := updChan s p g (fun c => { c with
    epoch := e
    turn := none })
  let m := pMode (gprofOf s e p g)
  let s2 := if m = 2 then reseedChan s1 p g else s1
  if (chanAt s p g).running ∨ m = 0 then s2 else openSlot s2 p g (s.timebase.toNat * 64) 0

/-- A profile reaches a channel. At the tick at which a slot ends the next one is open (R4), and goes to its own end under the
profile in force until now (R120): a change then waits until that slot has opened. -/
def chanTake (s : State) (p g : Nat) (e : Bool) : State :=
  let c := chanAt s p g
  if c.running ∧ slotEnd c ≤ s.timebase.toNat then updChan s p g (fun c => { c with
    turn := if c.epoch = e then none else some (e, s.timebase.toNat) })
  else chanTurn s p g e

/-- The slot after the open one opens; a change that reached the channel before its end takes effect on the one after. -/
def nextSlot (s : State) (p g : Nat) : State :=
  let c := chanAt s p g
  let s1 := openSlot s p g (c.start + c.len) (c.slotNo + 1)
  match c.turn with
  | some (e, t) => if ¬ (chanAt s1 p g).running ∨ t < slotEnd (chanAt s1 p g) then chanTurn s1 p g e else s1
  | none => s1

/-- The queues that feed a channel. -/
def chanQueues (s : State) (p g : Nat) : List (Nat × Queue) :=
  s.qm.queues.filter (fun q => q.2.dkind == 1 && q.2.subport / 8 == p && q.2.gchan == g)

/-- The frames that a channel holds: queued, or carried in pieces. That slot frames it has issued are none of them is the
model's choice (notes/assumptions/51.md). -/
def chanFrames (s : State) (p g : Nat) : List Nat :=
  (chanQueues s p g).flatMap (fun q => queueFrames q.2) ++ (match (chanAt s p g).carry with
    | some (n, _) => [n]
    | none => [])

/-- A frame enters a channel (R86): a channel that held none takes the frame's epoch. -/
def chanEnter (s : State) (p g : Nat) (e : Bool) : State :=
  if (chanFrames s p g).isEmpty && (chanAt s p g).epoch != e then chanTake s p g e else s

/-- The channels that have a state or a profile. -/
def knownChans (s : State) : List Nat :=
  (s.glaze.chans.map (fun p => p.1) ++ s.sets.set0.gprof.map (fun p => p.1) ++ s.sets.set1.gprof.map (fun p => p.1)).eraseDups

/-- Whether the flip to epoch e leaves a channel as it is: it holds a frame of the old epoch, the change has reached it
already, or it works under that epoch, with a schedule where its profile has one (R86, R108). -/
def flipSkips (s : State) (p g : Nat) (e : Bool) : Bool :=
  let c := chanAt s p g
  (chanFrames s p g).any (fun n => (frameAt s n).epoch != e) ||
    (if c.epoch = e then c.running || pMode (gprofOf s e p g) == 0 else c.turn.any (fun t => t.1 == e))

/-- The flip to epoch e reaches the channels (R86): one that holds no frame of the old epoch takes the new one, and slot 0 of
its first schedule starts (R108). -/
def chansFlip (s : State) (e : Bool) : State :=
  (knownChans s).foldl (fun s k =>
    if flipSkips s (k / 1024) (k % 1024) e then s else chanTake s (k / 1024) (k % 1024) e) s

/-- A channel as the old set leaves it (R88): an open slot that this set's profile opened is stale, and is the new epoch's. -/
def Channel.leave (c : Channel) (e : Bool) : Channel := { c with
  stale := c.stale || c.slotEp != e
  slotEp := e }

/-- The old set serves no channel from here on (R88): those it still served take the new one, and their open slots run to
their ends without content. -/
def chansLeave (s : State) (e : Bool) : State :=
  let s1 := chansFlip s e
  { s1 with glaze := { s1.glaze with chans := s1.glaze.chans.map (fun k => (k.1, k.2.leave e)) } }

/-- Changes of profile that still waited for a slot to open take effect when the old set is gone (R85), with a fresh seed
where the new profile is MASKED (R118). -/
def chansSettle (s : State) (e : Bool) : State :=
  let s1 := (s.glaze.chans.map (fun k => k.1)).foldl (fun s k =>
    if (chanAt s (k / 1024) (k % 1024)).epoch = e then s else chanTurn s (k / 1024) (k % 1024) e) s
  { s1 with glaze := { s1.glaze with chans := s1.glaze.chans.map (fun k => (k.1, { k.2 with
    slotEp := e
    turn := none })) } }

/-! ### Wire times -/

/-- A sub-port's rate in Gbit/s, with the lanes it uses (R28). -/
def subRate (s : State) (src : Nat) : Nat := 100 * popCount 8 (usedLanes (portAt s (src / 8)) (src % 8))

/-- The wire time in 1/64 ns of a frame of n bytes without FCS (R14: FCS, preamble and gap take 24 bytes). -/
def wireTime (rate n : Nat) : Nat := (n + 24) * 512 / rate

/-- KIND of a slot frame. -/
def slotKind (f : Frame) : Nat := wbits f.desc 86 84

/-- The sub-port that a slot frame of port p was built for. -/
def slotSub (p : Nat) (f : Frame) : Nat := 8 * p + wbits f.desc 101 99

/-- The next wire time of a channel's slot frames for sub-port `src`, in 1/64 ns (R108): of the first issued one, else of the
open slot. -/
def chanWire (s : State) (p g src : Nat) : Option Nat :=
  let c := chanAt s p g
  let x := c.prof.toNat
  match c.slots.find? (fun n => slotKind (frameAt s n) != 0 && slotSub p (frameAt s n) == src) with
  | some n => some (frameAt s n).wire
  | none => if c.running ∧ 8 * p + pSub x = src then some (c.start + 64 * pLead x) else none

/-- The next slot frame's wire time on a sub-port (R115). -/
def nextWire (s : State) (src : Nat) : Option Nat :=
  (s.glaze.chans.filterMap (fun k => chanWire s (k.1 / 1024) (k.1 % 1024) src)).min?

/-- Whether a frame of n bytes that starts now ends by the wire time of the next slot frame (R115). -/
def fitsBefore (s : State) (src n : Nat) : Bool :=
  match nextWire s src with
  | none => true
  | some w => decide (s.timebase.toNat * 64 + wireTime (subRate s src) n ≤ w)

end Sys2Proof.Machine
end

