-- ==== Sys2Proof/Machine/Qm.lean ====
section
/-! DEFINITION. QM: the rack (R40, R116), the entrance (R43, R96), queues, cache, spill and return (R93 to R99), and the
scheduling nodes (R102 to R104). -/

namespace Sys2Proof.Machine

/-! ### Queues -/

/-- A queue. -/
def queueAt (s : State) (q : Nat) : Queue := fget {} s.qm.queues q

/-- The state with a queue changed. -/
def updQueue (s : State) (q : Nat) (g : Queue → Queue) : State :=
  { s with qm := { s.qm with queues := fset q (g (queueAt s q)) s.qm.queues } }

/-- The bytes of some frames. -/
def framesLen (s : State) (l : List Nat) : Nat := (l.map (fun n => (frameAt s n).len)).sum

/-- Weight profile w of the set of epoch e: class 7 and quantum 2,048 until written (R102). -/
def wprofOf (s : State) (e : Bool) (w : Nat) : Nat :=
  match ffind (setAt s e).wprof w with
  | some x => x.toNat
  | none => 7 + 2048 * 8

/-- The frame at a queue's head. -/
def queueHead (x : Queue) : Option Nat := (queueFrames x).head?

/-- The profile that schedules a queue now (R86): of the set named by the epoch of its head. -/
def queueProf (s : State) (x : Queue) : Nat :=
  match queueHead x with
  | some n => wprofOf s (frameAt s n).epoch x.wprof
  | none => 0

/-! ### Nodes -/

/-- A scheduling node: a sub-port or a shaping channel. -/
inductive Node where
  | sub (src : Nat) | chan (p g : Nat)
deriving DecidableEq, Repr

/-- The node of a queue. -/
def nodeOf (x : Queue) : Option Node :=
  if x.dkind = 0 then some (.sub x.subport) else if x.dkind = 1 then some (.chan (x.subport / 8) x.gchan) else none

/-- A node's class lists. -/
def nodeLists (s : State) : Node → FMap (List Nat)
  | .sub src => (subAt s src).active
  | .chan p g => (chanAt s p g).active

/-- The state with a node's class lists replaced. -/
def setLists (s : State) (nd : Node) (l : FMap (List Nat)) : State :=
  match nd with
  | .sub src => updSub s src (fun x => { x with active := l })
  | .chan p g => updChan s p g (fun c => { c with active := l })

/-- A queue leaves its node's lists with DEFICIT 0. -/
def leaveNode (s : State) (q : Nat) : State :=
  match nodeOf (queueAt s q) with
  | none => s
  | some nd => updQueue (setLists s nd ((nodeLists s nd).map (fun p => (p.1, p.2.filter (· != q))))) q (fun x => { x with deficit := 0 })

/-- A queue joins the back of its class list with DEFICIT 0. -/
def joinNode (s : State) (q : Nat) : State :=
  match nodeOf (queueAt s q) with
  | none => s
  | some nd =>
    updQueue (setLists s nd (fupd [] (queueProf s (queueAt s q) % 8) (fun l => l ++ [q]) (nodeLists s nd))) q
      (fun x => { x with deficit := 0 })

/-- The class list that holds a queue, if any. -/
def listedClass (s : State) (q : Nat) : Option Nat :=
  match nodeOf (queueAt s q) with
  | none => none
  | some nd => ((nodeLists s nd).find? (fun p => p.2.contains q)).map (fun p => p.1)

/-- A queue's place after its head or its on-die part has changed (R103): it is listed while its head is on die, in the
class its head's epoch gives it. -/
def settleNode (s : State) (q : Nat) : State :=
  let x := queueAt s q
  match listedClass s q with
  | none => if x.ondie.isEmpty then s else joinNode s q
  | some c =>
    if x.ondie.isEmpty then leaveNode s q
    else if queueProf s x % 8 = c then s
    else joinNode (leaveNode s q) q

/-! ### Spill (R98, R99) -/

/-- The first segment from `x` on that no queue holds. -/
def findSeg (used : List Nat) (n : Nat) : Nat → Nat → Nat
  | 0, x => x % n
  | f + 1, x => if used.contains (x % n) then findSeg used n f (x + 1) else x % n

/-- SPILLED ends when the on-die bytes are below SPILLTH × 2,048 with an empty HBM part (R98). -/
def settleSpill (s : State) (q : Nat) : State :=
  let x := queueAt s q
  if x.spilled && x.hbm.isEmpty && decide (framesLen s x.ondie < x.spillth * 2048) then updQueue s q (fun x => { x with spilled := false })
  else s

/-- The matrix address of byte o of spill segment k (R99). -/
def segAddr (s : State) (k o : Nat) : Nat := s.qm.spillBase * 2 ^ 16 + k * 65536 + o

/-- Where a frame goes in a queue's spill segments: the segment, its offset in it, and the state that has the segment; none
when it needs a segment and none is free. A frame never straddles two segments: one that does not fit in the rest of the
last opens a new one, of which the spec says nothing (notes/assumptions/51.md). Which free segment it takes is left open. -/
def spillPlace (s : State) (q len : Nat) : Option (Nat × Nat × State) :=
  let x := queueAt s q
  match x.segs.getLast? with
  | some (k, _) => if x.tailUsed + len ≤ 65536 then some (k, x.tailUsed, s) else fresh s
  | none => fresh s
where
  /-- A free segment is taken. -/
  fresh (s : State) : Option (Nat × Nat × State) :=
    if s.qm.spillSegs ≤ s.qm.segUsed.length then none
    else
      let (r, s1) := drawFree s
      let k := findSeg s1.qm.segUsed s1.qm.spillSegs (s1.qm.segUsed.length + 1) r
      let s2 := updQueue s1 q (fun x => { x with segs := x.segs ++ [(k, [])] })
      some (k, 0, { s2 with qm := { s2.qm with segUsed := k :: s2.qm.segUsed } })

/-- A write of the spill path (R260, R266): whether it is taken. Outside the fitted HBM nothing is. -/
def spillWrite (s : State) (a : Nat) (bs : List Byte) : Bool × State :=
  if a < hbmBase ∨ hbmBase + hbmSize s < a + bs.length then (false, s)
  else
    let (c, s1) := hbmWriteBytes s (addrBytes a bs)
    (c == .okay, s1)

/-- What a spill ends in: no free segment, a poisoned word met (R266), or the frame in HBM. -/
inductive SpillEnd where
  | full | lost (s : State) | held (s : State)

/-- A frame is written to the tail of a queue's HBM part; one that is lost takes no place in it. -/
def spillFrame (s : State) (q n : Nat) : SpillEnd :=
  let f := frameAt s n
  match spillPlace s q f.len with
  | none => .full
  | some (k, o, s1) =>
    let a := segAddr s1 k o
    match spillWrite (meetUe s1 f) a (frameBytes s f) with
    | (false, s2) => .lost { s2 with qm := (meetUe s f).qm }
    | (true, s2) => .held (updQueue (updFrame s2 n (fun h => { h with
        stage := .spilled q
        spillAt := a
        cells := []
        bad := h.bad || (badCell s f).isSome })) q (fun x => { x with
          hbm := x.hbm ++ [n]
          segs := x.segs.dropLast ++ [(k, (x.segs.getLastD (k, [])).2 ++ [n])]
          tailUsed := o + f.len }))

/-- A frame leaves its spill segment, which is free when it held no other (R99). -/
def unspill (s : State) (q n : Nat) : State :=
  let x := queueAt s q
  let segs := x.segs.map (fun p => (p.1, p.2.filter (· != n)))
  let gone := (segs.filter (fun p => p.2.isEmpty)).map (fun p => p.1)
  updQueue { s with qm := { s.qm with segUsed := s.qm.segUsed.filter (fun k => !gone.contains k) } } q
    (fun x => { x with segs := segs.filter (fun p => !p.2.isEmpty) })

/-- A frame leaves its queue, wherever it stands in it; the order of the others stays (R41, R101). -/
def takeFrame (s : State) (q n : Nat) : State :=
  let s1 := if (queueAt s q).hbm.contains n then unspill s q n else s
  settleSpill (settleNode (updQueue s1 q (fun x => { x with
    ondie := x.ondie.filter (· != n)
    hbm := x.hbm.filter (· != n) })) q) q

/-! ### Selecting (R103) -/

/-- Deficit round robin in one class: the queue chosen, the deficits and the list after it. -/
def drrPick (len quant : Nat → Nat) : Nat → (Nat → Nat) → List Nat → Option (Nat × (Nat → Nat) × List Nat)
  | 0, _, _ => none
  | _ + 1, _, [] => none
  | f + 1, d, q :: r =>
    if len q ≤ d q then some (q, fun k => if k = q then d q - len q else d k, q :: r)
    else drrPick len quant f (fun k => if k = q then d q + quant q else d k) (r ++ [q])

/-- A class's turn: the queue whose head goes, and the state before that head leaves it. -/
def pickClass (s : State) (nd : Node) (elig : Nat → Bool) (c : Nat) : Option (Nat × State) :=
  let l := fget [] (nodeLists s nd) c
  let ok := l.filter (fun q => (queueAt s q).ondie.head?.any elig)
  let len (q : Nat) : Nat := (match (queueAt s q).ondie with
    | n :: _ => (frameAt s n).len
    | [] => 0) + 24
  match drrPick len (fun q => queueProf s (queueAt s q) / 8) (ok.length * 128 + 1) (fun q => (queueAt s q).deficit) ok with
  | none => none
  | some (q, d, r) =>
    let s1 := setLists s nd (fset c (r ++ l.filter (fun k => !ok.contains k)) (nodeLists s nd))
    some (q, ok.foldl (fun s k => updQueue s k (fun x => { x with deficit := d k })) s1)

/-- A node's choice among the queues whose heads are eligible (R103): the frame, and the state without it in its queue. -/
def pickNode (s : State) (nd : Node) (elig : Nat → Bool) : Option (Nat × State) :=
  match (List.range 8).findSome? (pickClass s nd elig) with
  | none => none
  | some (q, s1) => match (queueAt s1 q).ondie with
    | n :: _ => some (n, takeFrame s1 q n)
    | [] => none

/-! ### The entrance (R96) -/

/-- Whether a frame of a sub-port stands before a queue of a sub-port other than its pair's other one in the set of its epoch
(R18 to R20): one in no pair sends none, and sends only what came from the host. -/
def misrouted (s : State) (f : Frame) (x : Queue) : Bool :=
  x.dkind == 0 && decide (f.src < 32) && pairOf (setAt s f.epoch) f.src != some x.subport

/-- Whether a frame lacks an LCE job that it needs to leave by a sub-port of role `out`: one of the needed direction where that
is not its source's role (R43), and both where it is a CIPHER source's frame to be deprotected (R18, R20: decrypted, then
encrypted again). -/
def lacksJobs (f : Frame) (out : Bool) : Bool :=
  f.action != 1 &&
  (if out = f.role then f.role && f.action == 3 && !(f.decDone && f.encDone) else !(if f.role then f.decDone else f.encDone))

/-- The bypass guard (R43; R17: no frame goes unprotected to make room), with the mismatch of R106. It refuses a misrouted
frame too, and a relayed one that was not decrypted and encrypted again, for which the spec names no unit and no counter
(notes/assumptions/20.md). -/
def guardRefuses (s : State) (f : Frame) (x : Queue) : Bool :=
  x.valid && x.dkind != 1 &&
  (f.stagedJob || misrouted s f x || (x.dkind == 0 && lacksJobs f (fget {} (setAt s f.epoch).sub x.subport).cipher))

/-- Queue context q (R93). Bits of x stand for what it leaves open: handles and segments where the queue has none, and
the fields of a context as QUEUE_DESTROY leaves it. -/
def queueWord (s : State) (q x : Nat) : Nat :=
  let k := queueAt s q
  let o (i n : Nat) : Nat := x / 2 ^ i % 2 ^ n
  let hd := match k.ondie.head? with
    | some n => pbhOf (frameAt s n)
    | none => o 40 20
  let tl := match k.ondie.getLast? with
    | some n => pbhOf (frameAt s n)
    | none => o 60 20
  let sh := match k.segs.head? with
    | some g => g.1
    | none => o 164 22
  let st := match k.segs.getLast? with
    | some g => g.1
    | none => o 186 22
  let fr := queueFrames k
  if k.valid then
    1 + k.dkind * 2 + k.subport * 2 ^ 3 + k.gchan * 2 ^ 8 + k.wprof * 2 ^ 18 + k.tenant * 2 ^ 30 + b2n k.spilled * 2 ^ 36 +
      hd * 2 ^ 40 + tl * 2 ^ 60 + fr.length * 2 ^ 80 + framesLen s fr * 2 ^ 100 + k.limit * 2 ^ 132 + k.spillth * 2 ^ 148 +
      sh * 2 ^ 164 + st * 2 ^ 186 + k.deficit % 2 ^ 17 * 2 ^ 208
  else o 1 36 * 2 + o 40 40 * 2 ^ 40 + o 132 93 * 2 ^ 132

/-- Queue context q is written to its place in HBM (R93). -/
def storeQueue (s : State) (q : Nat) : State :=
  let (x, s1) := drawFree s
  hbmPut s1 (addrBytes (hbmBase + 32 * q) (leBytes 32 (queueWord s q x)))

/-- The 32 bytes that STATS_READ gives for queue context q: QM's own of a queue that exists, else what stands in its place in
HBM (R93), zeros where no queue ever was (R268). -/
def queueRecord (s : State) (q x : Nat) : List Byte :=
  if (queueAt s q).valid then leBytes 32 (queueWord s q x) else getMem s (hbmBase + 32 * q) 32

/-- A queue's context is taken in the cache (R97), the least recently used unpinned one giving way to HBM; none when
every entry is pinned. DESIGN CHOICE: a frame's entrance is what uses a context; nothing else moves it in the order
(notes/assumptions/51.md). -/
def cacheTake (s : State) (q : Nat) : Option State :=
  let c := s.qm.cache
  let put (l : List Nat) : State := { s with qm := { s.qm with cache := q :: l } }
  if c.contains q then some (put (c.filter (· != q)))
  else if c.length < 262144 then some (put c)
  else match c.reverse.find? (fun k => !pinned (queueAt s k)) with
    | some k => some (storeQueue (put (c.filter (· != k))) k)
    | none => none

/-- On-die bytes of a function's queues (R99). -/
def tenantBytes (s : State) (t : Nat) : Nat :=
  (s.qm.queues.map (fun p => if p.2.tenant = t then framesLen s p.2.ondie else 0)).sum

/-- A frame joins the on-die part of a queue; the one that crosses the threshold sets SPILLED (R98). -/
def enqueueDie (s : State) (q n : Nat) : State :=
  let s1 := updQueue (updFrame s n (fun f => { f with stage := .queued q })) q (fun x => { x with ondie := x.ondie ++ [n] })
  let x := queueAt s1 q
  settleNode (if x.spillth * 4096 < framesLen s1 x.ondie then updQueue s1 q (fun x => { x with spilled := true }) else s1) q

/-- R96 step 6. -/
def placeFrame (s : State) (q n : Nat) : State :=
  let x := queueAt s q
  let cap := fget 0 s.qm.caps x.tenant
  let past := cap != 0 && decide (cap * 256 < tenantBytes s x.tenant + (frameAt s n).len)
  if x.spilled || past then match spillFrame s q n with
    | .held s1 => updQueue s1 q (fun x => { x with spilled := true })
    | .lost s1 => dropFrame s1 n 27
    | .full => dropFrame (qmErr s 0) n (if x.spilled then 27 else 28)
  else enqueueDie s q n

/-- A released frame at QM's entrance (R96 steps 2 to 6, R106). -/
def qmEnter (s : State) (n : Nat) : State :=
  let f := frameAt s n
  let q := f.queue
  let x := queueAt s q
  if guardRefuses s f x then dropFrame (if f.stagedJob then qmErr s 2 else s) n 26
  else if !x.valid then dropFrame s n 32
  else if x.limit * 4096 < framesLen s (queueFrames x) + f.len ∨ 1048575 ≤ (queueFrames x).length then
    dropFrame s n (if x.dkind = 2 then 15 else 27)
  else match cacheTake s q with
    | none => dropFrame (qmErr s 1) n 27
    | some s1 =>
      if x.dkind = 1 then
        let s2 := if f.stagedJob && f.jobGchan == x.gchan then s1 else qmErr s1 2
        let s3 := updFrame s2 n (fun f => { f with qtick := s.timebase })
        placeFrame (chanEnter s3 (x.subport / 8) x.gchan f.epoch) q n
      else placeFrame s1 q n

/-- The rack's part (R40): a frame of a retired ticket is dropped, one behind an earlier open ticket waits. -/
def rackRelease (s : State) (n : Nat) : State :=
  let f := frameAt s n
  if !ticketOpen s f.bucket f.ticket then dropFrame s n 30
  else if !ticketFirst s f.bucket f.ticket then s
  else qmEnter (endTicket s f.bucket f.ticket) n

/-! ### Carrier pieces (R116) -/

/-- The first piece of a carried frame opens it; its ticket stays open. -/
def openPiece (s : State) (n : Nat) (c : Carrier) : State :=
  let s1 := updFrame s n (fun f => { f with stage := .piece })
  let keep := s1.path.pieces.filter (fun o => !(o.ctx == c.ctx && o.slot == c.slot && o.fid == c.fid))
  { s1 with path := { s1.path with pieces := keep ++
      [{ ctx := c.ctx, slot := c.slot, fid := c.fid, frame := n, got := c.plen, total := c.total }] } }

/-- The open frame that a piece continues: one whose own ticket the rack has not retired (R40). -/
def pieceHost (s : State) (c : Carrier) : Option OpenPiece :=
  s.path.pieces.find? (fun o => o.ctx == c.ctx && o.slot == c.slot && o.fid == c.fid && o.got == c.off && decide (o.got + c.plen ≤ o.total) &&
    ticketOpen s (frameAt s o.frame).bucket (frameAt s o.frame).ticket)

/-- A piece joins an open frame: its ticket retires without a drop, and the last one gives the first its release. An
uncorrectable cell of either is recorded, and marks the joined frame (R92). -/
def joinPiece (s : State) (n : Nat) (c : Carrier) (o : OpenPiece) : State :=
  let f := frameAt s n
  let m := frameAt s o.frame
  let bs := frameBytes s m ++ frameBytes s f
  let bad := f.bad || m.bad || (badCell s f).isSome || (badCell s m).isSome
  let s0 := setFrameBytes (delFrame (endTicket (meetUe (meetUe s f) m) f.bucket f.ticket) n) o.frame (m.cells ++ f.cells) bs
  let s1 := updFrame s0 o.frame (fun h => { h with bad := bad })
  let got := o.got + c.plen
  if got = o.total then
    updFrame { s1 with path := { s1.path with pieces := s1.path.pieces.filter (· != o) } } o.frame (fun h => { h with
      stage := .inRack
      carrier := none })
  else { s1 with path := { s1.path with pieces := s1.path.pieces.map (fun k => if k = o then { k with got := got } else k) } }

/-- A frame whose job is done, in the rack: whole frames are released, pieces join (R40, R116). -/
def rackJob (s : State) (n : Nat) : State :=
  let f := frameAt s n
  match f.carrier with
  | none => rackRelease s n
  | some c =>
    if c.off = 0 ∧ c.plen = c.total then rackRelease s n
    else if !ticketOpen s f.bucket f.ticket then dropFrame s n 30
    else if c.off = 0 then openPiece s n c
    else match pieceHost s c with
      | some o => joinPiece s n c o
      | none => s

/-! ### Commands -/

/-- The codes that a vent drop can name (R45). -/
def ventCode (c : Nat) : Nat := if [13, 14, 16, 17, 18, 22, 23].contains c then c else 13

/-- The counter of a vent's drop of frame f: a frame for the host never counts in DROP_MODE (R20); the frame of a REFUSE record
is dropped in DROP_MTU (R107). -/
def ventDrop (f : Frame) (c : Nat) : Nat :=
  if slotKind f = 4 then 23 else if f.action = 4 ∧ c = 14 then 13 else ventCode c

/-- Whether a kind is of a parameter block's protocol (R45). -/
def kindFits (b k : Nat) : Bool := if pbProto b = 2 then isEsp k else k == 3

/-- The drop that a frame's action calls for at its vent (R20, R50): DROP itself, an action that the mode of the frame's pair
does not admit (DROP_MODE), then a context that does not admit the action, or ESP for a kind without an IP header
(DROP_POLICY), and a frame to deprotect that is of another protocol than its context's (DROP_TAG, R45). A frame from the host
crosses no pair. -/
def ventRefuses (s : State) (f : Frame) : Option Nat :=
  let c := setAt s f.epoch
  let b := blkOf (ctxAt s f.ctx) f.epoch
  let ciph := (pairOf c f.src).any (fun j => (fget {} c.sub j).cipher)
  if f.action = 0 then some 13
  else if f.action = 4 then none
  else if f.src < 32 ∧ f.action ≠ 1 ∧ f.action ≠ (if f.role then 3 else if ciph then 2 else 1) then some 14
  else if f.action = 2 ∧ (!pbValid b || !pbTxen b || (pbProto b == 2 && [0, 3, 8].contains f.kind)) then some 13
  else if f.action = 3 ∧ (!pbValid b || !pbRxen b) then some 13
  else if f.action = 3 ∧ !kindFits b f.kind then some 17
  else none

/-- Whether the security header of a frame to deprotect is outside R35 or R36, or not its context's (R45, R50): a SecTAG with
SCB = 1, without E = C = 1, or of another SCI than RXSCI, whose first byte is the number's highest; an ESP packet without room
for SPI, sequence number, IV, ICV and the two trailer bytes. RXSCI's byte order, and that a vent tests this behind the choice of
the receive slot and before the number, are deduced (notes/assumptions/18.md). -/
def tagRefused (s : State) (f : Frame) : Bool :=
  let b := blkOf (ctxAt s f.ctx) f.epoch
  f.action == 3 &&
  (if pbProto b = 2 then decide (f.sec.espLen < 34)
   else nbit f.sec.tci 4 || !nbit f.sec.tci 3 || !nbit f.sec.tci 2 || beNat f.sec.sci != pbRxsci b)

/-- The drop of a frame that its vent would send on: what its action calls for, then DROP_TAG. -/
def ventBars (s : State) (f : Frame) : Option Nat := (ventRefuses s f).or (if tagRefused s f then some 17 else none)

/-- The counter of a vent's drop with what comes before it: the frame's action, then, for a code that a vent reaches only behind
the SecTAG or ESP header, DROP_TAG (R45). -/
def ventCounts (s : State) (f : Frame) (c : Nat) : Nat :=
  let k := ventDrop f c
  (ventRefuses s f).getD (if tagRefused s f && [18, 22, 23].contains k then 17 else k)

/-- A frame whose action is HOST goes to its frame-to-host ring, whatever queue a job named (R20). -/
def hostQueue (s : State) (n : Nat) : State := updFrame s n (fun f => { f with queue := f.rdata % 4096 })

/-- A frame reaches QM's entrance, or its vent drops it. What the frame's action calls for comes before what the vent chose. -/
def execQmEntrance (pbh : Nat) (how : Disposition) (_cells : List Nat) (s : State) : Host.Outcome State Fault Refusal :=
  match frameOf s pbh with
  | none => .next s
  | some n =>
    let f := frameAt s n
    match how, f.stage with
    | .drop c, .slotPlain _ _ => .next (dropFrame s n (ventDrop f c))
    | .drop c, .atVent _ => .next (dropFrame s n (ventCounts s f c))
    | .expired k, .atVent _ =>
      if f.action = 3 ∧ 2 ≤ k ∧ k < 6 ∧ expired (slotAt s f.ctx k) f.tick.toNat then
        match ventRefuses s f with
        | some c => .next (dropFrame s n c)
        | none => .next (dropFrame (rxExpire s f k) n 16)
      else .next s
    | .job, .inRack => match ventBars s f with
      | some c => .next (dropFrame s n c)
      | none => .next (rackJob (if f.action = 4 then hostQueue s n else s) n)
    | .bypass q, .atVent _ => match ventBars s f with
      | some c => .next (dropFrame s n c)
      | none => if f.action = 4 then .next s else .next (rackRelease (updFrame s n (fun f => { f with queue := q })) n)
    | .host, .atVent _ => if f.action = 4 then .next (rackRelease (hostQueue s n) n) else .next s
    | _, _ => .next s

/-- A ticket open for 100 µs is retired by the rack; its frame, if it waits there, is dropped (R40). -/
def execRackTimeout (bucket : Nat) (ticket : Word) (s : State) : Host.Outcome State Fault Refusal :=
  if s.path.opens.any (fun o => o.bucket == bucket && o.ticket == ticket && decide (o.tick.toNat + 100000 ≤ s.timebase.toNat)) then
    let s1 := endTicket s bucket ticket
    match s.path.frames.find? (fun p => p.2.bucket == bucket && p.2.ticket == ticket && (p.2.stage == .inRack || p.2.stage == .piece)) with
    | some (n, _) => .next (dropFrame s1 n 30)
    | none => .next s1
  else .next s

/-- A read of the spill path (R260): none where it meets a poisoned word (R266). -/
def spillRead (s : State) (f : Frame) : Option (List Byte) × State :=
  if f.spillAt < hbmBase then (none, s)
  else match hbmReadBytes s (f.spillAt - hbmBase) f.len with
    | (.okay, bs, s1) => (some bs, s1)
    | (_, _, s1) => (none, s1)

/-- QM moves the head of a queue's HBM part on die (R98), with the cells that the PB gives; a frame that meets a poisoned word
is dropped in DROP_QLIMIT (R266). -/
def execSpillReturn (q : Nat) (cells : List Nat) (s : State) : Host.Outcome State Fault Refusal :=
  let x := queueAt s q
  match x.hbm with
  | [] => .next s
  | n :: r =>
    let f := frameAt s n
    if x.spillth * 2048 ≤ framesLen s x.ondie ∨ ¬ cellsOk s cells (cellsFor f.len) then .next s
    else match spillRead s f with
      | (none, s1) => .next (dropFrame (takeFrame s1 q n) n 27)
      | (some bs, s0) =>
        let s1 := updFrame (writeCells (unspill s0 q n) cells bs) n (fun f => { f with
          cells := cells
          stage := .queued q })
        .next (settleNode (updQueue s1 q (fun x => { x with
          ondie := x.ondie ++ [n]
          hbm := r
          spilled := !r.isEmpty })) q)

/-- A frame starts on a sub-port: the bytes it sends before the FCS, which an uncorrectable cell makes inverted (R92). One
shorter than 60 bytes is sent as it stands, of which the spec says nothing (notes/assumptions/49.md). -/
def startTx (s : State) (src n : Nat) : State :=
  let f := frameAt s n
  let bad := (badCell s f).isSome
  updSub (updFrame (meetUe s f) n (fun f => { f with stage := .txing src })) src (fun x => { x with
    txing := some n
    txBytes := frameBytes s f
    txBad := f.bad || bad })

/-- Whether a sub-port can start a frame. -/
def subIdle (s : State) (src : Nat) : Bool := subUp s src && (subAt s src).txing.isNone

/-- A sub-port node selects a frame and starts it (R103), unless it would end after the next slot frame's wire time
(R115). -/
def execSubportPick (src : Nat) (s : State) : Host.Outcome State Fault Refusal :=
  if !subIdle s src then .next s
  else match pickNode s (.sub src) (fun _ => true) with
    | none => .next s
    | some (n, s1) => if fitsBefore s src (frameAt s n).len then .next (startTx s1 src n) else .next s

/-- A frame's last byte leaves a sub-port; its cells are free (R91). -/
def execFrameTransmitEnd (src : Nat) (s : State) : Host.Outcome State Fault Refusal :=
  match (subAt s src).txing with
  | none => .next s
  | some n => .next (updSub (delFrame s n) src (fun x => { x with
      txing := none
      sent := x.sent + 1 }))

/-- The frames that QM removes for a sub-port that is down (R104): the heads of its queues and of its channels' queues,
and sealed slot frames that were built for it. -/
def downHeads (s : State) (src : Nat) : List Nat :=
  (s.qm.queues.filter (fun p => (p.2.dkind == 0 && p.2.subport == src) ||
    (p.2.dkind == 1 && chanSrc s (p.2.subport / 8) p.2.gchan == src))).filterMap (fun p => queueHead p.2) ++
  (s.path.frames.filter (fun p => match p.2.stage with
    | .slotSealed a _ => slotSub a p.2 == src
    | _ => false)).map (fun p => p.1)

/-- While a sub-port is down, QM removes a head frame; which, where there are several, is left open (R104). -/
def execPortDownDrop (src : Nat) (s : State) : Host.Outcome State Fault Refusal :=
  let l := downHeads s src
  if subUp s src || l.isEmpty then .next s
  else
    let (x, s1) := drawFree s
    let n := l.getD (x % l.length) 0
    match (frameAt s1 n).stage with
    | .queued q => .next (dropFrame (takeFrame s1 q n) n 29)
    | .spilled q => .next (dropFrame (takeFrame s1 q n) n 29)
    | _ => .next (dropFrame s1 n 29)

/-- The completion of a frame delivered to the host (R296). -/
def tohostEntry (f : Frame) (trunc : Bool) : BitVec 128 :=
  BitVec.ofNat 128 (f.tick.toNat + f.len * 2 ^ 64 + b2n trunc * 2 ^ 78 + f.src * 2 ^ 80 + f.kind * 2 ^ 86 + b2n f.epoch * 2 ^ 90 +
    b2n f.hit * 2 ^ 91 + f.ctx * 2 ^ 92 + f.rdata % 2 ^ 16 * 2 ^ 108)

/-- The frame at the head of a DKIND 2 queue is written to its ring's buffer, then its completion (R296). -/
def execTohostDelivery (r : Nat) (s : State) : Host.Outcome State Fault Refusal :=
  match ringAt s r, (queueAt s r).ondie with
  | some x, n :: _ =>
    if x.kind != .tohost || (queueAt s r).dkind != 2 || !ringRoom x || !funcLive s x.func then .next s
    else
      let f := frameAt s n
      let bs := (frameBytes s f).take (2 ^ x.blog)
      let s1 := hostPut (meetUe s f) x.func x.nosnoop (x.bbase.toNat + x.prod * 2 ^ x.blog) bs
      let s2 := setRing s1 r { x with bytes := x.bytes + BitVec.ofNat 64 f.len }
      .next (delFrame (takeFrame (ringWrite s2 r (tohostEntry f (decide (2 ^ x.blog < f.len)))) r n) n)
  | _, _ => .next s

end Sys2Proof.Machine
end

