-- ==== Sys2Proof/Machine/Lce.lean ====
section
/-! DEFINITION. The line cipher engines: LCE jobs (R37 to R39, R369), encryption and decryption (R35, R36, R38), dummies
and carriers (R44, R116), staging (R105) and sealing (R107). -/

namespace Sys2Proof.Machine

/-! ### The job descriptor (R37) -/

/-- The fields of a job. -/
structure LceJob where
  op : Nat
  suite : Nat
  chain : Bool
  esn : Bool
  ctx : Nat
  slot : Nat
  pbh : Nat
  len : Nat
  aadStart : Nat
  aadLen : Nat
  encStart : Nat
  encLen : Nat
  num : Nat
  ticket : Nat
  queue : Nat
  gchan : Nat
  glaze : Bool
  isSeal : Bool
  haddr : Nat
  hlen : Nat
  cut : Nat
  nh : Nat
  tfcpad : Nat
  bucket : Nat
  slpos : Nat
  ippos : Nat
  maxlen : Nat
  rsv : Bool
deriving DecidableEq, Repr

/-- A job's fields in its 64 bytes. -/
def jobOf (w : BitVec 512) : LceJob :=
  let d := w.toNat
  { op := nbits d 3 0, suite := nbits d 7 4, chain := nbit d 8, esn := nbit d 9, ctx := nbits d 31 16, slot := nbits d 34 32,
    pbh := nbits d 59 40, len := nbits d 77 64, aadStart := nbits d 87 80, aadLen := nbits d 95 88, encStart := nbits d 109 96,
    encLen := nbits d 123 110, num := nbits d 191 128, ticket := nbits d 223 192, queue := nbits d 243 224, gchan := nbits d 253 244, glaze := nbit d 254,
    isSeal := nbit d 255, haddr := nbits d 287 256, hlen := nbits d 295 288, cut := nbits d 303 296, nh := nbits d 311 304,
    tfcpad := nbits d 325 312, bucket := nbits d 337 326, slpos := nbits d 345 338, ippos := nbits d 353 346, maxlen := nbits d 367 354,
    rsv := nbits d 15 10 != 0 || nbits d 39 35 != 0 || nbits d 63 60 != 0 || nbits d 79 78 != 0 || nbits d 127 124 != 0 ||
      nbits d 511 368 != 0 }

/-- Whether a job's suite is one of ESP's. -/
def LceJob.esp (j : LceJob) : Bool := decide (4 ≤ j.suite)

/-- R39 and R56's SLOT range, for every job: what its descriptor and its frame's length alone refuse. `follows`: after a
CHAIN = 1 job (R369). A staging job ignores the fields that R105 names. -/
def jobRefused (j : LceJob) (n : Nat) (follows staging : Bool) : Bool :=
  j.rsv || decide (1 < j.op) || decide (128 < j.hlen) || decide (128 < j.cut) || decide (n < j.cut) ||
  (!follows && j.len != n) || (j.slpos != 0 && decide (j.hlen ≤ j.slpos)) || (j.ippos != 0 && decide (j.hlen ≤ j.ippos)) ||
  (!staging && (decide (6 < j.suite) || decide (5 < j.slot) || decide (j.encStart < j.aadStart + j.aadLen) ||
    (j.esp && (j.aadLen != 8 || j.encStart != j.aadStart + 16)) || (j.slpos != 0 && j.esp) || (j.ippos != 0 && !j.esp)))

/-- R39, R56: whether the slot's key does not serve the job. A receive job names a receive slot, whose window the final
check needs. -/
def keyRefused (s : State) (j : LceJob) : Bool :=
  let m := slotAt s j.ctx j.slot
  (m.state != .live && m.state != .spent && m.state != .draining) ||
  m.klen.toNat != (if j.suite = 0 ∨ j.suite = 2 ∨ j.suite = 4 then 0 else 1) || (j.op == 1 && decide (j.slot < 2))

/-- An uncorrectable error in a key slot is met (CTX_ERR.UE_KEY). -/
def keyUe (s : State) (c k : Nat) : State :=
  let s1 := ctxErr s 5
  { s1 with store := { s1.store with errAddr := BitVec.ofNat 32 (0x1000000 + 64 * (6 * c + k)) } }

/-- The new header's bytes, read at HADDR in palette or caldera memory (R37); a read that fails drops the job in DROP_JOB
(R262). -/
def jobHeader (s : State) (n : Nat) (j : LceJob) : Except Nat (List Byte) × State :=
  if j.hlen = 0 then (.ok [], s)
  else
    let local_ := match matLoc (.lce n) j.haddr s with
      | .pal _ _ => true
      | .cal _ _ => true
      | _ => false
    if !local_ then (.error 24, s)
    else match matRead (.lce n) j.haddr j.hlen s with
      | (.okay, bs, s1) => (.ok bs, s1)
      | (_, _, s1) => (.error 24, s1)

/-! ### Cipher inputs (R38) -/

/-- The offset of a frame's first EtherType that is no VLAN tag's: the vent puts as many tags before a SecTAG as it builds
(R35). The first argument bounds their number. -/
def pastTags (b : List Byte) : Nat → Nat → Nat
  | 0, o => o
  | f + 1, o => if be16 b o = 0x88A8 ∨ be16 b o = 0x8100 then pastTags b f (o + 4) else o

/-- The SCI of a frame: that of its SecTAG, or its source MAC and port 0x0001 (R32). -/
def sciOf (b : List Byte) : List Byte :=
  let o := pastTags b b.length 12
  if be16 b o = 0x88E5 ∧ nbit (byteAt b (o + 2)) 5 then slice b (o + 8) 8 else slice b 6 6 ++ [0, 1]

/-- The AAD. -/
def jobAad (j : LceJob) (b : List Byte) : List Byte :=
  if j.esp then slice b j.aadStart 4 ++ (if j.esn then beBytes 4 (j.num / 2 ^ 32) else []) ++ beBytes 4 j.num
  else slice b j.aadStart j.aadLen

/-- The IV or nonce. -/
def jobIv (j : LceJob) (k : KeySlot) (b : List Byte) : List Byte :=
  let salt := leBytes 12 k.salt.toNat
  if j.esp then salt.take 4 ++ slice b (j.aadStart + 8) 8
  else if 2 ≤ j.suite then xorBytes (beBytes 4 k.tagid.toNat ++ beBytes 8 j.num) salt
  else sciOf b ++ beBytes 4 j.num

/-- The key's bytes: 16 or 32 by the suite. -/
def jobKey (j : LceJob) (k : KeySlot) : List Byte :=
  leBytes (if j.suite = 0 ∨ j.suite = 2 ∨ j.suite = 4 then 16 else 32) k.key.toNat

/-- Encryption of a region: ciphertext and tag. -/
def jobCipher (j : LceJob) (k : KeySlot) (b pt : List Byte) : List Byte × List Byte :=
  if j.suite = 6 then chachaSeal (jobKey j k) (jobIv j k b) (jobAad j b) pt
  else gcmSeal (jobKey j k) (leBytes 16 k.hsub.toNat) (jobIv j k b) (jobAad j b) pt

/-- Decryption of a region: plaintext and the tag that its ciphertext should carry. -/
def jobDecipher (j : LceJob) (k : KeySlot) (b ct : List Byte) : List Byte × List Byte :=
  if j.suite = 6 then chachaOpen (jobKey j k) (jobIv j k b) (jobAad j b) ct
  else gcmOpen (jobKey j k) (leBytes 16 k.hsub.toNat) (jobIv j k b) (jobAad j b) ct

/-! ### Length fields (R369) -/

/-- SL of the secure data that ends at offset `e`. -/
def writeSl (j : LceJob) (e : Nat) (b : List Byte) : List Byte :=
  if j.slpos = 0 then b
  else
    let n := e - (j.slpos + if nbit (byteAt b (j.slpos - 1)) 5 then 13 else 5)
    splice b j.slpos [BitVec.ofNat 8 (if n < 48 then n else 0)]

/-- The one's complement sum of the 16-bit words of a header. -/
def csumWords : List Byte → Nat
  | a :: b :: r => a.toNat * 256 + b.toNat + csumWords r
  | [a] => a.toNat * 256
  | [] => 0

/-- The IPv4 header checksum (RFC 791) of a header whose checksum bytes are zero. -/
def ipCsum (h : List Byte) : Nat :=
  let a := csumWords h
  let b := a / 65536 + a % 65536
  65535 - (b / 65536 + b % 65536)

/-- The length of the UDP header at offset u of a frame of n bytes. -/
def writeUdpLen (proto u n : Nat) (b : List Byte) : List Byte := if proto = 17 then splice b (u + 4) (beBytes 2 (n - u)) else b

/-- The outer IP header's lengths, for a final frame of n bytes. -/
def writeIpLen (j : LceJob) (n : Nat) (b : List Byte) : List Byte :=
  let o := j.ippos
  if o = 0 then b
  else if byteAt b o / 16 = 4 then
    let h := 4 * (byteAt b o % 16)
    let b1 := splice (splice b (o + 2) (beBytes 2 (n - o))) (o + 10) [0, 0]
    writeUdpLen (byteAt b (o + 9)) (o + h) n (splice b1 (o + 10) (beBytes 2 (ipCsum (slice b1 o h))))
  else if byteAt b o / 16 = 6 then
    writeUdpLen (byteAt b (o + 6)) (o + 40) n (splice b (o + 4) (beBytes 2 (n - (o + 40))))
  else b

/-! ### Encryption (R38) -/

/-- What ESP appends to its payload of n bytes: TFC padding, padding, pad length, next header (R36). -/
def espTrailer (tfc n nh : Nat) : List Byte :=
  let k := (4 - (n + tfc + 2) % 4) % 4
  List.replicate tfc 0 ++ (List.range k).map (fun i => BitVec.ofNat 8 (i + 1)) ++ [BitVec.ofNat 8 k, BitVec.ofNat 8 nh]

/-- The number that ESP writes over the header. -/
def writeNum (j : LceJob) (b : List Byte) : List Byte :=
  if j.esp then splice b (j.aadStart + 4) (beBytes 4 j.num ++ beBytes 8 j.num) else b

/-- Whether a MACsec frame carries a SecTAG that the part never sends (R35): SCB = 1, without E = C = 1, or ES = SC = 1 (R50). A
job that would send one is refused in DROP_JOB, which R39 does not list (notes/assumptions/24.md). -/
def tagUnsent (b : List Byte) : Bool :=
  let o := pastTags b b.length 12
  let t := byteAt b (o + 2)
  be16 b o == 0x88E5 && (nbit t 4 || !nbit t 3 || !nbit t 2 || (nbit t 6 && nbit t 5))

/-- The output of an ENCRYPT job over a frame, with the new header; or its drop. -/
def encryptBytes (j : LceJob) (k : KeySlot) (follows : Bool) (hdr frame : List Byte) : Except Nat (List Byte) :=
  let sp := hdr ++ frame.drop j.cut
  let es := j.encStart
  let el := if follows then sp.length - es else j.encLen
  if sp.length < es + el ∨ (!j.esp && tagUnsent sp) then .error 24
  else
    let tr := if j.esp then espTrailer j.tfcpad el j.nh else []
    let n := es + el + tr.length + 16
    if 16383 < n then .error 24
    else
      let b := writeNum j (writeIpLen j n (writeSl j (es + el) sp))
      let (ct, tag) := jobCipher j k b (slice b es el ++ tr)
      if j.maxlen ≠ 0 ∧ j.maxlen < n then .error 23 else .ok (b.take es ++ ct ++ tag)

/-! ### Decryption (R38, R44, R116) -/

/-- What a decrypted frame becomes: a drop, or bytes with the carrier they came in. -/
abbrev Opened := Except Nat (List Byte × Option Carrier)

/-- Where the secure data of a MACsec frame begins. -/
def secStart (b : List Byte) : Option Nat :=
  let x := parseFrame b
  if x.secoff = 0xFF then none else some (x.secoff + if nbit (byteAt b (x.secoff + 2)) 5 then 16 else 8)

/-- A decrypted MACsec frame: dummies and carriers are recognised on a CIPHER sub-port. -/
def openMacsec (j : LceJob) (role : Bool) (hdr frame pt : List Byte) : Opened :=
  let full := frame.take j.encStart ++ pt
  let sec := match secStart frame with
    | some o => if role then full.drop o else []
    | none => []
  if sec.take 6 = [0x88, 0xB5, 0x53, 0x5A, 0x47, 0x44] then .error 31
  else if sec.take 6 = [0x88, 0xB5, 0x53, 0x5A, 0x47, 0x46] ∧ 14 ≤ sec.length then
    .ok ((sec.drop 14).take (be16 sec 10), some {
      ctx := j.ctx
      slot := j.slot
      fid := be16 sec 6
      off := be16 sec 8
      plen := be16 sec 10
      total := be16 sec 12 })
  else .ok (hdr ++ full.drop j.cut, none)

/-- The length of an inner IP packet (R36), none where it disagrees with its bytes. -/
def innerLen (nh : Nat) (p : List Byte) : Option Nat :=
  let n := if nh = 4 then be16 p 2 else 40 + be16 p 4
  let h := if nh = 4 then 20 else 40
  if p.length < h ∨ n < h ∨ p.length < n then none else some n

/-- A decrypted ESP packet: trailer, dummies, trimming, and the EtherType in the new header's last two bytes. A dummy is
counted in RX_DUMMY whatever the role of the frame's sub-port; R44 speaks of CIPHER ones only (notes/assumptions/49.md). -/
def openEsp (j : LceJob) (hdr frame pt : List Byte) : Opened :=
  let k := byteAt pt (pt.length - 2)
  let nh := byteAt pt (pt.length - 1)
  let body := pt.take (pt.length - 2 - k)
  if pt.length < k + 2 ∨ slice pt (pt.length - 2 - k) k ≠ (List.range k).map (fun i => BitVec.ofNat 8 (i + 1)) then .error 20
  else if nh = 59 then .error 31
  else if nh ≠ 4 ∧ nh ≠ 41 then .error 21
  else match innerLen nh body with
    | none => .error 20
    | some n =>
      let h := if 2 ≤ hdr.length then splice hdr (hdr.length - 2) (beBytes 2 (if nh = 4 then 0x0800 else 0x86DD)) else hdr
      .ok (h ++ (frame.take j.encStart ++ body.take n).drop j.cut, none)

/-- The output of a DECRYPT job: the tag, the final check of the slot's window (R69), then the frame; `f` is the frame's
record. After a CHAIN = 1 job the enciphered region runs to the ICV at the frame's end; R369 speaks of an ENCRYPT only
(notes/assumptions/49.md). -/
def decryptBytes (s : State) (j : LceJob) (follows : Bool) (f : Frame) (hdr frame : List Byte) : Opened × State :=
  let k := keyAt s j.ctx j.slot
  let es := j.encStart
  let el := if follows then frame.length - es - 16 else j.encLen
  if frame.length < es + el + 16 ∨ (j.esp ∧ el < 2) ∨ (¬ j.esp ∧ 16383 < es + el - j.cut + j.hlen) then (.error 24, s)
  else
    let (pt, tag) := jobDecipher j k frame (slice frame es el)
    if tag ≠ slice frame (es + el) 16 then (.error 19, s)
    else
      let (ok, s1) := kcFinal s j.ctx j.slot f.epoch j.num
      if !ok then (.error 18, s1)
      else match (if j.esp then openEsp j hdr frame pt else openMacsec j f.role hdr frame pt) with
        | .error c => (.error c, s1)
        | .ok (bs, c) =>
          if 16383 < bs.length then (.error 24, s1)
          else if j.maxlen ≠ 0 ∧ j.maxlen < bs.length then (.error 23, s1)
          else (.ok (bs, c), s1)

/-! ### One job -/

/-- The checks that precede any use of the frame's bytes, and those bytes: the new header and the frame. -/
def jobInputs (s : State) (n : Nat) (ecc staging follows : Bool) (j : LceJob) (f : Frame) :
    Except Nat (List Byte × List Byte) × State :=
  if jobRefused j f.len follows staging || (!staging && keyRefused s j) then (.error 24, s)
  else if !staging && s.store.ueKeys.contains (6 * j.ctx + j.slot) then (.error 25, keyUe s j.ctx j.slot)
  else if ecc || (badCell s f).isSome then (.error 25, frameUe s f)
  else match jobHeader s n j with
    | (.error c, s1) => (.error c, s1)
    | (.ok h, s1) => (.ok (h, frameBytes s f), s1)

/-- What an LCE does with a job's frame. -/
abbrev JobWork := State → Nat → Bool → Bool → LceJob → Frame → Opened × State

/-- ENCRYPT, and the sealing of a slot frame. -/
def workEncrypt : JobWork := fun s n ecc follows j f =>
  match jobInputs s n ecc false follows j f with
  | (.error c, s1) => (.error c, s1)
  | (.ok (h, b), s1) => match encryptBytes j (keyAt s1 j.ctx j.slot) follows h b with
    | .error c => (.error c, s1)
    | .ok out => (.ok (out, f.carrier), s1)

/-- DECRYPT. GLAZE = 1 is refused (R105). -/
def workDecrypt : JobWork := fun s n ecc follows j f =>
  if j.glaze then (.error 24, s)
  else match jobInputs s n ecc false follows j f with
    | (.error c, s1) => (.error c, s1)
    | (.ok (h, b), s1) => decryptBytes s1 j follows f h b

/-- A staging job: the header alone (R105). -/
def workStaging : JobWork := fun s n ecc follows j f =>
  if j.chain || !hasGlaze s then (.error 24, s)
  else match jobInputs s n ecc true follows j f with
    | (.error c, s1) => (.error c, s1)
    | (.ok (h, b), s1) =>
      let out := h ++ b.drop j.cut
      if 16383 < out.length then (.error 24, s1)
      else if j.maxlen ≠ 0 ∧ j.maxlen < out.length then (.error 23, s1)
      else (.ok (out, f.carrier), s1)

/-- Whether a frame is a slot plaintext awaiting sealing (R107). -/
def awaitsSeal (s : State) (n : Nat) : Bool :=
  match (frameAt s n).stage with
  | .slotPlain p g => (chanAt s p g).slots.contains n
  | _ => false

/-- Whether a job's frame stands where the LCE can take it: with a vent, between the two jobs of a chain, or with Glaze for
a SEAL job. -/
def jobHasFrame (follows : Bool) (j : LceJob) (f : Frame) : Bool :=
  match f.stage with
  | .atVent _ => true
  | .chained => follows
  | .slotPlain _ _ => j.isSeal
  | _ => false

/-- A job is rejected in DROP_JOB for a frame that stands elsewhere in the part (R39; without SEAL the spec names no case,
notes/assumptions/49.md): the frame leaves its place. -/
def dropStray (s : State) (n : Nat) : State :=
  match (frameAt s n).stage with
  | .queued q => dropFrame (takeFrame s q n) n 24
  | .spilled q => dropFrame (takeFrame s q n) n 24
  | .waiting v => dropFrame (updVent s v (fun x => { x with inp := { x.inp with items := x.inp.items.filter (fun i => i != .frame n) } })) n 24
  | .heldMig _ _ => dropFrame { s with easel := { s.easel with
      migs := s.easel.migs.map (fun m => { m with held := m.held.filter (fun i => i != .frame n) }) } } n 24
  | .staged p g => dropFrame (updChan s p g (fun c => { c with carry := none, fid := c.fid + 1 })) n 24
  | _ => dropFrame s n 24

/-- The chain of vent v after its job ends: a failed CHAIN = 1 job ends the next one too (R37). -/
def chainMark (s : State) (v : Nat) (bad : Bool) : State :=
  { s with path := { s.path with chainBad := s.path.chainBad.filter (· != v) ++ if bad then [v] else [] } }

/-- A job that has an output: the frame takes it, with further cells where it needs them (R368); none while they are not
given. -/
def jobOutput (s : State) (n : Nat) (cells : List Nat) (bs : List Byte) : Option State :=
  let f := frameAt s n
  let need := cellsFor bs.length - f.cells.length
  if 0 < need ∧ ¬ cellsOk s cells need then none
  else some (setFrameBytes s n (if 0 < need then f.cells ++ cells else f.cells) bs)

/-- Whether LCE n's read of a job's new header waits for a lock that the host bridge holds on the port that serves it (R264). -/
def headerWaits (s : State) (n : Nat) (j : LceJob) : Bool := j.hlen != 0 && matLocked (.lce n) j.haddr s

/-- LCE n takes its next job, if that is of the kind wanted: its work, and the frame's next place. A DROP_JOB makes source
22 of the vent pending (R251). -/
def lceStep (s : State) (n : Nat) (want : LceJob → Bool) (ecc : Bool) (cells : List Nat) (work : JobWork)
    (fin : LceJob → Option Carrier → Frame → Frame) : State :=
  match s.path.jobs.find? (fun b => b.lce == n) with
  | none => s
  | some b =>
    let j := jobOf b.desc
    let s0 := { s with path := { s.path with jobs := s.path.jobs.erase b } }
    if !want j || headerWaits s n j then s
    else if b.follows && s.path.chainBad.contains b.vent then chainMark s0 b.vent j.chain
    else match frameOf s j.pbh with
      | none => chainMark (jobErr s0 b.vent) b.vent j.chain
      | some k =>
        if !jobHasFrame b.follows j (frameAt s k) then dropStray (latchInt (chainMark s0 b.vent j.chain) b.vent 22) k
        else match work s0 n ecc b.follows j (frameAt s k) with
          | (.error c, s1) =>
            let s2 := chainMark s1 b.vent j.chain
            dropFrame (if c = 24 then latchInt s2 b.vent 22 else s2) k c
          | (.ok (bs, car), s1) => match jobOutput s1 k cells bs with
            | none => s
            | some s2 => updFrame (chainMark s2 b.vent false) k (fin j car)

/-- Where a frame goes after its job: to the rack, under the ticket and bucket that the job names, or to the next job of the
chain (R37, R38). -/
def afterJob (j : LceJob) (car : Option Carrier) (staged : Bool) (f : Frame) : Frame :=
  { f with
    stage := if j.chain then .chained else .inRack
    queue := if j.chain then f.queue else j.queue
    ticket := BitVec.ofNat 32 j.ticket
    bucket := j.bucket
    jobGlaze := j.glaze
    jobGchan := j.gchan
    stagedJob := staged
    carrier := car }

/-- ENCRYPT (R38). -/
def execLceEncrypt (n : Nat) (ecc : Bool) (cells : List Nat) (s : State) : Host.Outcome State Fault Refusal :=
  .next (lceStep s n (fun j => !j.isSeal && j.op != 1 && !(j.op == 0 && j.glaze)) ecc cells workEncrypt
    (fun j car f => { afterJob j car false f with encDone := true }))

/-- DECRYPT (R38). -/
def execLceDecrypt (n : Nat) (ecc : Bool) (cells : List Nat) (s : State) : Host.Outcome State Fault Refusal :=
  .next (lceStep s n (fun j => !j.isSeal && j.op == 1) ecc cells workDecrypt
    (fun j car f => { afterJob j car false f with decDone := true }))

/-- A staging job (R105). -/
def execLceStagingJob (n : Nat) (ecc : Bool) (cells : List Nat) (s : State) : Host.Outcome State Fault Refusal :=
  .next (lceStep s n (fun j => !j.isSeal && j.op == 0 && j.glaze) ecc cells workStaging (fun j car f => afterJob j car true f))

/-- The sealing of a slot frame (R107): the output returns to Glaze. -/
def execLceSealJob (n : Nat) (ecc : Bool) (cells : List Nat) (s : State) : Host.Outcome State Fault Refusal :=
  .next (lceStep s n (fun j => j.isSeal) ecc cells
    (fun s n ecc follows j f =>
      if j.op != 0 || j.chain || j.glaze || !(frameOf s j.pbh).any (awaitsSeal s) then (.error 24, s)
      else workEncrypt s n ecc follows j f)
    (fun _ _ f => { f with
      encDone := true
      stage := match f.stage with
        | .slotPlain p g => .slotSealed p g
        | x => x }))

end Sys2Proof.Machine
end

