-- ==== Sys2Proof/Machine/Glaze.lean ====
section
/-! DEFINITION. Glaze at work (R105 to R120): the content of a slot, slot records, sealed frames on the wire, and the
generator's seeds. -/

namespace Sys2Proof.Machine

/-! ### Slot content (R111, R112) -/

/-- What a slot carries of a staged frame: the slot plaintext, whether it is the whole frame, and the bytes of the frame
sent once it has gone (none: all). -/
structure SlotPart where
  bytes : List Byte
  whole : Bool
  sent : Option Nat
deriving DecidableEq, Repr

/-- MACsec: the carrier, PLEN bytes of the frame from OFF, and zeros up to `n` bytes of secure data. -/
def carrierPart (frame : List Byte) (off cap fid n : Nat) : SlotPart :=
  let plen := min cap (frame.length - off)
  { bytes := fit ([0x88, 0xB5, 0x53, 0x5A, 0x47, 0x46] ++ beBytes 2 fid ++ beBytes 2 off ++ beBytes 2 plen ++
      beBytes 2 frame.length ++ slice frame off plen) (max n (14 + plen))
    whole := off == 0 && plen == frame.length
    sent := if off + plen < frame.length then some (off + plen) else none }

/-- ESP, IPv4: a fragment under RFC 791 that carries data bytes from `off` on. -/
def ip4Fragment (p : List Byte) (off cap : Nat) : SlotPart :=
  let h := 4 * (byteAt p 0 % 16)
  let chunk := (cap - h) / 8 * 8
  let rest := p.length - h - off
  let d := min chunk rest
  let fo := be16 p 6
  let more := decide (d < rest) || nbit fo 13
  let word := fo / 0x4000 * 0x4000 + b2n more * 0x2000 + (fo % 0x2000 + off / 8) % 0x2000
  let hd := splice (splice (splice (p.take h) 2 (beBytes 2 (h + d))) 6 (beBytes 2 word)) 10 [0, 0]
  { bytes := splice hd 10 (beBytes 2 (ipCsum hd)) ++ slice p (h + off) d
    whole := false
    sent := if d < rest then some (off + d) else none }

/-- Whether a packet above the capacity can be fragmented: IPv4 with DF = 0 and room for eight data bytes. -/
def canFragment (p : List Byte) (cap : Nat) : Bool :=
  byteAt p 0 / 16 == 4 && !nbit (be16 p 6) 14 && decide (4 * (byteAt p 0 % 16) + 8 ≤ cap)

/-- NH of an inner packet. -/
def innerNh (p : List Byte) : Nat := if byteAt p 0 / 16 = 6 then 41 else 4

/-- The dummy's plaintext for MACsec (R44): its marker, zero-filled. -/
def dummyBytes (n : Nat) : List Byte := fit [0x88, 0xB5, 0x53, 0x5A, 0x47, 0x44] n

/-! ### Slot records (R107) -/

/-- A slot descriptor. Fields of a protocol or kind that the record has not are left open: they are drawn. -/
structure SlotRec where
  btick : Nat
  kind : Nat
  p : Nat
  g : Nat
  sub : Nat
  epoch : Bool
  len : Nat
  size : Option Nat
  ctx : Nat
  tfc : Option Nat
  nh : Option Nat
  slotNo : Option Nat

/-- The 32 bytes of a slot record for handle h; x is a draw. -/
def SlotRec.word (r : SlotRec) (h x : Nat) : BitVec 256 :=
  BitVec.ofNat 256 (r.btick % 2 ^ 64 + h * 2 ^ 64 + r.kind * 2 ^ 84 + r.g * 2 ^ 87 + r.p * 2 ^ 97 + r.sub * 2 ^ 99 +
    b2n r.epoch * 2 ^ 102 + r.len % 2 ^ 14 * 2 ^ 112 + r.size.getD x % 2 ^ 14 * 2 ^ 128 + r.ctx * 2 ^ 144 +
    r.tfc.getD (x / 2 ^ 14) % 2 ^ 14 * 2 ^ 160 + r.nh.getD (x / 2 ^ 28) % 2 ^ 8 * 2 ^ 176 +
    r.slotNo.getD (x / 2 ^ 36) % 2 ^ 32 * 2 ^ 184)

/-- A slot record goes to the vent that the steering table names for its bucket (R107, R124); while its sub-port's bank is
being switched it waits in Glaze, so that one bucket's records go to one vent at a time (R141, R155). -/
def sendSlot (s : State) (p g n src : Nat) : State :=
  if s.easel.switching.any (fun q => q.1 == src) then
    { s with easel := { s.easel with heldSlots := s.easel.heldSlots ++ [(p, g, n)] } }
  else placeItem s (.slot p g n) (bankOf s src) (1024 * p + g)

/-- A slot plaintext is built in new cells, and its record is issued. -/
def issueSlot (s : State) (r : SlotRec) (f : Frame) (cells : List Nat) (bs : List Byte) : State :=
  let (x, s1) := drawFree (writeCells s cells bs)
  let (n, s2) := newFrame s1 { f with
    stage := .slotPlain r.p r.g
    cells := cells
    len := bs.length
    desc := r.word (cells.headD 0) x }
  sendSlot (updChan s2 r.p r.g (fun c => { c with slots := c.slots ++ [n] })) r.p r.g n (8 * r.p + r.sub)

/-- A staged frame is issued in a REFUSE record (R112), in the cells it holds, which Glaze has read (R92). -/
def refuseFrame (s : State) (p g n : Nat) (e : Bool) (x : Nat) : State :=
  let f := frameAt s n
  let b := frameBytes s f
  let r : SlotRec := { btick := f.tick.toNat, kind := 4, p := p, g := g, sub := pSub x, epoch := e, len := f.len, size := none,
                       ctx := pCtx x, tfc := none, nh := some (innerNh b), slotNo := none }
  let (y, s1) := drawFree (meetUe s f)
  let s2 := updFrame s1 n (fun f => { f with
    stage := .slotPlain p g
    desc := r.word (pbhOf f) y })
  sendSlot { s2 with glaze := { s2.glaze with err := s2.glaze.err ||| 2 } } p g n (8 * p + pSub x)

/-! ### The close of a slot (R108, R111 to R113) -/

/-- The lengths of a slot: protocol, S′, overhead F, capacity C; and the largest capacity its profile can give. -/
structure SlotShape where
  esp : Bool
  size : Nat
  extra : Nat
  cap : Nat
  top : Nat

/-- The shape of a channel's open slot. -/
def slotShape (s : State) (p g : Nat) : SlotShape :=
  let c := chanAt s p g
  let x := c.prof.toNat
  let esp := chanEsp s c.slotEp x
  let f := chanOverhead s c.slotEp x
  let m := (subAt s (8 * p + pSub x)).maxframe
  let sz := slotLen esp f (min c.size m)
  let big := ((fget {} (setAt s c.slotEp).tables (pTable x)).sizes).foldl max 0
  { esp := esp
    size := sz
    extra := f
    cap := slotCap esp f sz
    top := slotCap esp f (slotLen esp f (min big m)) }

/-- Whether a packet above the capacity is one that Glaze fragments: IPv4 with DF = 0 (R112). -/
def fragments (p : List Byte) : Bool := byteAt p 0 / 16 == 4 && !nbit (be16 p 6) 14

/-- Whether a slot can carry content of a staged frame: under MACsec a carrier with room behind it; under ESP a whole packet,
or a fragment with room for data. -/
def slotTakes (b : List Byte) (whole : Bool) (sh : SlotShape) : Bool :=
  if sh.esp then (whole && decide (b.length ≤ sh.cap)) || canFragment b sh.cap else decide (0 < sh.cap)

/-- Whether a frame is eligible for a slot that ends at tick `t`: its Intake stamp (R12) and the tick at which QM enqueued it
(R108) are below `t`. -/
def slotReady (s : State) (t n : Nat) : Bool :=
  decide ((frameAt s n).tick.toNat < t) && decide ((frameAt s n).qtick.toNat < t)

/-- The content of a slot: the frame that the channel carries in pieces, else what its node selects among the eligible
frames (R12, R108); packets that no slot can carry leave in REFUSE records, and a frame of another epoch waits for the slots of
its own profile (R85, R86). A frame of the slot's own epoch keeps its profile in force to its end (R88, R120). The slot stays
empty where it is too small for any content, and where it is stale: frames are then the new set's alone (R88). An
uncorrectable error that is met as a packet is looked at is reported (R92). `fuel` bounds the number of REFUSE records. -/
def slotContent (p g t : Nat) (sh : SlotShape) : Nat → State → State × Option (Nat × Nat)
  | 0, s => (s, none)
  | k + 1, s =>
    let c := chanAt s p g
    let x := c.prof.toNat
    if c.stale then (s, none) else
    match c.carry with
    | some (n, o) => if slotTakes (frameBytes s (frameAt s n)) false sh then (s, some (n, o))
        else (if sh.esp then meetUe s (frameAt s n) else s, none)
    | none => match pickNode s (.chan p g) (slotReady s t) with
      | none => (s, none)
      | some (n, s1) =>
        let b := frameBytes s (frameAt s n)
        if (frameAt s n).epoch != c.slotEp then
          (if c.epoch = (frameAt s n).epoch then s else chanTurn s p g (frameAt s n).epoch, none)
        else if slotTakes b true sh then (if c.epoch = c.slotEp then s1 else chanTurn s1 p g c.slotEp, some (n, 0))
        else if !sh.esp then (s, none)
        else if fragments b then (meetUe s (frameAt s n), none)
        else if pMode x = 1 ∨ sh.top < b.length then slotContent p g t sh k (refuseFrame s1 p g n c.slotEp x)
        else (meetUe s (frameAt s n), none)

/-- What the slot carries of frame n from byte `o` on. -/
def slotPart (s : State) (p g n o : Nat) (sh : SlotShape) : SlotPart :=
  let b := frameBytes s (frameAt s n)
  if !sh.esp then carrierPart b o sh.cap (chanAt s p g).fid.toNat (sh.size - sh.extra)
  else if o = 0 ∧ b.length ≤ sh.cap then { bytes := b, whole := true, sent := none }
  else ip4Fragment b o sh.cap

/-- The record of the open slot, for a plaintext of n bytes. -/
def slotRecord (s : State) (p g kind n nh : Nat) (sh : SlotShape) : SlotRec :=
  let c := chanAt s p g
  let x := c.prof.toNat
  { btick := c.start / 64
    kind := kind
    p := p
    g := g
    sub := pSub x
    epoch := c.slotEp
    len := n
    size := some sh.size
    ctx := pCtx x
    tfc := if sh.esp then some (sh.size - sh.extra - n) else none
    nh := if sh.esp then some nh else none
    slotNo := some c.slotNo }

/-- The record kept beside the plaintext of a slot frame: what Intake and the LCE recorded of its content, whatever its
slot. -/
def sealRecord (base : Frame) : Frame :=
  { src := base.src, tick := base.tick, epoch := base.epoch, bad := base.bad, gfid := base.gfid, role := base.role,
    action := base.action, decDone := base.decDone }

/-- The frame of a slot. -/
def slotFrame (s : State) (p g : Nat) (base : Frame) : Frame :=
  let c := chanAt s p g
  { sealRecord base with
    epoch := c.slotEp
    wire := c.start + 64 * pLead c.prof.toNat }

/-- A slot that carries content: its record, and the carried frame's progress. The frame's own cells are free once a slot has
taken its last byte (R91; notes/assumptions/51.md). -/
def closeContent (s : State) (p g n o : Nat) (sh : SlotShape) (cells : List Nat) : Option State :=
  let f := frameAt s n
  let part := slotPart s p g n o sh
  if !cellsOk s cells (cellsFor part.bytes.length) then none
  else
    let rec_ := slotRecord s p g (if part.whole then 1 else 2) part.bytes.length (innerNh (frameBytes s f)) sh
    let fr := slotFrame s p g { f with
      bad := f.bad || (badCell s f).isSome
      gfid := if part.whole then none else some n }
    let s1 := issueSlot (meetUe s f) rec_ fr cells part.bytes
    match part.sent with
    | some k => some (updFrame (updChan s1 p g (fun c => { c with carry := some (n, k) })) n (fun f => { f with stage := .staged p g }))
    | none => some (delFrame (updChan s1 p g (fun c => { c with
        carry := none
        fid := c.fid + 1 })) n)

/-- A slot that carries a dummy (R113). -/
def closeDummy (s : State) (p g : Nat) (sh : SlotShape) (cells : List Nat) : Option State :=
  let c := chanAt s p g
  let bs := if sh.esp then [] else dummyBytes (sh.size - sh.extra)
  if !cellsOk s cells (cellsFor bs.length) then none
  else
    let base : Frame := { src := chanSubOf s p g, tick := BitVec.ofNat 64 (c.start / 64) }
    some (issueSlot s (slotRecord s p g 3 bs.length 59 sh) (slotFrame s p g base) cells bs)
where
  /-- The sub-port of the open slot's profile. -/
  chanSubOf (s : State) (p g : Nat) : Nat := 8 * p + pSub (chanAt s p g).prof.toNat

/-- Whether a channel's open slot has ended, with a seed for the next draw (R108, R118). -/
def slotDue (s : State) (p g : Nat) : Bool :=
  let c := chanAt s p g
  c.running && decide (slotEnd c ≤ s.timebase.toNat) &&
  !(pMode (gprofOf s c.epoch p g) == 2 && decide (2 ^ 24 ≤ c.draws))

/-- A slot closes: its content is fixed, its plaintext is built in the cells given, its record is issued, and the next
slot opens. No record is issued while the sub-port is down (R104). -/
def execGlazeSlotClose (p g : Nat) (cells : List Nat) (s : State) : Host.Outcome State Fault Refusal :=
  let c := chanAt s p g
  if !slotDue s p g then .next s
  else if !subUp s (8 * p + pSub c.prof.toNat) then .next (nextSlot s p g)
  else
    let sh := slotShape s p g
    let r := slotContent p g (slotEnd c) sh (s.path.frames.length + 1) s
    let out := match r.2 with
      | some (n, o) => closeContent r.1 p g n o sh cells
      | none => closeDummy r.1 p g sh cells
    match out with
    | some s1 => .next (nextSlot s1 p g)
    | none => .next s

/-- An OFF-mode channel's node selects a staged frame, which is sealed alone at its natural size (R109): the SIZE of its record
is that size, though R107 gives a KIND 0 record no S′ (notes/assumptions/25.md). -/
def execChannelNodeSelect (p g : Nat) (cells : List Nat) (s : State) : Host.Outcome State Fault Refusal :=
  let c := chanAt s p g
  if c.running ∨ c.carry.isSome ∨ ¬ hasGlaze s then .next s
  else match pickNode s (.chan p g) (fun _ => true) with
    | none => .next s
    | some (n, s1) =>
      let f := frameAt s n
      let s2 := if f.epoch != c.epoch then chanTake s1 p g f.epoch else s1
      let e := f.epoch
      let x := gprofOf s e p g
      let b := frameBytes s f
      let esp := chanEsp s e x
      let fo := ctxOverhead s e x
      let pad := if esp then (4 - (b.length + 2) % 4) % 4 else 0
      if pMode x ≠ 0 then .next (chanTake s p g e)
      else if !subUp s (8 * p + pSub x) || !cellsOk s cells (cellsFor b.length) then .next s
      else
        let rec_ : SlotRec := {
          btick := f.tick.toNat
          kind := 0
          p := p
          g := g
          sub := pSub x
          epoch := e
          len := b.length
          size := some (fo + b.length + pad)
          ctx := pCtx x
          tfc := if esp then some 0 else none
          nh := if esp then some (innerNh b) else none
          slotNo := none }
        let fr : Frame := { sealRecord f with bad := f.bad || (badCell s f).isSome }
        .next (delFrame (issueSlot (meetUe s2 f) rec_ fr cells b) n)

/-! ### On the wire (R114, R115) -/

/-- Whether another channel of the sub-port has a sealed slot frame of an earlier wire time at its head. -/
def earlierWire (s : State) (src k w : Nat) : Bool :=
  s.glaze.chans.any (fun c => c.1 != k && match c.2.slots with
    | n :: _ => let f := frameAt s n
                slotSub (c.1 / 1024) f == src && slotKind f != 0 && decide (f.wire < w) &&
                  f.stage == .slotSealed (c.1 / 1024) (c.1 % 1024)
    | [] => false)

/-- The first slot frame of a channel starts on the wire: late, when its wire time has passed; a dummy is counted. -/
def startSlot (s : State) (p g n src : Nat) : State :=
  let f := frameAt s n
  let late := slotKind f != 0 && decide (f.wire / 64 < s.timebase.toNat)
  let s1 := startTx (updChan s p g (fun c => { c with slots := c.slots.filter (· != n) })) src n
  let s2 := if late then { s1 with glaze := { s1.glaze with
    err := s1.glaze.err ||| 1
    late := fupd 0 p (fun x => x + 1) s1.glaze.late } } else s1
  if slotKind f = 3 then { s2 with glaze := { s2.glaze with dummy := fupd 0 p (fun x => x + 1) s2.glaze.dummy } } else s2

/-- The guard of R43 on a sealed slot frame as Glaze hands it to the port. Its ENCRYPT job has completed; it is refused where
the pairing of its epoch does not send it by this sub-port (R18, R19: one in no pair sends frames of the host alone, no
dummy), and where a frame to be deprotected was never decrypted (R18, R20). That the guard is what refuses these is the
model's choice (notes/assumptions/20.md). -/
def sealedRefused (s : State) (p : Nat) (f : Frame) : Bool :=
  let pair := pairOf (setAt s f.epoch)
  if madeDummy f then (pair (slotSub p f)).isNone
  else (decide (f.src < 32) && pair f.src != some (slotSub p f)) || (f.role && f.action == 3 && !f.decDone)

/-- A sealed slot frame starts at its wire time, or once it has returned, in slot order; an OFF-mode frame starts as soon
as the sub-port can send it before the next slot frame. The guard drops one that it refuses. -/
def execGlazeWireTime (p g : Nat) (s : State) : Host.Outcome State Fault Refusal :=
  match (chanAt s p g).slots with
  | [] => .next s
  | n :: _ =>
    let f := frameAt s n
    let src := slotSub p f
    if f.stage != .slotSealed p g || !subIdle s src then .next s
    else if sealedRefused s p f then .next (dropFrame s n 26)
    else if slotKind f = 0 then (if fitsBefore s src f.len then .next (startSlot s p g n src) else .next s)
    else if s.timebase.toNat < f.wire / 64 ∨ earlierWire s src (1024 * p + g) f.wire then .next s
    else .next (startSlot s p g n src)

/-- After 2²⁴ draws a MASKED channel's generator takes a fresh seed (R118). -/
def execGlazeReseed (p g : Nat) (s : State) : Host.Outcome State Fault Refusal :=
  let c := chanAt s p g
  if c.running && pMode (gprofOf s c.epoch p g) == 2 && decide (2 ^ 24 ≤ c.draws) then .next (reseedChan s p g) else .next s

end Sys2Proof.Machine
end

