-- ==== Sys2Proof/Machine/MlKem.lean ====
section
/-! DEFINITION. ML-KEM-1024 of FIPS 203 (R79): key generation, decapsulation with implicit rejection, and the encryption
they use. -/

namespace Sys2Proof.Machine

/-- Candidates of SampleNTT: two 12-bit numbers from each three bytes. -/
def kemCands : List Byte → List Nat
  | a :: b :: c :: r => (a.toNat + 256 * (b.toNat % 16)) :: (b.toNat / 16 + 16 * c.toNat) :: kemCands r
  | _ => []

/-- SampleNTT: the first 256 candidates below q of SHAKE128. -/
def kemSample (seed : List Byte) : List Nat := ((kemCands (shake128 seed 2016)).filter (fun x => decide (x < mlkemQ))).take 256

/-- The matrix entry for row i and column j. -/
def kemA (rho : List Byte) (i j : Nat) : List Nat := kemSample (rho ++ [BitVec.ofNat 8 j, BitVec.ofNat 8 i])

/-- SamplePolyCBD with eta 2 of PRF with counter n. -/
def kemCbd (sigma : List Byte) (n : Nat) : List Nat :=
  let bs := shake256 (sigma ++ [BitVec.ofNat 8 n]) 128
  (List.range 256).map (fun i =>
    let x := byteAt bs (i / 2) / 16 ^ (i % 2)
    (x % 2 + x / 2 % 2 + mlkemQ - x / 4 % 2 - x / 8 % 2) % mlkemQ)

/-- The forward transform. -/
def kemNtt (f : List Nat) : List Nat := nttLayers false 7 0 f
/-- The inverse transform. -/
def kemInv (f : List Nat) : List Nat := nttLayers true 7 0 f

/-- A sum of polynomials. -/
def kemAdd (f g : List Nat) : List Nat := (f.zip g).map (fun p => (p.1 + p.2) % mlkemQ)
/-- A difference of polynomials. -/
def kemSub (f g : List Nat) : List Nat := (f.zip g).map (fun p => (p.1 + mlkemQ - p.2 % mlkemQ) % mlkemQ)

/-- MultiplyNTTs. -/
def kemMul (f g : List Nat) : List Nat :=
  (List.range 128).flatMap (fun i =>
    let a0 := f.getD (2 * i) 0; let a1 := f.getD (2 * i + 1) 0
    let b0 := g.getD (2 * i) 0; let b1 := g.getD (2 * i + 1) 0
    [(a0 * b0 + a1 * b1 % mlkemQ * powQ 17 (2 * revBits 7 i + 1)) % mlkemQ, (a0 * b1 + a1 * b0) % mlkemQ])

/-- The sum of products of two vectors in the transformed domain. -/
def kemDot (xs ys : List (List Nat)) : List Nat :=
  (xs.zip ys).foldl (fun acc p => kemAdd acc (kemMul p.1 p.2)) (List.replicate 256 0)

/-- ByteEncode with d bits. -/
def kemEncode (d : Nat) (f : List Nat) : List Byte :=
  leBytes (32 * d) ((f.zip (List.range f.length)).foldl (fun a p => a + p.1 * 2 ^ (d * p.2)) 0)

/-- ByteDecode with d bits; 12-bit values are reduced. -/
def kemDecode (d : Nat) (bs : List Byte) : List Nat :=
  let x := leNat bs
  (List.range 256).map (fun i => let v := x / 2 ^ (d * i) % 2 ^ d; if d = 12 then v % mlkemQ else v)

/-- Compress to d bits. -/
def kemCompress (d x : Nat) : Nat := (2 * 2 ^ d * x + mlkemQ) / (2 * mlkemQ) % 2 ^ d
/-- Decompress from d bits. -/
def kemExpand (d y : Nat) : Nat := (2 * mlkemQ * y + 2 ^ d) / (2 * 2 ^ d)

/-- K-PKE.KeyGen: encryption and decryption keys. -/
def kemPkeGen (d : List Byte) : List Byte × List Byte :=
  let g := sha3_512 (d ++ [4])
  let rho := g.take 32
  let sigma := g.drop 32
  let s := (List.range 4).map (fun i => kemNtt (kemCbd sigma i))
  let t := (List.range 4).map (fun i =>
    kemAdd (kemDot ((List.range 4).map (fun j => kemA rho i j)) s) (kemNtt (kemCbd sigma (4 + i))))
  (t.flatMap (kemEncode 12) ++ rho, s.flatMap (kemEncode 12))

/-- K-PKE.Encrypt. -/
def kemEncrypt (ek m r : List Byte) : List Byte :=
  let t := (List.range 4).map (fun i => kemDecode 12 (slice ek (384 * i) 384))
  let rho := slice ek 1536 32
  let y := (List.range 4).map (fun i => kemNtt (kemCbd r i))
  let u := (List.range 4).map (fun i =>
    kemAdd (kemInv (kemDot ((List.range 4).map (fun j => kemA rho j i)) y)) (kemCbd r (4 + i)))
  let v := kemAdd (kemAdd (kemInv (kemDot t y)) (kemCbd r 8)) ((kemDecode 1 m).map (kemExpand 1))
  u.flatMap (fun f => kemEncode 11 (f.map (kemCompress 11))) ++ kemEncode 5 (v.map (kemCompress 5))

/-- K-PKE.Decrypt. -/
def kemDecrypt (dk ct : List Byte) : List Byte :=
  let u := (List.range 4).map (fun i => (kemDecode 11 (slice ct (352 * i) 352)).map (kemExpand 11))
  let v := (kemDecode 5 (slice ct 1408 160)).map (kemExpand 5)
  let s := (List.range 4).map (fun i => kemDecode 12 (slice dk (384 * i) 384))
  kemEncode 1 ((kemSub v (kemInv (kemDot s (u.map kemNtt)))).map (kemCompress 1))

/-- KeyGen_internal: encapsulation and decapsulation keys. -/
def kemKeyGen (d z : List Byte) : List Byte × List Byte :=
  let (ek, dk) := kemPkeGen d
  (ek, dk ++ ek ++ sha3_256 ek ++ z)

/-- Decaps_internal: the shared secret, with implicit rejection. -/
def kemDecaps (dk ct : List Byte) : List Byte :=
  let ek := slice dk 1536 1568
  let h := slice dk 3104 32
  let z := slice dk 3136 32
  let m := kemDecrypt (dk.take 1536) ct
  let g := sha3_512 (m ++ h)
  if kemEncrypt ek m (g.drop 32) == ct then g.take 32 else shake256 (z ++ ct) 32

end Sys2Proof.Machine
end

