-- ==== Sys2Proof/Machine/Power.lean ====
section
/-! DEFINITION. Resets of the whole part (R321, R343, R363), rails, temperature (R361 to R363), power gating of calderas
(R277, R364), HBM zeroing and patrol scrub (R268, R269). -/

namespace Sys2Proof.Machine

/-! ### Reset of the part -/

/-- Every island and register at reset (R321): the fuses, the balls, the TAP, the state of the rails and the host's
memory are not the part's to reset. `src` is RSTSRC. -/
def resetPart (s : State) (src : BitVec 2) : State :=
  { State.reset with
      pending := s.pending
      freeCtr := s.freeCtr
      balls := s.balls
      fuses := s.fuses
      hostMem := s.hostMem
      jtag := s.jtag
      power := { rstsrc := src, railLow := s.power.railLow, tripped := s.power.tripped } }

/-- Priming starts at stage A when nothing holds the islands in reset (R321, R343, R363). -/
def startPriming (s : State) : State :=
  if s.glob.phase = .reset ∧ s.balls.poresetN ∧ ¬ s.power.railLow ∧ ¬ s.power.tripped then
    { s with glob := { s.glob with phase := .stageA } }
  else s

/-- PORESET_N is asserted (R321); balls that a tester took belong to the logic again (R350). -/
def execPoresetNAssert (s : State) : Host.Outcome State Fault Refusal :=
  let s1 := resetPart s 0
  .next { s1 with
      balls := { s1.balls with poresetN := false }
      power := { s1.power with tripped := false }
      jtag := { s1.jtag with taken := false } }

/-- PORESET_N is released (R321). -/
def execPoresetNRelease (s : State) : Host.Outcome State Fault Refusal :=
  .next (startPriming { s with balls := { s.balls with poresetN := true } })

/-- Rail k falls below 90 % of nominal for more than 1 µs (R343). Loss of VDD_IO, rail 5, counts as PORESET_N does. -/
def execRailLowReset (k : Nat) (s : State) : Host.Outcome State Fault Refusal :=
  .next (
    if 6 ≤ k then s
    else
      let s1 := resetPart s (if k = 5 then 0 else 1)
      { s1 with power := { s1.power with railLow := true } })

/-- The rails have recovered (R343). -/
def execRailsRecovered (s : State) : Host.Outcome State Fault Refusal :=
  .next (startPriming { s with power := { s.power with railLow := false } })

/-! ### Rails and temperature -/

/-- Nominal voltages in mV, numbered as VMON (R341). -/
def railNominal (k : Nat) : Nat := [750, 800, 900, 1200, 1100, 1800].getD k 0

/-- Tolerance in per cent. -/
def railTol (k : Nat) : Nat := if k = 5 then 5 else 3

/-- Whether a rail's voltage is outside its tolerance and at least 90 % of nominal (R343). -/
def railOff (k mv : Nat) : Bool :=
  (decide (100 * mv < railNominal k * (100 - railTol k)) || decide (railNominal k * (100 + railTol k) < 100 * mv)) &&
  decide (90 * railNominal k ≤ 100 * mv)

/-- Rail k is measured at mv millivolts: VMON, and the RAIL event with POWER_ERR.RAIL where it is out of tolerance. -/
def execRail (k : Nat) (mv : BitVec 12) (s : State) : Host.Outcome State Fault Refusal :=
  .next (
    if 6 ≤ k ∨ s.glob.phase = .reset then s
    else
      let s1 := { s with power := { s.power with vmon := fset k mv s.power.vmon } }
      if railOff k mv.toNat then powerErr (postEvent s1 0 6 5 (k * 256)) 1 else s1)

/-- Whether a sensor's unit is present (R361). -/
def sensorFitted (s : State) (n : Nat) : Bool :=
  if n < 12 then calFitted s n
  else if n < 20 then decide (n - 12 < nLces s)
  else if n < 24 then decide (n - 20 < nStacks s)
  else decide (n < 29)

/-- Priming fails with a code (R325): the message of vector 0; a retryable code opens the staging area again (R327). -/
def setFail (s : State) (code detail : Nat) : State :=
  msixFire { s with glob := { s.glob with
      phase := .failed
      stagingShut := s.glob.stagingShut && !(decide (1 ≤ code) && decide (code ≤ 8))
      fail := BitVec.ofNat 8 code
      failDetail := BitVec.ofNat 8 detail } } 0 0

/-- The shutdown state (R363): SHUT, every port idle, every caldera with a clock at 600 MHz, and the event. -/
def shutdown (s : State) (n : Nat) (r : Byte) : State :=
  let s1 := { s with power := { s.power with shut := true } }
  let s2 := (List.range 4).foldl (fun s p => portDown s p 5) s1
  let s3 := (List.range 12).foldl (fun s c => if (calAt s c).clk ≠ 0 then updCal s c (fun x => { x with clk := 600 }) else s) s2
  postEvent s3 0 6 2 (n * 256 + r.toNat * 2 ^ 13)

/-- Easel's present period (R123). -/
def easelNow (s : State) : Nat := s.timebase.toNat / 100000

/-- One reading, °C + 64, of a sensor: TEMP and, for a caldera, the highest reading of the period in which it is taken. -/
def noteTemp (s : State) (n : Nat) (r : Byte) : State :=
  let s1 := { s with power := { s.power with temp := fset n (BitVec.ofNat 9 (256 + r.toNat)) s.power.temp } }
  let k := easelNow s
  if n < 12 then updCal s1 n (fun c => { c with
    hot := fset k (if fget 0 c.hot k < r then r else fget 0 c.hot k) (c.hot.filter (fun p => decide (k ≤ p.1 + 1))) }) else s1

/-- Whether a reading at the shutdown threshold shuts the part down: from PRIMED on, and once Priming has ended in a FAIL
that is final. Until then it fails Priming (R325, R363). -/
def shutsDown (s : State) : Bool := s.glob.phase == .primed || (s.glob.phase == .failed && !failRetryable s)

/-- The sensors are sampled (R361): a reading of 125 °C trips the part, whose always-on island
keeps TIMEBASE (R12, R363) and the shutdown state, which lasts until PORESET_N; one at the shutdown threshold shuts it
down, or fails Priming. Before stage A has calibrated the sensors nothing is sampled. -/
def thermalSample (s : State) (rs : List (Nat × Byte)) : State :=
  let ph := s.glob.phase
  if ph = .reset ∨ ph = .stageA then s
  else
    let xs := rs.filter (fun p => sensorFitted s p.1)
    if xs.any (fun p => decide (125 + 64 ≤ p.2.toNat)) then
      let s1 := resetPart s 2
      { s1 with
          timebase := s.timebase
          power := { s1.power with
            tripped := true
            shut := s.power.shut || shutsDown s } }
    else
      let s1 := xs.foldl (fun s p => noteTemp s p.1 p.2) s
      match xs.find? (fun p => decide (s.power.shutdown.toNat + 64 ≤ p.2.toNat)) with
      | none => s1
      | some p =>
        if shutsDown s then (if s.power.shut then s1 else shutdown s1 p.1 p.2)
        else setFail s1 15 0

/-- The sensors are sampled (R361). -/
def execThermalSample (rs : List (Nat × Byte)) (s : State) : Host.Outcome State Fault Refusal := .next (thermalSample s rs)

/-! ### Power gating of calderas -/

/-- The CALDERA sections in force are copied into a caldera memory, which protects them (R332). -/
def loadSections (s : State) (c : Nat) : State :=
  let s1 := s.glob.sections.foldl (fun s p => putDie s (addrBytes (calBase c + p.1) p.2)) s
  updCal s1 c (fun x => { x with prot := s.glob.sections.map (fun p => (p.1, p.2.length)) })

/-- What a vent of a caldera holds is lost, and its palette zeroed. -/
def wipeVent (s : State) (v : Nat) : State :=
  let old := ventDown s.timebase (ventAt s v)
  setVent (zeroMem s (palBase v) 0x40000) v { upAt := old.upAt, downAt := old.downAt }

/-- What a caldera holds is lost (R277 step 4), or zeroed (R75): palettes, caldera memory, vents; and DMA channels are
IDLE, those of a sealed caldera too, of which R75 says nothing (notes/assumptions/40.md). -/
def wipeCal (s : State) (c : Nat) : State :=
  let s1 := zeroMem s (calBase c) 0x400000
  let s2 := (List.range 8).foldl (fun s i => wipeVent s (8 * c + i)) s1
  let s3 := (List.range 16).foldl (fun s i => updDma s (16 * c + i) (fun _ => {})) s2
  let bad (w : Nat) : Bool := (decide (calBase c ≤ 4 * w) && decide (4 * w < calBase c + 0x400000)) ||
    (decide (palBase (8 * c) ≤ 4 * w) && decide (4 * w < palBase (8 * c + 8)))
  { updCal s3 c (fun x => { x with prot := [] }) with
      hbm := { s3.hbm with badWords := s3.hbm.badWords.filter (fun w => !bad w) }
      easel := { s3.easel with ctxCache := fdel c s3.easel.ctxCache } }

/-- What is still in flight in a caldera's island: reads it has accepted, far accesses of its vents, and locks held on it. -/
def calInFlight (s : State) (c : Nat) : Bool :=
  (List.range (mvNum + 1)).any (fun v => (ventAt s v).fl.far.any (fun l => l.pieces.any (fun p => p.accepted && inIsland c p.maddr))) ||
  (List.range 8).any (fun i => let f := (ventAt s (8 * c + i)).fl; !(f.far.isEmpty && f.farWrites.isEmpty)) ||
  s.mx.locks.any (fun l => !l.ended && l.target / 2 == c && decide (l.target < 24))

/-- R277 step 3: what remains in flight is ended, and MX_ERR.DOMOFF is set. A read that the island had accepted receives
DOMAIN_OFF whenever its response comes. MASTER and TARGET name the island's first port of each kind. -/
def domainEnd (s : State) (c : Nat) : State :=
  let s1 := (List.range 8).foldl (fun s i => updVent s (8 * c + i) (fun vt => { vt with fl := { vt.fl with
      far := []
      farWrites := [] } })) (acceptFar s c false)
  mxErr { s1 with mx := { s1.mx with locks := s1.mx.locks.map (fun l =>
    if l.target / 2 = c ∧ l.target < 24 then { l with ended := true } else l) } }
    1 (2 * c) (2 * c)

/-- Whether transactions remain in flight in a caldera's island 10 µs into its gating (R4, R277). -/
def domainDue (s : State) (c : Nat) : Bool :=
  (calAt s c).power == .gating && decide ((calAt s c).gateTick + 10000 ≤ s.timebase) && calInFlight s c

/-- They are ended; DMA channels that waited for a lock held there go on. -/
def domainStop (s : State) (c : Nat) : State := if domainDue s c then dmaSettle (domainEnd s c) else s

/-- What every gating that is past its 10 µs has ended before a response that comes now (R4). -/
def domainLapse (s : State) : State := (List.range (nCals s)).foldl domainStop s

/-- 10 µs into a gating, transactions that remain are ended (R277). -/
def execDomainOffTimeout (c : Nat) (s : State) : Host.Outcome State Fault Refusal := .next (domainStop s c)

/-- The gating of a caldera completes once nothing is in flight (R277 step 4, R364); a caldera whose bit has been
cleared meanwhile powers up. -/
def execCalderaGated (c : Nat) (s : State) : Host.Outcome State Fault Refusal :=
  .next (
    if (calAt s c).power = .gating ∧ ¬ calInFlight s c then
      postEvent (updCal (wipeCal s c) c (fun x => { x with
        power := if s.power.calgate.getLsbD c then .off else .powering
        clk := 0 })) 0 6 4 (c * 256 + 2 ^ 12)
    else s)

/-- A caldera has powered up (R364): its sections are copied in, its vents are held, and it is ON. -/
def execCalderaPowerUp (c : Nat) (s : State) : Host.Outcome State Fault Refusal :=
  .next (
    if (calAt s c).power = .powering then
      postEvent (loadSections (updCal s c (fun x => { x with power := .on, clk := if s.power.shut then 600 else s.power.vclk.toNat })) c) 0 6 4 (c * 256)
    else s)

/-! ### HBM zeroing and patrol scrub -/

/-- The controllers zero the next marked region (R268). -/
def execHbmZeroing (s : State) : Host.Outcome State Fault Refusal := .next (zeroRegion s s.hbm.zeroNext)

/-- The counter of scrub passes, at HBM's last word. -/
def scrubPassed (s : State) (o : Nat) : State :=
  if o / 32 = hbmSize s / 32 - 1 then { s with hbm := { s.hbm with scrubPass := s.hbm.scrubPass + 1 } } else s

/-- Scrub of HBM offset o, or an error that arises there. Marked regions give no ECC event (R268). -/
def scrubHbm (s : State) (o : Nat) (f : ScrubFound) : State :=
  if hbmSize s ≤ o ∨ ¬ s.hbm.trained.getLsbD (hbmStack s o) then s
  else
    let put (t : State) (l : FMap Bool) : State := { t with hbm := { t.hbm with latent := l } }
    match f with
    | .arises unc => if hbmMarked s (o / 0x100000) then s else put s (fset (o / 32) unc s.hbm.latent)
    | f =>
      let met : ScrubFound := match ffind s.hbm.latent (o / 32) with
        | some unc => if unc then .uncorrectable else if f = .clean then .correctable else f
        | none => f
      let s1 := if hbmMarked s (o / 0x100000) then s else match met with
        | .correctable => hbmCorrected s
        | .uncorrectable => hbmPoison s 2 (o / 32)
        | _ => s
      scrubPassed (put s1 (fdel (o / 32) s1.hbm.latent)) o

/-- CTX_ERR bit b with CTX_ERRADDR. -/
def storeUe (s : State) (b o : Nat) : State :=
  let s1 := ctxErr s b
  { s1 with store := { s1.store with errAddr := BitVec.ofNat 32 o } }

/-- An uncorrectable error at a byte of the context and key store (R71, CTX_ERR). -/
def storeScrub (s : State) (o : Nat) : State :=
  match storeLoc o with
  | .ctx c i =>
    let s1 := match ctxByteSlot i with
      | some k => updCtx s c (fun r => { r with ue := r.ue ||| ((1 : Byte) <<< k) })
      | none => s
    storeUe s1 4 o
  | .key k _ =>
    let s1 := if s.store.ueKeys.contains k then s
      else { s with store := { s.store with ueKeys := k :: s.store.ueKeys } }
    storeUe s1 5 o
  | .win w _ =>
    let s1 := match ffind s.store.winOwner w with
      | some k => setWin s (k / 6) (k % 6) { winAt s (k / 6) (k % 6) with wue := true }
      | none => s
    storeUe s1 6 o
  | _ => s

/-- Scrub finds an uncorrectable error in the palette or caldera memory of a vent (R239): a machine check falls due, or
locks the vent up. `a` is the vent address. -/
def scrubVent (s : State) (v a : Nat) : State :=
  updVent s v (fun vt =>
    if vt.held then vt
    else
      let vt1 := mcRecord vt (mcSrc vt v a true) a
      if ventMcact vt then lockUp vt1 else { vt1 with evt := { vt1.evt with mcPend := some (BitVec.ofNat 32 a) } })

/-- A word of an on-die store is uncorrectable from now on. -/
def markBad (s : State) (a : Nat) : State :=
  { s with hbm := { s.hbm with badWords := if s.hbm.badWords.contains (a / 4) then s.hbm.badWords else a / 4 :: s.hbm.badWords } }

/-- An uncorrectable error arises in a cell of a vent's register file; it stands there until an operand read meets it or a
write replaces it (R239). -/
def markReg (s : State) (v x : Nat) : State :=
  updVent s v (fun vt => { vt with badRegs := if vt.badRegs.contains x then vt.badRegs else x :: vt.badRegs })

/-- Scrub of matrix address a (R269). A correctable error of an on-die store is corrected; the context store and the PB record
it (CTX_ERR, QM_ERR.CE). -/
def patrolScrub (s : State) (a : Nat) (f : ScrubFound) : State :=
  match f with
  | .register v x => if ventFitted s v then markReg s v x else s
  | .codeLine v b => if ventFitted s v then updVent s v (fun vt => { vt with fl := { vt.fl with
      icache := vt.fl.icache.map (fun l => if l.block = b then { l with bad := true } else l) } }) else s
  | f =>
  match matLoc .kc a s with
  | .hbm o => scrubHbm s o f
  | .store o => (match f with
    | .correctable => ctxErr s 3
    | .uncorrectable => storeScrub s o
    | _ => s)
  | .pb o => (match f with
    | .correctable => qmErr s 3
    | .uncorrectable => pbUe (markBad s a) (o / 256)
    | .arises true => markBad s a
    | _ => s)
  | .pal v o =>
    if f = .arises true ∧ (calAt s (v / 8)).power = .on then markBad s a
    else if f = .uncorrectable ∧ (calAt s (v / 8)).power = .on then scrubVent (markBad s a) v o
    else s
  | .cal c o =>
    if f = .arises true ∧ (calAt s c).power = .on ∧ o < 0x400000 then markBad s a
    else if f = .uncorrectable ∧ (calAt s c).power = .on ∧ o < 0x400000 then
      (List.range 8).foldl (fun s i => scrubVent s (8 * c + i) (0x100000 + o)) (markBad s a) else s
  | .mv o => if f = .uncorrectable ∨ f = .arises true then markBad s (mvBase + o) else s
  | _ => s

/-- Patrol scrub reads a word (R269). -/
def execPatrolScrub (addr : Nat) (found : ScrubFound) (s : State) : Host.Outcome State Fault Refusal :=
  .next (if s.glob.phase = .primed then patrolScrub s addr found else s)

end Sys2Proof.Machine
end

