-- ==== Sys2Proof/Machine/Slh.lean ====
section
/-! DEFINITION. SLH-DSA of FIPS 205 with SHAKE (R324, R331, R333, R336): the parameter sets 256s and 256f, key generation,
signing and verification. -/

namespace Sys2Proof.Machine

/-- A parameter set: n = 32 and lg w = 4 throughout. h' is h / d. -/
structure SlhParams where
  h : Nat
  d : Nat
  a : Nat
  k : Nat
  m : Nat
deriving DecidableEq, Repr

/-- SLH-DSA-SHAKE-256s. -/
def slh256s : SlhParams := { h := 64, d := 8, a := 14, k := 22, m := 47 }
/-- SLH-DSA-SHAKE-256f. -/
def slh256f : SlhParams := { h := 68, d := 17, a := 9, k := 35, m := 49 }

/-- h'. -/
def SlhParams.hp (p : SlhParams) : Nat := p.h / p.d

/-- Bytes of a signature. -/
def slhSigLen (p : SlhParams) : Nat := 32 * (1 + p.k * (1 + p.a) + p.h + p.d * 67)

/-- An address: layer, tree, type, and its last three words. -/
structure SlhAdrs where
  layer : Nat := 0
  tree : Nat := 0
  typ : Nat := 0
  w1 : Nat := 0
  w2 : Nat := 0
  w3 : Nat := 0
deriving DecidableEq, Repr

/-- Its 32 bytes. -/
def SlhAdrs.bytes (x : SlhAdrs) : List Byte :=
  beBytes 4 x.layer ++ beBytes 12 x.tree ++ beBytes 4 x.typ ++ beBytes 4 x.w1 ++ beBytes 4 x.w2 ++ beBytes 4 x.w3

/-- F, H and T: SHAKE256 of PK.seed, the address and a message. -/
def slhT (pkSeed : List Byte) (x : SlhAdrs) (msg : List Byte) : List Byte := shake256 (pkSeed ++ x.bytes ++ msg) 32

/-- A chain of n steps from step i. -/
def slhChain (pkSeed : List Byte) (x : SlhAdrs) : Nat → Nat → List Byte → List Byte
  | 0, _, v => v
  | n + 1, i, v => slhChain pkSeed x n (i + 1) (slhT pkSeed { x with w3 := i } v)

/-- The 67 base-16 digits of a 32-byte message and its checksum. -/
def slhDigits (msg : List Byte) : List Nat :=
  let ds := msg.flatMap (fun b => [b.toNat / 16, b.toNat % 16])
  let c := (ds.map (fun d => 15 - d)).sum
  ds ++ [c / 256 % 16, c / 16 % 16, c % 16]

/-- The WOTS+ secret of chain i of a key pair. -/
def slhWotsSk (skSeed pkSeed : List Byte) (x : SlhAdrs) (kp i : Nat) : List Byte :=
  slhT pkSeed { x with typ := 5, w1 := kp, w2 := i, w3 := 0 } skSeed

/-- The WOTS+ public key of the 67 chain ends of a key pair. -/
def slhWotsEnd (pkSeed : List Byte) (x : SlhAdrs) (kp : Nat) (ends : List (List Byte)) : List Byte :=
  slhT pkSeed { x with typ := 1, w1 := kp, w2 := 0, w3 := 0 } ends.flatten

/-- The WOTS+ public key of a key pair. -/
def slhWotsPk (skSeed pkSeed : List Byte) (x : SlhAdrs) (kp : Nat) : List Byte :=
  slhWotsEnd pkSeed x kp ((List.range 67).map (fun i =>
    slhChain pkSeed { x with typ := 0, w1 := kp, w2 := i } 15 0 (slhWotsSk skSeed pkSeed x kp i)))

/-- A WOTS+ signature. -/
def slhWotsSign (skSeed pkSeed : List Byte) (x : SlhAdrs) (kp : Nat) (msg : List Byte) : List Byte :=
  ((slhDigits msg).zip (List.range 67)).flatMap (fun p =>
    slhChain pkSeed { x with typ := 0, w1 := kp, w2 := p.2 } p.1 0 (slhWotsSk skSeed pkSeed x kp p.2))

/-- The WOTS+ public key that a signature leads to. -/
def slhWotsFrom (pkSeed : List Byte) (x : SlhAdrs) (kp : Nat) (msg sig : List Byte) : List Byte :=
  slhWotsEnd pkSeed x kp (((slhDigits msg).zip (List.range 67)).map (fun p =>
    slhChain pkSeed { x with typ := 0, w1 := kp, w2 := p.2 } (15 - p.1) p.1 (slice sig (32 * p.2) 32)))

/-- Node i at height z of the XMSS tree of an address. -/
def slhXmssNode (skSeed pkSeed : List Byte) (x : SlhAdrs) : Nat → Nat → List Byte
  | 0, i => slhWotsPk skSeed pkSeed x i
  | z + 1, i => slhT pkSeed { x with typ := 2, w1 := 0, w2 := z + 1, w3 := i }
      (slhXmssNode skSeed pkSeed x z (2 * i) ++ slhXmssNode skSeed pkSeed x z (2 * i + 1))

/-- A number with its lowest bit inverted. -/
def slhSibling (k : Nat) : Nat := if k % 2 = 0 then k + 1 else k - 1

/-- A root from a node and its authentication path; `base` is the leaf's index. -/
def slhClimb (pkSeed : List Byte) (x : SlhAdrs) : List (List Byte) → Nat → Nat → List Byte → List Byte
  | [], _, _, v => v
  | s :: r, z, i, v =>
    slhClimb pkSeed x r (z + 1) (i / 2) (slhT pkSeed { x with w2 := z + 1, w3 := i / 2 } (if i % 2 = 0 then v ++ s else s ++ v))

/-- An XMSS signature: WOTS+ signature and path. -/
def slhXmssSign (p : SlhParams) (skSeed pkSeed : List Byte) (x : SlhAdrs) (idx : Nat) (msg : List Byte) : List Byte :=
  slhWotsSign skSeed pkSeed x idx msg ++
  (List.range p.hp).flatMap (fun j => slhXmssNode skSeed pkSeed x j (slhSibling (idx / 2 ^ j)))

/-- The root that an XMSS signature leads to. -/
def slhXmssFrom (p : SlhParams) (pkSeed : List Byte) (x : SlhAdrs) (idx : Nat) (msg sig : List Byte) : List Byte :=
  slhClimb pkSeed { x with typ := 2, w1 := 0 } (chunks 32 p.hp (sig.drop 2144)) 0 idx (slhWotsFrom pkSeed x idx msg sig)

/-- The layers of a hypertree signature from layer j on. -/
def slhHtSign (p : SlhParams) (skSeed pkSeed : List Byte) : Nat → Nat → Nat → Nat → List Byte → List Byte
  | 0, _, _, _, _ => []
  | f + 1, j, tree, leaf, msg =>
    let x : SlhAdrs := { layer := j, tree := tree }
    let sig := slhXmssSign p skSeed pkSeed x leaf msg
    sig ++ slhHtSign p skSeed pkSeed f (j + 1) (tree / 2 ^ p.hp) (tree % 2 ^ p.hp) (slhXmssFrom p pkSeed x leaf msg sig)

/-- The root that a hypertree signature leads to. -/
def slhHtFrom (p : SlhParams) (pkSeed : List Byte) : Nat → Nat → Nat → Nat → List Byte → List Byte → List Byte
  | 0, _, _, _, msg, _ => msg
  | f + 1, j, tree, leaf, msg, sig =>
    slhHtFrom p pkSeed f (j + 1) (tree / 2 ^ p.hp) (tree % 2 ^ p.hp)
      (slhXmssFrom p pkSeed { layer := j, tree := tree } leaf msg sig) (sig.drop (2144 + 32 * p.hp))

/-- The k indices of a FORS message. -/
def slhForsIdx (p : SlhParams) (md : List Byte) : List Nat :=
  let x := beNat md
  (List.range p.k).map (fun i => x / 2 ^ (8 * md.length - p.a * (i + 1)) % 2 ^ p.a)

/-- A FORS secret. -/
def slhForsSk (skSeed pkSeed : List Byte) (x : SlhAdrs) (i : Nat) : List Byte :=
  slhT pkSeed { x with typ := 6, w2 := 0, w3 := i } skSeed

/-- Node i at height z of the FORS trees. -/
def slhForsNode (skSeed pkSeed : List Byte) (x : SlhAdrs) : Nat → Nat → List Byte
  | 0, i => slhT pkSeed { x with typ := 3, w2 := 0, w3 := i } (slhForsSk skSeed pkSeed x i)
  | z + 1, i => slhT pkSeed { x with typ := 3, w2 := z + 1, w3 := i }
      (slhForsNode skSeed pkSeed x z (2 * i) ++ slhForsNode skSeed pkSeed x z (2 * i + 1))

/-- A FORS signature. -/
def slhForsSign (p : SlhParams) (skSeed pkSeed : List Byte) (x : SlhAdrs) (md : List Byte) : List Byte :=
  ((slhForsIdx p md).zip (List.range p.k)).flatMap (fun q =>
    slhForsSk skSeed pkSeed x (q.2 * 2 ^ p.a + q.1) ++
    (List.range p.a).flatMap (fun j => slhForsNode skSeed pkSeed x j (q.2 * 2 ^ (p.a - j) + slhSibling (q.1 / 2 ^ j))))

/-- The FORS public key that a signature leads to. -/
def slhForsFrom (p : SlhParams) (pkSeed : List Byte) (x : SlhAdrs) (md sig : List Byte) : List Byte :=
  let roots := ((slhForsIdx p md).zip (List.range p.k)).map (fun q =>
    let t := slice sig (q.2 * 32 * (p.a + 1)) (32 * (p.a + 1))
    let i := q.2 * 2 ^ p.a + q.1
    let y : SlhAdrs := { x with typ := 3 }
    slhClimb pkSeed y (chunks 32 p.a (t.drop 32)) 0 i (slhT pkSeed { y with w2 := 0, w3 := i } (t.take 32)))
  slhT pkSeed { x with typ := 4, w2 := 0, w3 := 0 } roots.flatten

/-- The parts of a message digest: the FORS message, the tree and the leaf. -/
def slhSplit (p : SlhParams) (digest : List Byte) : List Byte × Nat × Nat :=
  let ka := (p.k * p.a + 7) / 8
  let tl := (p.h - p.hp + 7) / 8
  let ll := (p.hp + 7) / 8
  (digest.take ka, beNat (slice digest ka tl) % 2 ^ (p.h - p.hp), beNat (slice digest (ka + tl) ll) % 2 ^ p.hp)

/-- The message of the pure form: a zero byte, the context string with its length, and the message. -/
def slhPure (ctx msg : List Byte) : List Byte := [0, BitVec.ofNat 8 ctx.length] ++ ctx ++ msg

/-- PK.root. -/
def slhRoot (p : SlhParams) (skSeed pkSeed : List Byte) : List Byte :=
  slhXmssNode skSeed pkSeed { layer := p.d - 1 } p.hp 0

/-- A hedged signature with 32 random bytes. -/
def slhSign (p : SlhParams) (skSeed skPrf pkSeed pkRoot rnd ctx msg : List Byte) : List Byte :=
  let m := slhPure ctx msg
  let r := shake256 (skPrf ++ rnd ++ m) 32
  let (md, tree, leaf) := slhSplit p (shake256 (r ++ pkSeed ++ pkRoot ++ m) p.m)
  let x : SlhAdrs := { tree := tree, typ := 3, w1 := leaf }
  let fors := slhForsSign p skSeed pkSeed x md
  r ++ fors ++ slhHtSign p skSeed pkSeed p.d 0 tree leaf (slhForsFrom p pkSeed x md fors)

/-- Verification under a public key of 64 bytes. -/
def slhVerify (p : SlhParams) (pk ctx msg sig : List Byte) : Bool :=
  let pkSeed := pk.take 32
  let root := pk.drop 32
  let m := slhPure ctx msg
  let (md, tree, leaf) := slhSplit p (shake256 (sig.take 32 ++ pkSeed ++ root ++ m) p.m)
  let x : SlhAdrs := { tree := tree, typ := 3, w1 := leaf }
  let fors := slice sig 32 (32 * p.k * (p.a + 1))
  sig.length == slhSigLen p &&
    slhHtFrom p pkSeed p.d 0 tree leaf (slhForsFrom p pkSeed x md fors) (sig.drop (32 + 32 * p.k * (p.a + 1))) == root

end Sys2Proof.Machine
end

