-- ==== Sys2Proof/Machine/X25519.lean ====
section
/-! DEFINITION. X25519 of RFC 7748 (R78). -/

namespace Sys2Proof.Machine

/-- 2^255 − 19. -/
def x25519P : Nat := 2 ^ 255 - 19

/-- b to the power e modulo p, bits of e from the most significant of n. -/
def powMod (p b : Nat) (e : Nat) : Nat → Nat → Nat
  | 0, acc => acc
  | n + 1, acc =>
    let sq := acc * acc % p
    powMod p b e n (if e.testBit n then sq * b % p else sq)

/-- A scalar clamped (RFC 7748). -/
def x25519Clamp (k : List Byte) : Nat := (leNat k % 2 ^ 254) / 8 * 8 + 2 ^ 254

/-- The bytes of a clamped scalar. -/
def x25519Scalar (k : List Byte) : List Byte := leBytes 32 (x25519Clamp k)

/-- The ladder's state. -/
structure Ladder where
  x2 : Nat
  z2 : Nat
  x3 : Nat
  z3 : Nat

/-- One step of the Montgomery ladder without its swaps. -/
def ladderStep (x1 : Nat) (l : Ladder) : Ladder :=
  let p := x25519P
  let a := (l.x2 + l.z2) % p
  let aa := a * a % p
  let b := (l.x2 + p - l.z2) % p
  let bb := b * b % p
  let e := (aa + p - bb) % p
  let c := (l.x3 + l.z3) % p
  let d := (l.x3 + p - l.z3) % p
  let da := d * a % p
  let cb := c * b % p
  let s := (da + cb) % p
  let t := (da + p - cb) % p
  { x3 := s * s % p, z3 := x1 * (t * t % p) % p, x2 := aa * bb % p, z2 := e * ((aa + 121665 * e) % p) % p }

/-- The ladder over bits n − 1 to 0 of k; a bit of 1 exchanges the pairs around the step. -/
def ladder (k x1 : Nat) : Nat → Ladder → Ladder
  | 0, l => l
  | n + 1, l =>
    if k.testBit n then
      let r := ladderStep x1 { x2 := l.x3, z2 := l.z3, x3 := l.x2, z3 := l.z2 }
      ladder k x1 n { x2 := r.x3, z2 := r.z3, x3 := r.x2, z3 := r.z2 }
    else ladder k x1 n (ladderStep x1 l)

/-- X25519 of a scalar and a u-coordinate, each 32 bytes. -/
def x25519 (k u : List Byte) : List Byte :=
  let x1 := leNat u % 2 ^ 255 % x25519P
  let l := ladder (x25519Clamp k) x1 255 { x2 := 1, z2 := 0, x3 := x1, z3 := 1 }
  leBytes 32 (l.x2 * powMod x25519P l.z2 (x25519P - 2) 255 1 % x25519P)

/-- The base point. -/
def x25519Base : List Byte := leBytes 32 9

end Sys2Proof.Machine
end

