-- ==== Sys2Proof/Machine/KeyWork.lean ====
section
/-! DEFINITION. The work that KC does on the sealed caldera (R75, R78 to R80): filling SEALED slots, deriving keys, and
the attestation report (R336, R337); and the queue of that work. -/

namespace Sys2Proof.Machine

/-! ### Slots -/

/-- The bytes of a slot's KEY field (R52). -/
def keyBytes (s : State) (c k : Nat) : List Byte := leBytes 32 (keyAt s c k).key.toNat

/-- Whether a slot is SEALED with a given KLEN. -/
def sealedAs (s : State) (c k klen : Nat) : Bool :=
  (slotAt s c k).state == .slotSealed && (slotAt s c k).klen.toNat == klen

/-- Whether a slot can take a secret (R80). -/
def sealable (s : State) (c k : Nat) : Bool := (slotAt s c k).state == .slotSealed || (slotAt s c k).state == .empty

/-- A slot becomes SEALED with a 32-byte secret (R80), which gives STATE and KLEN; the slot's other metadata take the values
of a slot never written (notes/assumptions/50.md). -/
def sealSlot (s : State) (c k klen : Nat) (x : List Byte) : State :=
  let s1 := setKey s c k { key := BitVec.ofNat 256 (leNat x) }
  let s2 := { s1 with store := { s1.store with ueKeys := s1.store.ueKeys.filter (· != 6 * c + k) } }
  updSlot s2 c k (fun _ => { state := .slotSealed, klen := BitVec.ofNat 2 klen })

/-- A slot's contents for a key and salt: KC computes HSUB (R52, R72). -/
def keyMaterial (key salt : List Byte) (tagid : Word) : KeySlot :=
  { key := BitVec.ofNat 256 (leNat key)
    salt := BitVec.ofNat 96 (leNat salt)
    hsub := BitVec.ofNat 128 (leNat (aesHsub key))
    tagid := tagid }

/-- The length in bytes of a key of KLEN 0 or 1. -/
def klenBytes (klen : Nat) : Nat := if klen = 0 then 16 else 32

/-! ### ML-KEM and X25519 -/

/-- The two keys that a seed determines (R79): encapsulation key, decapsulation key. -/
def seedKeys (q : List Byte) : List Byte × List Byte :=
  let dz := kmac256 q [] 64 (ascii "Sorzu ML-KEM seed")
  kemKeyGen (dz.take 32) (dz.drop 32)

/-- KEY_DERIVE_KEM, OP GEN (R79). -/
def workGen (s : State) (id c k : Nat) (raddr : DWord) : State :=
  let (q, s1) := drawRandom s 32
  admEnd (putAdm (sealSlot s1 c k 2 q) raddr.toNat (seedKeys q).1) id 0 0 1568

/-- Key and salt derived by KEY_DERIVE_KEM, OP DECAPS (R79). -/
def deriveOkm (q ct cs info : List Byte) (c k klen saltlen : Nat) : List Byte :=
  let ss := kemDecaps (seedKeys q).2 ct
  let x := ascii "SZKEM1" ++ leBytes 2 c ++ leBytes 1 k ++ leBytes 1 (klenBytes klen) ++ leBytes 1 saltlen ++ info
  kmac256 (ss ++ cs) x (klenBytes klen + saltlen) (ascii "Sorzu KEY_DERIVE_KEM")

/-- KEY_DERIVE_KEM, OP DECAPS (R79): seed slot q, class secret, then the installation of KEY_LOAD. -/
def workDecaps (s : State) (id c k q : Nat) (ct cs info : List Byte) (ld : SlotMeta × Nat × Word × DWord) : State :=
  let (m, saltlen, tagid, init) := ld
  let n := klenBytes m.klen.toNat
  let okm := deriveOkm (keyBytes s (q / 6) (q % 6)) ct cs info c k m.klen.toNat saltlen
  keyLoadStart (txFlush s) c k (keyMaterial (okm.take n) (okm.drop n) tagid) m init id true

/-- KEY_X25519, OP GEN (R78). -/
def workXgen (s : State) (id c k : Nat) (raddr : DWord) : State :=
  let (r, s1) := drawRandom s 32
  let q := x25519Scalar r
  admEnd (putAdm (sealSlot s1 c k 3 q) raddr.toNat (x25519 q x25519Base)) id 0 0 32

/-- KEY_X25519, OP AGREE (R78): scalar slot q. -/
def workAgree (s : State) (id c k q : Nat) (toSlot : Bool) (peer : List Byte) (raddr : DWord) : State :=
  let x := x25519 (keyBytes s (q / 6) (q % 6)) peer
  if toSlot then admEnd (sealSlot s c k 1 x) id 0 0 0
  else admEnd (putAdm s raddr.toNat x) id 0 0 32

/-! ### Attestation -/

/-- The 8 bytes of a rule's result in CANVASDIG (R337). -/
def resBytes (r : RuleRes) : List Byte := leBytes 1 r.action ++ [0] ++ leBytes 2 r.ctx ++ leBytes 2 r.rdata ++ [0, 0]

/-- Bytes 6 to 11 of R308 for a sub-port, and two zero bytes. -/
def subBytes (a : SubAttr) : List Byte :=
  leBytes 1 (b2n a.cipher) ++ leBytes 1 a.partner ++ leBytes 1 (b2n a.missHost) ++ leBytes 1 (b2n a.check) ++
    leBytes 2 a.missq ++ [0, 0]

/-- An exact-match entry. -/
def emBytes (c : ConfigSet) (i : Nat) : List Byte := match ffind c.em i with
  | some e => fit e.key 24 ++ resBytes e.res
  | none => List.replicate 32 0

/-- A wildcard rule. -/
def wildBytes (c : ConfigSet) (i : Nat) : List Byte := match ffind c.wild i with
  | some r => fit r.value 12 ++ fit r.mask 12 ++ resBytes r.res
  | none => List.replicate 32 0

/-- A distribution table pair. -/
def tableBytes (t : TablePair) : List Byte :=
  fit (t.sizes.flatMap (leBytes 2)) 8192 ++ fit (t.intervals.flatMap (leBytes 4)) 16384

/-- What CANVASDIG covers (R337). -/
def canvasBytes (s : State) : List Byte :=
  let e := s.sets.epoch
  let c := setAt s e
  (List.range 32).flatMap (fun k => subBytes (fget {} c.sub k)) ++
  (List.range 131072).flatMap (emBytes c) ++
  (List.range 16384).flatMap (wildBytes c) ++
  (List.range 65536).flatMap (fun k => leBytes 48 (blkOf (ctxAt s k) e)) ++
  (List.range 4096).flatMap (fun k => leBytes 64 (gprofOf s e (k / 1024) (k % 1024))) ++
  (List.range 32).flatMap (fun k => tableBytes (fget {} c.tables k)) ++
  (List.range 4096).flatMap (fun k => leBytes 4 (wprofOf s e k))

/-- Bytes 0 to 319 of the attestation report (R336). -/
def reportBytes (s : State) (nonce : List Byte) : List Byte :=
  let caps := capsOf s.fuses.variant
  leBytes 4 0x54415A53 ++ leBytes 2 1 ++ [0, 0] ++ leBytes 4 50176 ++ leBytes 4 (caps.getD 0 0) ++
  leBytes 8 s.fuses.serial.toNat ++ leBytes 8 s.timebase.toNat ++ (List.range 4).flatMap (fun i => leBytes 4 (caps.getD (i + 1) 0)) ++
  leBytes 1 (svnMin s) ++ leBytes 1 s.glob.runSvn.toNat ++ leBytes 1 (if s.glob.applied then s.glob.appSvn.toNat else 0) ++
  leBytes 1 (b2n s.fuses.testLock + 2 * b2n s.glob.applied + 4 * b2n s.sets.epoch) ++ leBytes 4 s.sets.swaps.toNat ++
  List.replicate 8 0 ++ fit nonce 32 ++ leBytes 32 s.fuses.rootDig.toNat ++ fit s.glob.primImg 32 ++
  fit (if s.glob.applied then s.glob.appImg else []) 32 ++ fit s.glob.bdDig 32 ++ shake256 (canvasBytes s) 32 ++ fit s.glob.idpk 64

/-- ATTEST (R336): KC signs the report and it is written to the host. -/
def workAttest (s : State) (id : Nat) (nonce : List Byte) (raddr : DWord) : State :=
  let (r, s1) := drawRandom s 32
  let m := reportBytes s nonce
  let seeds := leBytes 96 s.fuses.idSeed.toNat
  let g := slhSign slh256f (slice seeds 0 32) (slice seeds 32 32) (slice seeds 64 32) (fit (s.glob.idpk.drop 32) 32) r
    (ascii "Sorzu attestation") m
  admEnd (putAdm s1 raddr.toNat (m ++ g)) id 0 0 50176

/-! ### The queue -/

/-- One piece of work for command id, on the sealed caldera. Its results go to the key store, and to the host no more than
the command returns (R54). -/
def doWork (s : State) (id : Nat) : KeyWork → State
  | .kemGen c k a => workGen s id c k a
  | .kemDecaps c k q ct cs info ld => workDecaps s id c k q ct cs info ld
  | .xGen c k a => workXgen s id c k a
  | .xAgree c k q t peer a => workAgree s id c k q t peer a
  | .attest n a => workAttest s id n a

/-- Whether work returns a result to the host. -/
def workReturns : KeyWork → Bool
  | .kemGen _ _ _ => true
  | .kemDecaps _ _ _ _ _ _ _ => false
  | .xGen _ _ _ => true
  | .xAgree _ _ _ toSlot _ _ => !toSlot
  | .attest _ _ => true

/-- Whether work must wait although a caldera is sealed: ATTEST while a swap is pending (R336), and work that returns a
result while the part issues no request for the PF (R318, R320). -/
def workWaits (s : State) (w : KeyWork) : Bool :=
  (workReturns w && !funcLive s 0) || (match w with
    | .attest _ _ => s.sets.pending
    | _ => false)

/-- The queued work that a sealed caldera can do now is done in order; an emptied queue starts the 1 ms of R75. -/
def runWork (s : State) : State :=
  match s.store.kemSealed with
  | none => s
  | some _ =>
    let q := s.store.kemQueue
    let go := q.filter (fun p => !workWaits s p.2)
    let s1 := { s with store := { s.store with kemQueue := q.filter (fun p => workWaits s p.2) } }
    let s2 := go.foldl (fun s p => doWork s p.1 p.2) s1
    if go.isEmpty then s2
    else { s2 with store := { s2.store with kemIdleAt := s.timebase } }

/-- Whether Easel may seal a caldera (R75, R136): included, outside every reservation, powered, drained of flows, and no
other is sealed or being replaced. -/
def canSeal (s : State) (c : Nat) : Bool :=
  calFitted s c && (calAt s c).power == .on && !s.easel.excl.getLsbD c && !nbit (reservedMask s) c && drained s c &&
    s.store.kemSealed.isNone && s.easel.draining == 0

/-- A caldera is sealed (R75): it runs nothing but the key-work routines. -/
def execCalderaSeal (c : Nat) (s : State) : Host.Outcome State Fault Refusal :=
  .next (
    if canSeal s c ∧ ¬ s.store.kemQueue.isEmpty then
      let s1 := (List.range 8).foldl (fun s i => updVent s (8 * c + i) (fun vt => { ventDown s.timebase vt with held := true })) s
      runWork { s1 with
          store := { s1.store with
            kemSealed := some c
            kemIdleAt := s1.timebase }
          easel := { s1.easel with toSeal := none } }
    else s)

/-- Easel starts to drain the next caldera that an APPLY replaces (R335): none while a caldera is sealed. -/
def fwNext (s : State) : State :=
  match s.adm.fw with
  | none => s
  | some f => if s.store.kemSealed.isSome then s else
    match (List.range (nCals s)).find? (fun c => !f.done.contains c) with
    | some c => { s with easel := { s.easel with draining := 1 <<< c } }
    | none => { s with easel := { s.easel with draining := 0 } }

/-- The sealed caldera is zeroed, loaded again and released, 1 ms after the last work (R4, R75): a KEY_DERIVE_KEM whose target
still drains is work not yet complete. The zeroing waits for a lock on the caldera's port (R264). -/
def sealEnd (s : State) : State :=
  match s.store.kemSealed with
  | none => s
  | some c =>
    if s.store.kemQueue.isEmpty ∧ ¬ s.store.drains.any (fun d => d.kem) ∧
        s.store.kemIdleAt.toNat + 1000000 ≤ s.timebase.toNat ∧ matLocked .mv (calBase c) s = false then
      let s1 := loadSections (wipeCal s c) c
      fwNext { s1 with store := { s1.store with kemSealed := none } }
    else s

/-- A command's work joins the queue (R75). Work that comes when the 1 ms is over finds the caldera released (R4), and waits for
the next sealing. -/
def queueWork (s : State) (id : Nat) (w : KeyWork) : State :=
  let s1 := sealEnd s
  runWork { s1 with store := { s1.store with kemQueue := s1.store.kemQueue ++ [(id, w)] } }

/-- R75. -/
def execCalderaUnseal (s : State) : Host.Outcome State Fault Refusal := .next (sealEnd s)

end Sys2Proof.Machine
end

