-- ==== Sys2Proof/Machine/AdmSets.lean ====
section
/-! DEFINITION. Admin commands of the configuration sets: contexts (R83, R301), rules (R306), SET_SWAP with its flips and
copy (R85), ports (R27, R308, R367), weights (R102) and Glaze profiles and tables (R117, R119, R309). -/

namespace Sys2Proof.Machine

/-- A little-endian field of n bytes of a parameter block at offset o. -/
def pField (ps : List Byte) (o n : Nat) : Nat := leNat (slice ps o n)

/-- BUSY while a swap is pending, and the state check that follows it (R82). -/
def busyThen (s : State) (c : Option (Nat × Nat × Nat)) : Option (Nat × Nat × Nat) :=
  if s.sets.pending then some (2, 0, 0) else c

/-! ### Contexts -/

/-- The values of a parameter block that R50 does not accept, at their offsets in a command's block. -/
def blkFields (b : Nat) : List (Bool × Nat) :=
  [(pbProto b != 1 && pbProto b != 2, 8), (decide (6 < pbSuite b), 8), (decide (pbSuite b < 4) && pbProto b != 1, 8),
   (decide (4 ≤ pbSuite b) && pbProto b != 2, 8), (nbits b 10 9 == 3, 9), (nbit b 11 && nbit b 12, 9),
   (decide (1024 < pbWin b), 10), (nbits b 63 38 != 0, 12)]

/-- Sketch's block of a context replaced. -/
def putSketchBlk (s : State) (c b : Nat) : State := updCtx s c (fun r => setBlk r (sketchE s) (BitVec.ofNat 384 b))

/-- CTX_CREATE (R83): a whole block with VALID = 1. -/
def execCtxCreate (d : AdmDesc) (p : Option (List Byte)) (s : State) : Host.Outcome State Fault Refusal :=
  let ps := admBlock p 56
  let c := pField ps 0 2
  let b := nput (pField ps 8 48) 0 0 1
  .next (admAccept s d p {
      opcode := 0x01
      plen := 56
      fields := rsvBytes ps 2 6 ++ blkFields b
      objs := [.ctxBlock c]
      check := busyThen s (if pbValid (blkOf (ctxAt s c) (sketchE s)) then some (1, 0, 0) else none) }
    (fun id s => admEnd (putSketchBlk s c b) id 0 0 0))

/-- CTX_UPDATE (R83): the bytes that MASK selects. A block left VALID must hold accepted values (R51). -/
def execCtxUpdate (d : AdmDesc) (p : Option (List Byte)) (s : State) : Host.Outcome State Fault Refusal :=
  let ps := admBlock p 64
  let c := pField ps 0 2
  let mask := pField ps 2 6
  let old := leBytes 48 (blkOf (ctxAt s c) (sketchE s))
  let b := leNat ((List.range 48).map (fun i => if nbit mask i then ps.getD (8 + i) 0 else old.getD i 0))
  .next (admAccept s d p {
      opcode := 0x02
      plen := 64
      fields := rsvBytes ps 56 8
      objs := [.ctxBlock c]
      check := busyThen s (if pbValid b then (lowestBad (blkFields b)).map (fun o => (1, o, 0)) else none) }
    (fun id s => admEnd (putSketchBlk s c b) id 0 0 0))

/-! ### Rules -/

/-- The entry that holds a key, if any. -/
def emFind (c : ConfigSet) (k : List Byte) : Option Nat := (c.em.find? (fun p => p.2.key == k)).map (fun p => p.1)

/-- The first free one of the 8 positions that a key's hash names (R306). -/
def emPlace (c : ConfigSet) (k : List Byte) : Option Nat :=
  ((List.range 8).map (fun i => Config.emPosition k i % 131072)).find? (fun i => !fhas c.em i)

/-- The bytes of an exact-match key that its type's fields take (R306). -/
def emKeyLen (t : Nat) : Nat := if t = 0 then 10 else if t = 1 then 10 else if t = 2 then 22 else 12

/-- The fields of RULE_WRITE that both OPs use, for OP `op`. -/
def ruleFields (ps : List Byte) (op : Nat) : List (Bool × Nat) :=
  let t := byteAt ps 0
  let i := pField ps 4 4
  [(decide (1 < t), 0), (byteAt ps 1 != op, 1), (if t = 0 then i != 0 else decide (16383 < i), 4),
   (t == 0 && decide (32 < byteAt ps 8), 8), (t == 0 && decide (3 < byteAt ps 9), 9)] ++
    (if t = 0 ∧ byteAt ps 9 ≤ 3 then rsvBytes ps (8 + emKeyLen (byteAt ps 9)) (24 - emKeyLen (byteAt ps 9)) else []) ++ rsvBytes ps 2 2 ++ rsvBytes ps 38 26

/-- RULE_WRITE, OP SET (R306). -/
def execRuleWriteSet (d : AdmDesc) (p : Option (List Byte)) (s : State) : Host.Outcome State Fault Refusal :=
  let ps := admBlock p 64
  let exact := byteAt ps 0 = 0
  let i := pField ps 4 4
  let key := slice ps 8 24
  let res : RuleRes := { action := byteAt ps 32, ctx := pField ps 34 2, rdata := pField ps 36 2 }
  let sk := setAt s (sketchE s)
  let at_ := if (emFind sk key).isSome then emFind sk key else emPlace sk key
  .next (admAccept s d p {
      opcode := 0x07
      plen := 64
      fields := ruleFields ps 0 ++ [(decide (4 < byteAt ps 32), 32)] ++ rsvBytes ps 33 1
      objs := (if exact then [.emKey key] else [.wildIdx i]) ++
        (if res.action = 2 ∨ res.action = 3 then [.ctxBlock res.ctx] else if res.action = 4 then [.queue (res.rdata % 4096)] else [])
      check := busyThen s (if exact ∧ at_.isNone then some (4, 0, 0) else none) }
    (fun id s =>
      if exact then
        admEnd (updSet s (sketchE s) (fun c => { c with em := fset (at_.getD 0) { key := key, res := res } c.em })) id 0 0 (at_.getD 0)
      else
        admEnd (updSet s (sketchE s) (fun c => { c with wild := fset i { value := key.take 12, mask := key.drop 12, res := res } c.wild }))
          id 0 0 0))

/-- RULE_WRITE, OP REMOVE (R306): RESULT 0xFFFF_FFFF where no rule stood. -/
def execRuleWriteRemove (d : AdmDesc) (p : Option (List Byte)) (s : State) : Host.Outcome State Fault Refusal :=
  let ps := admBlock p 64
  let exact := byteAt ps 0 = 0
  let i := pField ps 4 4
  let key := slice ps 8 24
  let sk := setAt s (sketchE s)
  let found := if exact then emFind sk key else if fhas sk.wild i then some i else none
  .next (admAccept s d p {
      opcode := 0x07
      plen := 64
      fields := ruleFields ps 1 ++ rsvBytes ps 32 6
      objs := if exact then [.emKey key] else [.wildIdx i]
      check := busyThen s none }
    (fun id s => match found with
      | none => admEnd s id 0 0 0xFFFFFFFF
      | some k => admEnd (updSet s (sketchE s) (fun c =>
          if exact then { c with em := fdel k c.em } else { c with wild := fdel k c.wild })) id 0 0 0))

/-! ### SET_SWAP (R85) -/

/-- SET_SWAP: steps 1 and 2 (R18, R85, R307). -/
def execSetSwap (d : AdmDesc) (p : Option (List Byte)) (s : State) : Host.Outcome State Fault Refusal :=
  .next (admAccept s d p {
      opcode := 0x08
      plen := 0
      alone := true
      check := busyThen s (if setIssues s ≠ 0 then some (1, 0xFFFE, setIssues s) else none) }
    (fun id s => { s with sets := { s.sets with
        pending := true
        flipping := true
        flipped := []
        cmd := id } }))

/-- The last source has flipped: SET_STAT.EPOCH changes, the channels follow (R86), and SET_SWAP completes. -/
def flipDone (s : State) : State :=
  let e := !s.sets.epoch
  admEnd (chansFlip { s with sets := { s.sets with
    epoch := e
    flipping := false
    flipped := [] } } e) s.sets.cmd 0 0 0

/-- A source flips between two of its frames (step 3). -/
def execEpochFlip (src : Nat) (s : State) : Host.Outcome State Fault Refusal :=
  if !s.sets.flipping || s.sets.flipped.contains src || decide (32 < src) then .next s
  else
    let s1 := { s with sets := { s.sets with flipped := src :: s.sets.flipped } }
    .next (if s1.sets.flipped.length = 33 then flipDone s1 else s1)

/-- Step 6 starts when no frame stamped with the old epoch remains, however long one is held (R85, R87, R88); the channels
leave the old set. -/
def execSwapCopy (s : State) : Host.Outcome State Fault Refusal :=
  if s.sets.pending && !s.sets.flipping && !s.sets.copying && oldFrames s (sketchE s) == 0 then
    .next (chansLeave { s with sets := { s.sets with copying := true } } s.sets.epoch)
  else .next s

/-- The copy of the new Canvas over the old set, every context's block included. -/
def copySets (s : State) : State :=
  let e := s.sets.epoch
  let s1 := updSet s (!e) (fun _ => setAt s e)
  { s1 with store := { s1.store with
      ctxs := s1.store.ctxs.map (fun p => (p.1, setBlk p.2 (!e) (if e then p.2.blk1 else p.2.blk0))) } }

/-- The copy ends (steps 6 and 7): the sets and nothing of the placement (R9) are changed, and keys are as they were (R89); an
ATTEST that waited for it can proceed (R336). -/
def execSwapDone (s : State) : Host.Outcome State Fault Refusal :=
  if s.sets.copying then
    let s1 := chansSettle (copySets s) s.sets.epoch
    .next (runWork (postEvent { s1 with sets := { s1.sets with
      pending := false
      copying := false
      swaps := s1.sets.swaps + 1 } } 0 1 6 ((s1.sets.swaps + 1).toNat * 256)))
  else .next s

/-! ### Ports -/

/-- Whether a sub-port of port p is in a pair of a set (R27, R308). -/
def portPaired (c : ConfigSet) (p : Nat) : Bool := (List.range 8).any (fun i => (pairOf c (8 * p + i)).isSome)

/-- PORT_SET (R308): breakout and maximum frame size at once, set attributes into Sketch. A PARTNER that its port's breakout
lacks is accepted, of which the spec says nothing; the rates of a pair are those of the two ports' breakouts
(notes/assumptions/49.md). DESIGN CHOICE, for R367 and R82 are silent: PORT_STAT.BRKOUT and R94 use the old breakout until
BREAKOUT_RECONFIGURED (notes/assumptions/49.md), and a SRC that the breakout lacks, or a new breakout of a paired port, is
INVALID before a pending swap is BUSY (notes/assumptions/26.md). -/
def execPortSet (d : AdmDesc) (p : Option (List Byte)) (s : State) : Host.Outcome State Fault Refusal :=
  let ps := admBlock p 16
  let src := byteAt ps 0
  let port := src / 8
  let sel := byteAt ps 1
  let old := (portAt s port).brkout
  let brk : BitVec 2 := if nbit sel 0 then BitVec.ofNat 2 (byteAt ps 2) else old
  let mtu := pField ps 4 2
  let partner := byteAt ps 7
  let attr : SubAttr := { cipher := byteAt ps 6 == 1, partner := partner, missHost := byteAt ps 8 == 1, check := byteAt ps 9 == 1,
                          missq := pField ps 10 2 }
  let rate (k : Nat) : Nat := if k / 8 = port then brkRate brk else brkRate (portAt s (k / 8)).brkout
  let sets := nbit sel 2
  .next (admAccept s d p {
      opcode := 0x0B
      plen := 16
      fields := [(decide (31 < src), 0), (sel == 0 || decide (7 < sel), 1), (nbit sel 0 && decide (3 < byteAt ps 2), 2),
        (nbit sel 1 && (mtu % 2 != 0 || decide (mtu < 1518) || decide (9800 < mtu)), 4), (sets && decide (1 < byteAt ps 6), 6),
        (sets && decide (31 < partner) && partner != 0xFF, 7), (sets && partner == src, 0), (sets && decide (1 < byteAt ps 8), 8),
        (sets && decide (1 < byteAt ps 9), 9)] ++ rsvBytes ps 3 1 ++ rsvBytes ps 12 4
      objs := [.subport src] ++ (if nbit sel 0 then (List.range 8).map (fun k => .subport (8 * port + k)) else []) ++
        (if sets ∧ partner ≠ 0xFF then [.subport partner] else []) ++ (if sets ∧ attr.missHost then [.queue attr.missq] else [])
      check :=
        if brkCount brk ≤ src % 8 then some (1, 0, 0)
        else if brk ≠ old ∧ (portPaired s.sets.set0 port ∨ portPaired s.sets.set1 port) then some (1, 2, 0)
        else if !sets then none
        else busyThen s (if partner < 32 ∧ (fget {} (setAt s (sketchE s)).sub partner).partner = src ∧ rate src ≠ rate partner
          then some (1, 7, 0) else none) }
    (fun id s =>
      let s1 := if nbit sel 1 then updSub s src (fun x => { x with maxframe := mtu }) else s
      let s2 := if sets then updSet s1 (sketchE s1) (fun c => { c with sub := fset src attr c.sub }) else s1
      if brk = old then admEnd s2 id 0 0 0
      else updPort (portDown s2 port 4) port (fun x => { x with newBrk := some (brk, id) })))

/-! ### Weights -/

/-- QUEUE_CREATE, OP WPROF (R102). -/
def execQueueCreateWprof (d : AdmDesc) (p : Option (List Byte)) (s : State) : Host.Outcome State Fault Refusal :=
  let ps := admBlock p 16
  let w := pField ps 4 2
  let x := pField ps 8 4
  .next (admAccept s d p {
      opcode := 0x09
      plen := 16
      fields := [(byteAt ps 0 != 1, 0), (decide (4095 < w), 4), (decide (nbits x 18 3 < 256), 8), (nbits x 31 19 != 0, 10)] ++
        rsvBytes ps 1 3 ++ rsvBytes ps 6 2 ++ rsvBytes ps 12 4
      objs := [.wprof w]
      check := busyThen s none }
    (fun id s => admEnd (updSet s (sketchE s) (fun c => { c with wprof := fset w (BitVec.ofNat 19 x) c.wprof })) id 0 0 0))

/-! ### Glaze -/

/-- The refused fields of a profile x at its offsets in the command's block (R119). -/
def profFields (x : Nat) : List (Bool × Nat) :=
  let m := pMode x
  [(m == 3, 8), (nbits x 7 5 != 0, 8), (m != 0 && decide (64 < pXhdr x), 9), (m == 1 && decide (pSize x < 128), 12),
   (nbits x 47 46 != 0, 13), (m == 1 && decide (pInterval x < 64), 14), (m != 0 && decide (pLead x < 1000), 18),
   (m == 1 && decide (pLead x * 64 < pInterval x + 64000), 14), (nbits x 511 101 != 0, 20)]

/-- A profile's state checks (R119): SUBIDX and the breakout, LEAD and the pair's longest interval, the wire time of the
slot frame. DESIGN CHOICE: the sub-port's rate is that
of its port's breakout, in lane fallback too (notes/assumptions/51.md). -/
def profCheck (s : State) (p x : Nat) : Option (Nat × Nat × Nat) :=
  let e := sketchE s
  let brk := (portAt s p).brkout
  let m := pMode x
  let top := ((fget {} (setAt s e).tables (pTable x)).intervals).foldl max 0
  let sz := slotLen (chanEsp s e x) (chanOverhead s e x) (min (pSize x) (subAt s (8 * p + pSub x)).maxframe)
  if brkCount brk ≤ pSub x then some (1, 8, 0)
  else if m = 2 ∧ pLead x * 64 < top + 64000 then some (1, 18, 0)
  else if m = 1 ∧ pInterval x * brkRate brk < (sz + 20) * 512 then some (1, 12, 0)
  else none

/-- GLAZE_PROFILE, OP PROFILE (R119, R309). -/
def execGlazeProfileProfile (d : AdmDesc) (p : Option (List Byte)) (s : State) : Host.Outcome State Fault Refusal :=
  let ps := admBlock p 72
  let port := byteAt ps 1
  let g := pField ps 2 2
  let x := pField ps 8 64
  .next (admAccept s d p {
      opcode := 0x0C
      plen := 72
      fields := [(byteAt ps 0 != 0, 0), (decide (3 < port), 1), (decide (1023 < g), 2)] ++ rsvBytes ps 4 4 ++ profFields x
      absent := !hasGlaze s && pMode x != 0
      objs := [.chan port g] ++ (if pMode x = 2 then [.table (pTable x)] else [])
      check := busyThen s (profCheck s port x) }
    (fun id s => admEnd (updSet s (sketchE s) (fun c => { c with gprof := fset (1024 * port + g) (BitVec.ofNat 512 x) c.gprof })) id 0 0 0))

/-- The tables in a buffer of 24 KiB (R117). -/
def tablePair (bs : List Byte) : TablePair :=
  { sizes := (chunks 2 4097 (bs.take 8192)).map leNat
    intervals := (chunks 4 4097 (bs.drop 8192)).map leNat }

/-- Whether every entry of a pair lies in its range. -/
def tableOk (t : TablePair) : Bool :=
  t.sizes.all (fun x => decide (128 ≤ x) && decide (x ≤ 16383)) && t.intervals.all (fun x => decide (64 ≤ x))

/-- Whether a 24 KiB buffer at a matrix address lies in MV SRAM, caldera memory or HBM (R309). -/
def tableSrcOk (s : State) (a : Nat) : Bool :=
  a % 64 == 0 && (match matLoc .mv a s, matLoc .mv (a + 24575) s with
    | .mv _, .mv _ => true
    | .cal c o, .cal c' o' => c == c' && calFitted s c && decide (o < 0x400000) && decide (o' < 0x400000)
    | .hbm _, .hbm o => decide (o < hbmSize s)
    | _, _ => false)

/-- GLAZE_PROFILE, OP TABLE (R117, R309). A matrix buffer that cannot be read ends the command with DEVERR; its DETAIL is
left open. It is accepted once no lock holds a port that its matrix buffer needs (R264). -/
def execGlazeProfileTable (d : AdmDesc) (p : Option (List Byte)) (b : Option (List Byte)) (s : State) :
    Host.Outcome State Fault Refusal :=
  let ps := admBlock p 24
  let mat := byteAt ps 2 = 1
  let a := pField ps 8 8
  let rd := if mat then matRead .mv a 24576 s else (.okay, fit (b.getD []) 24576, s)
  let t := tablePair rd.2.1
  .next (if mat ∧ spanLocked .mv a 24576 s then s else admAccept s d p {
      opcode := 0x0C
      plen := 24
      hostErr := p.isSome && !mat && b.isNone
      hostAddr := a
      reads := if mat then [] else [(a, 24576)]
      fields := [(byteAt ps 0 != 1, 0), (decide (31 < byteAt ps 1), 1), (decide (1 < byteAt ps 2), 2),
        (mat && !tableSrcOk s a, 8)] ++ rsvBytes ps 3 5 ++ rsvBytes ps 16 8
      absent := !hasGlaze s
      objs := [.table (byteAt ps 1)]
      check := busyThen s (if rd.1 = .okay ∧ ¬ tableOk t then some (1, 8, 0) else none) }
    (fun id s =>
      if rd.1 = .okay then admEnd (updSet s (sketchE s) (fun c => { c with tables := fset (byteAt ps 1) t c.tables })) id 0 0 0
      else
        let (x, s1) := drawFree (matRead .mv a 24576 s).2.2
        admFail s1 id 9 x))

end Sys2Proof.Machine
end

