-- ==== Sys2Proof/Machine/AdmKeys.lean ====
section
/-! DEFINITION. Admin commands on keys (R72, R73, R78 to R80, R302 to R305) and ATTEST (R314, R336). -/

namespace Sys2Proof.Machine

/-! ### Loading and retiring -/

/-- The slot metadata that a command loads. -/
def loadMeta (expiry limit an klen : Nat) : SlotMeta :=
  { expiry := BitVec.ofNat 64 expiry
    limit := BitVec.ofNat 56 limit
    an := BitVec.ofNat 2 an
    klen := BitVec.ofNat 2 klen }

/-- The state checks of a load of slot k (R60, R72): a LIVE transmit slot is BUSY; a receive slot needs a window. -/
def loadCheck (s : State) (c k : Nat) : Option (Nat × Nat × Nat) :=
  if k < 2 then (if (slotAt s c k).state = .live then some (2, 0, 0) else none)
  else if ¬ (winAt s c k).wok ∧ winFree s = 0 then some (4, 0, 0)
  else none

/-- R72 step 1 at acceptance. -/
def loadReserve (s : State) (c k : Nat) : State := if k < 2 then s else reserveWin s c k

/-- Whether a SALTLEN is refused. -/
def saltBad (n : Nat) : Bool := n != 0 && n != 4 && n != 12

/-- KEY_LOAD (R72, R302), after the TXTAKE requests that reached the store before it (R59). -/
def execKeyLoad (d : AdmDesc) (p : Option (List Byte)) (b : Option (List Byte)) (s0 : State) : Host.Outcome State Fault Refusal :=
  let s := txFlush s0
  let ps := admBlock p 48
  let c := pField ps 0 2
  let k := byteAt ps 2
  let klen := byteAt ps 3
  let salt := byteAt ps 4
  let n := klenBytes klen
  let buf := fit (b.getD []) (n + salt)
  .next (admAccept s d p {
      opcode := 0x03
      plen := 48
      hostErr := p.isSome && b.isNone
      hostAddr := pField ps 40 8
      reads := [(pField ps 40 8, n + salt)]
      fields := [(decide (5 < k), 2), (decide (1 < klen), 3), (saltBad salt, 4),
        (if k < 2 then decide (3 < byteAt ps 5) else byteAt ps 5 != 0, 5), (decide (k < 2) && pField ps 16 8 == 0, 16)] ++
        rsvBytes ps 6 2 ++ rsvBytes ps 12 4 ++ rsvBytes ps 39 1
      objs := [.keySlot c k]
      check := loadCheck s c k }
    (fun id s =>
      keyLoadStart (loadReserve s c k) c k
        (keyMaterial (buf.take n) (buf.drop n) (BitVec.ofNat 32 (pField ps 8 4)))
        (loadMeta (pField ps 24 8) (pField ps 32 7) (byteAt ps 5) klen)
        (BitVec.ofNat 64 (pField ps 16 8)) id false))

/-- KEY_RETIRE (R73, R305), after the TXTAKE requests that reached the store before it (R59). -/
def execKeyRetire (d : AdmDesc) (p : Option (List Byte)) (s0 : State) : Host.Outcome State Fault Refusal :=
  let s := txFlush s0
  let ps := admBlock p 8
  let c := pField ps 0 2
  let k := byteAt ps 2
  .next (admAccept s d p {
      opcode := 0x06
      plen := 8
      fields := (decide (5 < k), 2) :: rsvBytes ps 3 5
      objs := [.keySlot c k] }
    (fun id s => keyRetireStart s c k id))

/-! ### Sealed key work -/

/-- KEY_DERIVE_KEM, OP GEN (R79, R303). -/
def execKeyDeriveKemGen (d : AdmDesc) (p : Option (List Byte)) (s : State) : Host.Outcome State Fault Refusal :=
  let ps := admBlock p 128
  let c := pField ps 2 2
  let k := byteAt ps 4
  .next (admAccept s d p {
      opcode := 0x04
      plen := 128
      returns := some true
      rlen := 1568
      fields := [(byteAt ps 0 != 0, 0), (decide (5 < k), 4)] ++ rsvBytes ps 1 1 ++ rsvBytes ps 5 123
      need := some 1568
      objs := [.keySlot c k]
      check := if sealable s c k then none else some (2, 0, 0) }
    (fun id s => queueWork s id (.kemGen c k d.raddr)))

/-- KEY_DERIVE_KEM, OP DECAPS (R79, R303): ciphertext and class secret are host buffers. It comes after the TXTAKE requests
that reached the store before it (R59). -/
def execKeyDeriveKemDecaps (d : AdmDesc) (p : Option (List Byte)) (b cs : Option (List Byte)) (s0 : State) :
    Host.Outcome State Fault Refusal :=
  let s := txFlush s0
  let ps := admBlock p 128
  let c := pField ps 2 2
  let k := byteAt ps 4
  let klen := byteAt ps 5
  let salt := byteAt ps 6
  let sc := pField ps 8 2
  let sk := byteAt ps 10
  let cls := byteAt ps 11
  let cc := pField ps 12 2
  let ck := byteAt ps 14
  let n := byteAt ps 15
  let secret (s : State) : List Byte := match cls with
    | 0 => []
    | 1 => fit (cs.getD []) 32
    | _ => keyBytes s cc ck
  .next (admAccept s d p {
      opcode := 0x04
      plen := 128
      hostErr := p.isSome && (b.isNone || (cls == 1 && cs.isNone))
      hostAddr := pField ps (if b.isNone then 48 else 56) 8
      reads := (pField ps 48 8, 1568) :: (if cls = 1 then [(pField ps 56 8, 32)] else [])
      fields := [(byteAt ps 0 != 1, 0), (decide (5 < k), 4), (decide (1 < klen), 5), (saltBad salt, 6),
        (if k < 2 then decide (3 < byteAt ps 7) else byteAt ps 7 != 0, 7), (decide (5 < sk), 10), (decide (2 < cls), 11),
        (cls == 2 && decide (5 < ck), 14), (decide (64 < n), 15), (decide (k < 2) && pField ps 24 8 == 0, 24)] ++
        rsvBytes ps 1 1 ++ rsvBytes ps 20 4 ++ rsvBytes ps 47 1
      objs := [.keySlot c k, .keySlot sc sk] ++ (if cls = 2 then [.keySlot cc ck] else [])
      check :=
        if (loadCheck s c k).any (fun r => r.1 == 2) then some (2, 0, 0)
        else if ¬ sealedAs s sc sk 2 then some (1, 8, 0)
        else if cls = 2 ∧ ¬ sealedAs s cc ck 1 then some (1, 12, 0)
        else loadCheck s c k }
    (fun id s =>
      queueWork (loadReserve (sealEnd s) c k) id (.kemDecaps c k (6 * sc + sk) (fit (b.getD []) 1568) (secret s) (slice ps 64 n)
        (loadMeta (pField ps 32 8) (pField ps 40 7) (byteAt ps 7) klen, salt, BitVec.ofNat 32 (pField ps 16 4),
          BitVec.ofNat 64 (pField ps 24 8)))))

/-- KEY_X25519, OP GEN (R78, R304). -/
def execKeyX25519Gen (d : AdmDesc) (p : Option (List Byte)) (s : State) : Host.Outcome State Fault Refusal :=
  let ps := admBlock p 48
  let c := pField ps 2 2
  let k := byteAt ps 4
  .next (admAccept s d p {
      opcode := 0x05
      plen := 48
      returns := some true
      rlen := 32
      fields := [(byteAt ps 0 != 0, 0), (decide (5 < k), 4)] ++ rsvBytes ps 1 1 ++ rsvBytes ps 5 43
      need := some 32
      objs := [.keySlot c k]
      check := if sealable s c k then none else some (2, 0, 0) }
    (fun id s => queueWork s id (.xGen c k d.raddr)))

/-- KEY_X25519, OP AGREE (R78, R304): an all-zero result is refused. -/
def execKeyX25519Agree (d : AdmDesc) (p : Option (List Byte)) (s : State) : Host.Outcome State Fault Refusal :=
  let ps := admBlock p 48
  let dest := byteAt ps 1
  let c := pField ps 2 2
  let k := byteAt ps 4
  let sc := pField ps 8 2
  let sk := byteAt ps 10
  let peer := slice ps 16 32
  .next (admAccept s d p {
      opcode := 0x05
      plen := 48
      returns := none
      fields := [(byteAt ps 0 != 1, 0), (decide (1 < dest), 1), (dest == 1 && decide (5 < k), 4), (decide (5 < sk), 10)] ++
        (if dest = 1 then [] else rsvBytes ps 2 3) ++ rsvBytes ps 5 3 ++ rsvBytes ps 11 5
      need := if dest = 1 then none else some (if dest = 0 then 32 else 0)
      objs := (if dest = 1 then [.keySlot c k] else []) ++ [.keySlot sc sk]
      check :=
        if dest = 1 ∧ ¬ sealable s c k then some (2, 0, 0)
        else if ¬ sealedAs s sc sk 3 then some (1, 8, 0)
        else if (x25519 (keyBytes s sc sk) peer).all (· == 0) then some (1, 16, 0)
        else none }
    (fun id s => queueWork s id (.xAgree c k (6 * sc + sk) (dest == 1) peer d.raddr)))

/-- ATTEST (R314, R336). -/
def execAttest (d : AdmDesc) (p : Option (List Byte)) (s : State) : Host.Outcome State Fault Refusal :=
  .next (admAccept s d p {
      opcode := 0x10
      plen := 32
      returns := some true
      rlen := 50176
      need := some 50176
      alone := true }
    (fun id s => queueWork s id (.attest (admBlock p 32) d.raddr)))

end Sys2Proof.Machine
end

