-- ==== Sys2Proof/Machine/Easel.lean ====
section
/-! DEFINITION. Easel: plans and throttling (R123, R126, R131 to R135, R140, R362), migrations (R127 to R131),
EASEL_CONSTRAIN with its progress (R136 to R139), and EASEL_SNAP (R143, R312). -/

namespace Sys2Proof.Machine

/-! ### Placement -/

/-- The vents of a set. -/
def ventSet (v w : Nat) : List Nat := (List.range (2 ^ w)).map (fun i => v + i)

/-- Whether a vent was out of reset in some part of the last period, so that its telemetry is not missing (R123). -/
def reported (s : State) (v : Nat) : Bool :=
  let vt := ventAt s v
  let n := easelNow s
  decide (vt.upAt.toNat < 100000 * n) && (!(vt.held || vt.isolating) || decide (100000 * (n - 1) < vt.downAt.toNat))

/-- The caldera that Easel empties to be sealed: there is one only while key work waits for a sealed caldera (R75, R131). -/
def sealDue (s : State) : Option Nat := if s.store.kemSealed.isNone && !s.store.kemQueue.isEmpty then s.easel.toSeal else none

/-- Whether Easel may place work of bank j on a vent (R123, R126); one whose ring is not enabled counts as absent (R156). -/
def placeable (s : State) (j v : Nat) : Bool :=
  let c := v / 8
  calFitted s c && (calAt s c).power == .on && s.store.kemSealed != some c && sealDue s != some c && !s.easel.excl.getLsbD c &&
    !s.easel.draining.getLsbD c && calBank s c == j && !(ventAt s v).held && !(ventAt s v).isolating && reported s v &&
    (ventAt s v).inp.cfg.getLsbD 24

/-- Whether a caldera has reached the throttling threshold and not cooled since (R140, R362). -/
def throttled (s : State) (c : Nat) : Bool := (calAt s c).warm

/-- The vents on which Easel places new work of bank j: those it may use, of calderas that are not throttled where there are
any (R140). -/
def freshVents (s : State) (j : Nat) : List Nat :=
  let xs := (List.range 96).filter (placeable s j)
  let cool := xs.filter (fun v => !throttled s (v / 8))
  if cool.isEmpty then xs else cool

/-- Whether a vent set is one that a steering entry can name (R124). -/
def setOk (v w : Nat) : Bool := decide (w ≤ 5) && v % 2 ^ w == 0

/-- Whether the move of an entry of bank j off caldera c serves a constraint, a drain, thermal throttling, or the sealing of
that caldera (R131, R136). -/
def mustLeave (s : State) (j c : Nat) : Bool :=
  s.easel.excl.getLsbD c || s.easel.draining.getLsbD c || calBank s c != j || throttled s c || sealDue s == some c

/-- Whether a move takes an entry of bank j wholly off a caldera that it must leave (R131). -/
def moveServes (s : State) (j : Nat) (old new : List Nat) : Bool :=
  old.any (fun x => mustLeave s j (x / 8) && new.all (fun y => y / 8 != x / 8))

/-- Whether entry b of bank j may start a migration to set (v, w) now (R126, R131, R140). An entry of a vent whose telemetry
is missing stays where it is (R123), unless its move serves one of the ends that R131 names. With R128 and the drain of the old
set, this keeps the promises of R141. -/
def migOk (s : State) (j b v w : Nat) : Bool :=
  let e := steerAt s j b
  let fresh := freshVents s j
  decide (j < 5) && decide (b < 4096) && e.valid && !e.mig && setOk v w && (e.vent != v || e.spread != w) &&
    (ventSet v w).all fresh.contains &&
    (moveServes s j (ventSet e.vent e.spread) (ventSet v w) ||
      ((ventSet e.vent e.spread).all (reported s) && (match e.ended with
        | some t => decide (t.toNat + 1000000 ≤ s.timebase.toNat)
        | none => true)))

/-- R127 steps 1 and 3: the entry is rewritten and a marker joins the input of every vent of the old set. -/
def startMig (s : State) (j b v w : Nat) : State :=
  let e := steerAt s j b
  let n := s.easel.migno + 1
  let old := ventSet e.vent e.spread
  let m : Migration := { migno := n, bank := j, bucket := b, fromV := e.vent, toV := v, start := s.timebase, unacked := old,
                         lastTicket := fget 0 s.path.dealtTo (4096 * j + b) }
  let s1 := setSteer s j b { e with vent := v, spread := w, mig := true, fromV := e.vent, fromSpr := e.spread }
  old.foldl (fun s x => pushItem s x (.marker n.toNat)) { s1 with easel := { s1.easel with
    migno := n
    migs := s1.easel.migs ++ [m] } }

/-- The migrations of the plan still to be started: those that can start do, at most eight at once (R131). -/
def runTodo (s : State) : List (Nat × Nat × Nat × Nat) → State
  | [] => { s with easel := { s.easel with todo := [] } }
  | (j, b, v, w) :: r =>
    if 8 ≤ s.easel.migs.length then { s with easel := { s.easel with todo := (j, b, v, w) :: r } }
    else runTodo (if migOk s j b v w then startMig s j b v w else s) r

/-! ### Constraints in progress -/

/-- The sources of a reservation, host rings of its function included. -/
def reserveSrcs (r : Reserve) : List Nat := bitList 32 r.srcs.toNat ++ [32 + r.func]

/-- The entry that Easel places for a draw x on a list of vents; the placement is Easel's (R142). -/
def drawEntry (vs : List Nat) (x : Nat) : Steer :=
  let v := vs.getD (x % vs.length) 0
  let w := x / vs.length % 6
  let a := v / 2 ^ w * 2 ^ w
  if (ventSet a w).all vs.contains then { vent := a, spread := w, valid := true } else { vent := v, valid := true }

/-- Bank j of the steering table replaced. -/
def putBank (s : State) (j : Nat) (es : FMap Steer) : State :=
  let lo := s.easel.steer.filter (fun p => decide (p.1 < 4096 * j))
  let hi := s.easel.steer.filter (fun p => decide (4096 * j + 4096 ≤ p.1))
  { s with easel := { s.easel with steer := lo ++ es ++ hi } }

/-- Step 2 of R137: every entry of the bank is VALID on vents of the reservation's calderas. -/
def fillBank (s : State) (j : Nat) (vs : List Nat) : State :=
  let es := (List.range 4096).map (fun b => (4096 * j + b, drawEntry vs (Config.freeNat (s.freeCtr + b))))
  { putBank s j es with freeCtr := s.freeCtr + 4096 }

/-- Whether no bank 0 entry, and no migration of one, involves a caldera of a mask. -/
def bank0Off (s : State) (cals : BitVec 12) : Bool :=
  (List.range 12).all (fun c => !cals.getLsbD c || (!migHits s c &&
    (List.range 4096).all (fun b => let e := steerAt s 0 b; !setHits e.vent e.spread c)))

/-- The constraint in progress advances (R137). -/
def constrainStep (s : State) : State :=
  match s.easel.constrain with
  | none => s
  | some x => match x.op with
    | .exclude => s
    | .reserve =>
      let r := fget {} s.easel.reserves x.group
      if !x.filled then
        if bank0Off s r.cals ∧ ¬ (freshVents s x.group).isEmpty then
          let s1 := fillBank s x.group (freshVents s x.group)
          { s1 with easel := { s1.easel with
              constrain := some { x with filled := true }
              switching := (reserveSrcs r).map (fun k => (k, x.group)) } }
        else s
      else if s.easel.switching.isEmpty then admEnd { s with easel := { s.easel with constrain := none } } x.cmd 0 0 0
      else s
    | .release =>
      if s.easel.switching.isEmpty ∧ ¬ s.easel.migs.any (fun m => m.bank == x.group) then
        let s1 := putBank s x.group []
        admEnd { s1 with easel := { s1.easel with
          constrain := none
          reserves := fdel x.group s1.easel.reserves } } x.cmd 0 0 0
      else s

/-! ### EASEL_PLAN -/

/-- The clock of a caldera at a plan (R362): the highest reading of the last period against the thresholds. -/
def throttleClk (s : State) (x : Cal) : Nat :=
  if x.temp = 0 ∨ x.power ≠ .on then x.clk
  else if s.power.throttle.toNat + 64 ≤ x.temp.toNat then (if x.clk ≤ 600 then x.clk else max 600 (x.clk - 100))
  else if x.temp.toNat + 5 ≤ s.power.throttle.toNat + 64 ∧ ¬ s.power.shut ∧ x.clk < s.power.vclk.toNat then
    min s.power.vclk.toNat (x.clk + 100)
  else x.clk

/-- Whether a caldera is warm after a period whose highest reading, °C + 64, was `t` (R140): from the throttling threshold on,
until 5 °C below it; a period without a reading changes nothing. -/
def stillWarm (s : State) (x : Cal) (t : Byte) : Bool :=
  let thr := s.power.throttle.toNat + 64
  if t = 0 then x.warm else decide (thr ≤ t.toNat) || (x.warm && decide (thr < t.toNat + 5))

/-- The highest reading of the last period is what the caldera is throttled by (R123, R140, R362).
DESIGN CHOICE: TEMP is 0 where the last period brought no reading (R143, notes/assumptions/31.md). -/
def throttleCal (s : State) (c : Nat) : State :=
  let n := easelNow s
  let t := fget 0 (calAt s c).hot (n - 1)
  let x := { calAt s c with temp := t, warm := stillWarm s (calAt s c) t, hot := (calAt s c).hot.filter (fun p => decide (n ≤ p.1)) }
  let k := throttleClk s x
  let s1 := updCal s c (fun _ => { x with clk := k })
  if k = x.clk then s1
  else
    let s2 := if k < x.clk then powerErr s1 0 else s1
    latchIntCal (postEvent s2 0 6 1 (c * 2 ^ 8 + k * 2 ^ 12)) c 21

/-- A caldera's context cache capacity in contexts (R135). -/
def copyCap (s : State) : Nat := ctxcSize s / 128

/-- One decision of a plan; one that Easel may not take has no effect (R126, R132 to R135). A queue's SPILLTH changes here
alone, never by host software (R100). -/
def planItem (s : State) : PlanItem → State
  | .migrate j b v w => { s with easel := { s.easel with todo := s.easel.todo ++ [(j, b, v, w)] } }
  | .lceMap v l =>
    if v < 8 * nCals s ∧ l < nLces s ∧ reported s v then { s with easel := { s.easel with lceMap := fset v l s.easel.lceMap } } else s
  | .spillTh q th =>
    if (queueAt s q).valid ∧ 1 ≤ th ∧ th ≤ (queueAt s q).limit then
      let s1 := updQueue s q (fun x => { x with spillth := th })
      if s.qm.cache.contains q then s1 else storeQueue s1 q
    else s
  | .moveWindow c k w =>
    let x := winAt s c k
    if x.wok ∧ w < 131072 ∧ w / 8192 ≠ x.handle / 8192 ∧ ¬ fhas s.store.winOwner w then
      setWin (setWinBits (setWinBits { s with store := { s.store with
        winOwner := fset w (6 * c + k) (fdel x.handle s.store.winOwner) } } w (winBits s x.handle)) x.handle 0) c k
        { x with handle := w }
    else s
  | .copies c xs =>
    if calFitted s c ∧ (calAt s c).power = .on ∧ (ventSet (8 * c) 3).any (reported s) ∧ xs.length ≤ copyCap s ∧ xs.Nodup then
      { s with easel := { s.easel with ctxCache := fset c xs s.easel.ctxCache } }
    else s
  | .sealNext c =>
    if calFitted s c ∧ (calAt s c).power = .on ∧ ¬ nbit (reservedMask s) c then { s with easel := { s.easel with toSeal := some c } } else s
  | .telemetry c o => if calFitted s c ∧ (calAt s c).power = .on then updCal s c (fun x => { x with occ := o }) else s

/-- Whether a plan keeps the limits of R133 and R134 on threshold writes and relocations in one period. -/
def planOk (plan : List PlanItem) : Bool :=
  decide ((plan.filter (fun i => match i with
    | .spillTh _ _ => true
    | _ => false)).length ≤ 65536) &&
  decide ((plan.filter (fun i => match i with
    | .moveWindow _ _ _ => true
    | _ => false)).length ≤ 1024)

/-- A plan at the start of a period (R122, R123): throttling, then the decisions in order, then the migrations that can start.
What the last plan did not start is dropped. -/
def execEaselPlan (plan : List PlanItem) (s : State) : Host.Outcome State Fault Refusal :=
  .next (
    let n := easelNow s
    if s.glob.phase = .primed ∧ s.easel.planned < n ∧ planOk plan then
      let s1 := { s with easel := { s.easel with
        planned := n
        todo := [] } }
      let s2 := (List.range (nCals s)).foldl throttleCal s1
      let s3 := plan.foldl planItem s2
      constrainStep (runTodo s3 s3.easel.todo)
    else s)

/-! ### The end of a migration -/

/-- The migration of a number. -/
def migAt (s : State) (n : Word) : Option Migration := s.easel.migs.find? (fun m => m.migno == n)

/-- The bytes of a bucket state slot, and its place in caldera memory (R127, EASEL_CFG). -/
def slotBytes (s : State) : Nat := if wbits s.easel.cfg 1 0 = 0 then 0 else 2 ^ (wbits s.easel.cfg 1 0 + 5)
/-- Slot b's byte offset in caldera memory. -/
def slotOff (s : State) (b : Nat) : Nat := wbits s.easel.cfg 21 16 * 0x10000 + b * slotBytes s

/-- n bytes of the matrix are copied from a to b by Easel's port, as far as the matrix takes it. -/
def copyBytes (s : State) (a b n : Nat) : State :=
  let (c, bs, s1) := matRead .intake a n s
  if c = .okay then matPut .intake (addrBytes b bs) s1 else s1

/-- Whether the copy of a migration's slot waits for a lock that the host bridge holds on either caldera's port (R264). -/
def copyWaits (s : State) (m : Migration) : Bool :=
  m.fromV / 8 != m.toV / 8 && slotBytes s != 0 &&
  (matLocked .intake (calBase (m.fromV / 8)) s || matLocked .intake (calBase (m.toV / 8)) s)

/-- R127 step 5: slot b goes with its bucket to another caldera, by a read and a write of Easel's port; a copy that the
matrix refuses, over a write-protected range for one (R332), is not made. -/
def copySlot (s : State) (m : Migration) : State :=
  let n := slotBytes s
  if m.fromV / 8 = m.toV / 8 ∨ n = 0 then s
  else
    copyBytes s (0x10000000 + m.fromV / 8 * 0x1000000 + slotOff s m.bucket)
      (0x10000000 + m.toV / 8 * 0x1000000 + slotOff s m.bucket) n

/-- The migrations of the plan that are still to be started, in the period of the plan; a later period drops them (R123). -/
def resumePlan (s : State) : State :=
  if s.easel.planned = easelNow s then runTodo s s.easel.todo else { s with easel := { s.easel with todo := [] } }

/-- R127 steps 5 to 7: the copy, the release of the held items to the new set in ticket order, and the end. -/
def migEnd (s : State) (m : Migration) : State :=
  let s1 := copySlot s m
  let e := steerAt s1 m.bank m.bucket
  let s2 := setSteer { s1 with easel := { s1.easel with migs := s1.easel.migs.filter (fun x => x.migno != m.migno) } } m.bank m.bucket
    { e with mig := false, fromV := 0, fromSpr := 0, ended := some s.timebase }
  let s3 := m.held.foldl (fun s it => dealItem s it m.bank m.bucket (itemDealt s it)) s2
  constrainStep (resumePlan s3)

/-- Every acknowledgement of a migration has arrived (R127 step 5 to 7). -/
def execMigrationRelease (migno : Word) (s : State) : Host.Outcome State Fault Refusal :=
  .next (
    match migAt s migno with
    | none => s
    | some m => if m.unacked.isEmpty && !copyWaits s m then migEnd s m else s)

/-- An acknowledgement is missing 50 µs after its marker reached the palette (R130). -/
def execMarklate (migno : Word) (v : Nat) (s : State) : Host.Outcome State Fault Refusal :=
  .next (
    match migAt s migno with
    | none => s
    | some m => if ackLate s v m then markLate s v m else s)

/-! ### Source switches and drained calderas -/

/-- Whether a frame that came before a switch of source k, or a slot record of that sub-port, still lies with a vent or an
LCE (R137, R141). -/
def srcBusy (s : State) (k : Nat) : Bool :=
  s.path.frames.any (fun p => match p.2.stage with
    | .slotPlain q g => slotSub q p.2 == k && !s.easel.heldSlots.contains (q, g, p.1)
    | _ => false) ||
  s.path.frames.any (fun p =>
    (if p.2.src = 32 then 32 + p.2.hfunc else p.2.src) == k && (match p.2.stage with
      | .waiting _ | .heldMig _ _ | .atVent _ | .chained => true
      | _ => false))

/-- The frames that wait in the port buffer for the switch of source k, in order. -/
def srcHeld (s : State) (k : Nat) : List Nat :=
  (s.path.frames.filter (fun p =>
    (if p.2.src = 32 then 32 + p.2.hfunc else p.2.src) == k && p.2.stage == .heldSrc)).map (fun p => p.1)

/-- The slot records that wait in Glaze for the switch of source k, in order, those whose plaintext still waits; and the
records of other sources. -/
def slotsHeld (s : State) (k : Nat) : List (Nat × Nat × Nat) × List (Nat × Nat × Nat) :=
  let mine (x : Nat × Nat × Nat) : Bool := slotSub x.1 (frameAt s x.2.2) == k
  (s.easel.heldSlots.filter (fun x => mine x && (frameAt s x.2.2).stage == .slotPlain x.1 x.2.1),
    s.easel.heldSlots.filter (fun x => !mine x))

/-- A source is switched to its new bank, and its waiting frames and slot records follow (R137). -/
def execSourceBankSwitch (src : Nat) (s : State) : Host.Outcome State Fault Refusal :=
  .next (
    match s.easel.switching.find? (fun p => p.1 == src) with
    | none => s
    | some p =>
      if srcBusy s src then s
      else
        let s1 := { s with easel := { s.easel with
          srcBank := if p.2 = 0 then fdel src s.easel.srcBank else fset src p.2 s.easel.srcBank
          switching := s.easel.switching.filter (fun q => q.1 != src)
          heldSlots := (slotsHeld s src).2 } }
        let s2 := (srcHeld s src).foldl (fun s n => placeItem s (.frame n) p.2 (frameAt s n).bucket) s1
        constrainStep ((slotsHeld s src).1.foldl (fun s x => placeItem s (.slot x.1 x.2.1 x.2.2) p.2 (1024 * x.1 + x.2.1)) s2))

/-- An EXCLUDE completes once every newly excluded caldera is drained (R139). -/
def execCalderaDrained (s : State) : Host.Outcome State Fault Refusal :=
  .next (
    match s.easel.constrain with
    | none => s
    | some x =>
      if x.op = .exclude ∧ (bitList 12 x.cals.toNat).all (drained s) then
        admEnd { s with easel := { s.easel with constrain := none } } x.cmd 0 0 0
      else s)

/-! ### EASEL_CONSTRAIN -/

/-- The calderas present as a mask. -/
def calMask (s : State) : Nat := 2 ^ nCals s - 1

/-- The fields of an EASEL_CONSTRAIN block that its OP uses: GROUP, FUNC, CALMASK, SRCMASK, CAP. -/
def constrainFields (s : State) (ps : List Byte) (op : Nat) (group func cals srcs cap : Bool) : List (Bool × Nat) :=
  [(byteAt ps 0 != op, 0)] ++
  (if group then [(decide (byteAt ps 1 < 1) || decide (4 < byteAt ps 1), 1)] else rsvBytes ps 1 1) ++
  (if func then [(decide (63 < byteAt ps 2), 2)] else rsvBytes ps 2 1) ++ rsvBytes ps 3 1 ++
  (if cals then [(decide (calMask s < pField ps 4 2), 4)]
    else rsvBytes ps 4 2) ++ rsvBytes ps 6 2 ++
  (if srcs then [] else rsvBytes ps 8 4) ++
  (if cap then [(decide (196608 < pField ps 12 4), 12)] else rsvBytes ps 12 4)

/-- Whether a source is paired in Canvas (R19). -/
def srcPaired (s : State) (k : Nat) : Bool := (pairOf (setAt s s.sets.epoch) k).isSome

/-- Whether exclusions and reservations leave every reservation, and the calderas outside them, an included caldera
(R136). -/
def leavesOne (s : State) (excl : Nat) (rs : List Nat) : Bool :=
  let ok (m : Nat) : Bool := (bitList 12 (m &&& calMask s)).any (fun c => !nbit excl c)
  rs.all ok && ok (calMask s - (rs.foldl (fun a m => a ||| m) 0) % 2 ^ 12)

/-- The caldera masks of the reservations. -/
def reserveMasks (s : State) : List Nat := s.easel.reserves.map (fun p => p.2.cals.toNat)

/-- EASEL_CONSTRAIN, OP RESERVE (R136, R137). -/
def execEaselConstrainReserve (d : AdmDesc) (p : Option (List Byte)) (s : State) : Host.Outcome State Fault Refusal :=
  let ps := admBlock p 16
  let g := byteAt ps 1
  let f := byteAt ps 2
  let m := pField ps 4 2
  let srcs := pField ps 8 4
  .next (admAccept s d p {
      opcode := 0x0D
      plen := 16
      alone := true
      fields := constrainFields s ps 0 true true true true false
      check :=
        if fhas s.easel.reserves g then some (1, 1, 0)
        else if m &&& reservedMask s ≠ 0 then some (1, 4, 0)
        else if s.easel.reserves.any (fun r => r.2.func == f) then some (1, 2, 0)
        else if s.easel.reserves.any (fun r => r.2.srcs.toNat &&& srcs != 0) then some (1, 8, 0)
        else if ¬ leavesOne s s.easel.excl.toNat (m :: reserveMasks s) then some (1, 4, 0)
        else if s.easel.constrain.isSome ∨ (bitList 32 srcs).any (srcPaired s) then some (2, 0, 0)
        else none }
    (fun id s =>
      constrainStep { s with easel := { s.easel with
        reserves := fset g { func := f, cals := BitVec.ofNat 12 m, srcs := BitVec.ofNat 32 srcs } s.easel.reserves
        constrain := some { cmd := id, op := .reserve, group := g } } }))

/-- EASEL_CONSTRAIN, OP RELEASE (R136, R137); a GROUP that is not in use has nothing to end. -/
def execEaselConstrainRelease (d : AdmDesc) (p : Option (List Byte)) (s : State) : Host.Outcome State Fault Refusal :=
  let ps := admBlock p 16
  let g := byteAt ps 1
  let r := fget {} s.easel.reserves g
  .next (admAccept s d p {
      opcode := 0x0D
      plen := 16
      alone := true
      fields := constrainFields s ps 1 true false false false false
      check := if s.easel.constrain.isSome ∨ (bitList 32 r.srcs.toNat).any (srcPaired s) then some (2, 0, 0) else none }
    (fun id s =>
      if fhas s.easel.reserves g then
        { s with easel := { s.easel with
            constrain := some { cmd := id, op := .release, group := g }
            switching := (reserveSrcs r).map (fun k => (k, 0)) } }
      else admEnd s id 0 0 0))

/-- EASEL_CONSTRAIN, OP PBCAP (R136, R138). -/
def execEaselConstrainPbcap (d : AdmDesc) (p : Option (List Byte)) (s : State) : Host.Outcome State Fault Refusal :=
  let ps := admBlock p 16
  let f := byteAt ps 2
  let cap := pField ps 12 4
  .next (admAccept s d p {
      opcode := 0x0D
      plen := 16
      alone := true
      fields := constrainFields s ps 2 false true false false true
      check := if s.easel.constrain.isSome then some (2, 0, 0) else none }
    (fun id s => admEnd { s with qm := { s.qm with caps := if cap = 0 then fdel f s.qm.caps else fset f cap s.qm.caps } } id 0 0 0))

/-- EASEL_CONSTRAIN, OP EXCLUDE (R136, R139): source 21 at the vents of a caldera whose exclusion changes (R251). -/
def execEaselConstrainExclude (d : AdmDesc) (p : Option (List Byte)) (s : State) : Host.Outcome State Fault Refusal :=
  let ps := admBlock p 16
  let m := pField ps 4 2
  let old := s.easel.excl
  let new := BitVec.ofNat 12 m
  .next (admAccept s d p {
      opcode := 0x0D
      plen := 16
      alone := true
      fields := constrainFields s ps 3 false false true false false
      check :=
        if ¬ leavesOne s m (reserveMasks s) then some (1, 4, 0)
        else if s.easel.constrain.isSome then some (2, 0, 0)
        else none }
    (fun id s =>
      let s1 := (bitList 12 (old ^^^ new).toNat).foldl (fun s c => latchIntCal s c 21)
        { s with easel := { s.easel with excl := new } }
      if new &&& ~~~old = 0 then admEnd s1 id 0 0 0
      else { s1 with easel := { s1.easel with constrain := some { cmd := id, op := .exclude, cals := new &&& ~~~old } } }))

/-! ### EASEL_SNAP -/

/-- A steering entry's word (R124). -/
def steerWord (e : Steer) : Nat :=
  e.vent + e.spread * 2 ^ 7 + b2n e.mig * 2 ^ 10 + b2n e.valid * 2 ^ 11 + (if e.mig then e.fromV * 2 ^ 12 + e.fromSpr * 2 ^ 19 else 0)

/-- A caldera record (R143). -/
def calRecord (s : State) (c : Nat) : List Byte :=
  let x := calAt s c
  let j := calBank s c
  leBytes 16 (x.occ.toNat + x.temp.toNat * 2 ^ 8 + (if x.power = .on then x.clk else 0) * 2 ^ 16 + b2n (calFitted s c) * 2 ^ 28 +
    b2n (drained s c) * 2 ^ 29 + b2n (s.store.kemSealed == some c) * 2 ^ 30 + j * 2 ^ 32 +
    (if j = 0 then 0 else (fget {} s.easel.reserves j).func) * 2 ^ 35 + calEntries s c * 2 ^ 64)

/-- The phase of a migration (R143). -/
def migPhase (s : State) (m : Migration) : Nat :=
  if !m.unacked.isEmpty then 1 else if m.fromV / 8 ≠ m.toV / 8 ∧ slotBytes s ≠ 0 then 2 else 3

/-- A migration record (R143). -/
def migRecord (s : State) (k : Nat) : List Byte := match s.easel.migs[k]? with
  | none => List.replicate 16 0
  | some m => leBytes 16 (m.migno.toNat + m.bucket * 2 ^ 32 + m.bank * 2 ^ 44 + m.fromV * 2 ^ 47 + m.toV * 2 ^ 54 +
      migPhase s m * 2 ^ 61 + m.start.toNat * 2 ^ 64)

/-- The length of a snapshot with the sections of a mask (R143). -/
def snapLen (sect : Nat) : Nat :=
  64 + 81920 * b2n (nbit sect 0) + 128 * b2n (nbit sect 1) + 192 * b2n (nbit sect 2) + 128 * b2n (nbit sect 3)

/-- A snapshot (R143). -/
def snapBytes (s : State) (sect : Nat) : List Byte :=
  leBytes 64 (s.timebase.toNat + s.timebase.toNat / 100000 % 2 ^ 32 * 2 ^ 64 + sect * 2 ^ 96 + s.easel.excl.toNat * 2 ^ 100 +
    snapLen sect * 2 ^ 128) ++
  (if nbit sect 0 then (List.range (5 * 4096)).flatMap (fun i => leBytes 4 (steerWord (steerAt s (i / 4096) (i % 4096)))) else []) ++
  (if nbit sect 1 then (List.range 96).map (fun v => if v < 8 * nCals s then BitVec.ofNat 8 (lceOf s v) else 0xFF) ++
    List.replicate 32 0 else []) ++
  (if nbit sect 2 then (List.range 12).flatMap (calRecord s) else []) ++
  (if nbit sect 3 then (List.range 8).flatMap (migRecord s) else [])

/-- EASEL_SNAP (R143, R312). -/
def execEaselSnap (d : AdmDesc) (p : Option (List Byte)) (s : State) : Host.Outcome State Fault Refusal :=
  let ps := admBlock p 8
  let sect := byteAt ps 0
  .next (admAccept s d p {
      opcode := 0x0E
      plen := 8
      returns := some true
      fields := (sect == 0 || decide (15 < sect), 0) :: rsvBytes ps 1 7
      need := some (snapLen sect) }
    (fun id s => admEnd (admResult s d (snapBytes s sect)) id 0 0 (snapLen sect)))

end Sys2Proof.Machine
end

