-- ==== Sys2Proof/Machine/Firmware.lean ====
section
/-! DEFINITION. Priming (R321 to R326): the board description (R328, R329), the firmware image and its verification (R330,
R331), stages A and B. -/

namespace Sys2Proof.Machine

/-! ### Board description -/

/-- One step of the CRC-32 of IEEE 802.3, n bits at a time. -/
def crcBits : Nat → Nat → Nat
  | 0, c => c
  | n + 1, c => crcBits n (if c % 2 = 1 then c / 2 ^^^ 0xEDB88320 else c / 2)

/-- The CRC-32 of a byte string. -/
def crc32 (bs : List Byte) : Nat := bs.foldl (fun c b => crcBits 8 (c ^^^ b.toNat)) 0xFFFFFFFF ^^^ 0xFFFFFFFF

/-- DLEN of a record type, 0 for none (R328). -/
def bdLen (t : Nat) : Nat := [0, 12, 4, 8, 4, 4, 8].getD t 0

/-- The first of a record's bytes that must be zero, from there to its end. -/
def bdZeroFrom (t : Nat) : Nat := [0, 9, 2, 4, 2, 2, 6].getD t 0

/-- The records of `bs` one after another: `n` are expected, i is the next one's index. The failing record's index, or
the records (type, data). -/
def bdRecords : Nat → Nat → List Byte → Nat ⊕ List (Nat × List Byte)
  | 0, _, bs => if bs.isEmpty then .inr [] else .inl 0xFF
  | n + 1, i, bs =>
    let t := leNat (bs.take 2)
    let l := leNat (slice bs 2 2)
    let d := (bs.drop 4).take l
    if bs.length < 4 ∨ bdLen t = 0 ∨ l ≠ bdLen t ∨ d.length < l ∨ (d.drop (bdZeroFrom t)).any (· != 0) then .inl i
    else match bdRecords n (i + 1) (bs.drop (4 + l)) with
      | .inl k => .inl k
      | .inr r => .inr ((t, d) :: r)

/-- The speed of I²C master n in the MGMTBUS record, 0 where there is none. -/
def bdI2c (rs : List (Nat × List Byte)) (n : Nat) : Nat := match rs.find? (fun r => r.1 == 6) with
  | some r => byteAt r.2 n
  | none => 0

/-- Whether 24 bits name a permutation of 0 to 7. -/
def bdPerm (x : Nat) : Bool := (List.range 8).all (fun k => (List.range 8).any (fun i => x / 8 ^ i % 8 == k))

/-- Whether a record holds a value that R329 refuses, duplicates apart. -/
def bdRefused (rs : List (Nat × List Byte)) (t : Nat) (d : List Byte) : Bool :=
  match t with
  | 1 => decide (3 < byteAt d 0) || !bdPerm (leNat (slice d 1 3)) || !bdPerm (leNat (slice d 4 3))
  | 2 => decide (3 < byteAt d 0) || decide (1 < byteAt d 1)
  | 3 => decide (31 < byteAt d 0) || decide (4 < byteAt d 1) || decide (127 < byteAt d 3) ||
      (byteAt d 2 != 0xFF && (decide (3 < byteAt d 2) || bdI2c rs (byteAt d 2) == 0))
  | 4 => decide (3 < byteAt d 0) || decide (7 < byteAt d 1)
  | 5 => decide (byteAt d 0 < 60) || decide (100 < byteAt d 0) || decide (byteAt d 1 < 70) || decide (110 < byteAt d 1) ||
      decide (byteAt d 1 < byteAt d 0 + 5)
  | _ => (d.take 4).any (fun b => decide (3 < b.toNat)) || ((d.drop 4).take 2).any (fun b => decide (2 < b.toNat))

/-- What makes two records of one type the same: the port or source, nothing for THERMAL and MGMTBUS. -/
def bdKey (t : Nat) (d : List Byte) : Nat := if t < 5 then byteAt d 0 else 0

/-- The first record that is refused under R329, from index i on; `seen` holds the records before it. -/
def bdConflict (all : List (Nat × List Byte)) : List (Nat × List Byte) → Nat → List (Nat × List Byte) → Option Nat
  | _, _, [] => none
  | seen, i, r :: rest =>
    if bdRefused all r.1 r.2 || seen.any (fun x => x.1 == r.1 && bdKey x.1 x.2 == bdKey r.1 r.2) then some i
    else bdConflict all (r :: seen) (i + 1) rest

/-- Where the board description lies (R327). -/
def bdBase : Nat := mvBase + 0x180000

/-- The checks of R329: FAIL code and detail, or the records. -/
def bdCheck (s : State) : (Nat × Nat) ⊕ List (Nat × List Byte) :=
  let h := getMem s bdBase 16
  let len := leNat (slice h 8 4)
  if leNat (h.take 4) ≠ 0x44425A53 ∨ leNat (slice h 4 2) ≠ 1 ∨ len < 16 ∨ 65536 < len then .inl (7, 0xFF)
  else
    let body := getMem s (bdBase + 16) (len - 16)
    if crc32 body ≠ leNat (slice h 12 4) then .inl (7, 0xFF)
    else match bdRecords (leNat (slice h 6 2)) 0 body with
      | .inl i => .inl (7, i)
      | .inr rs => match bdConflict rs [] 0 rs with
        | some i => .inl (8, i)
        | none => .inr rs

/-- A record takes effect (R328): lane maps and polarities, reference input (R344), fallback permissions, thresholds, bus
speeds. An OPTICS record configures nothing of the part itself. -/
def bdApply1 (s : State) (r : Nat × List Byte) : State :=
  let d := r.2
  match r.1 with
  | 1 => updPort s (byteAt d 0) (fun x => { x with
      lanemap := fset 3 (byteAt d 8) (fset 2 (byteAt d 7) (fset 1 (leNat (slice d 4 3)) (fset 0 (leNat (slice d 1 3)) x.lanemap))) })
  | 2 => updPort s (byteAt d 0) (fun x => { x with refb := byteAt d 1 == 1 })
  | 4 => updPort s (byteAt d 0) (fun x => { x with fallPerm := BitVec.ofNat 3 (byteAt d 1) })
  | 5 => { s with power := { s.power with
      throttle := BitVec.ofNat 8 (byteAt d 0)
      shutdown := BitVec.ofNat 8 (byteAt d 1) } }
  | 6 =>
    let en (n o : Nat) : Nat := ((List.range n).map (fun i => b2n (byteAt d (o + i) != 0) * 2 ^ i)).sum
    { s with mgmt := { s.mgmt with
      i2cSpeed := (List.range 4).foldl (fun m i => fset i (byteAt d i) m) s.mgmt.i2cSpeed
      mdioSpeed := (List.range 2).foldl (fun m i => fset i (byteAt d (4 + i)) m) s.mgmt.mdioSpeed
      i2cEn := BitVec.ofNat 4 (en 4 0)
      mdioEn := BitVec.ofNat 2 (en 2 4) } }
  | _ => s

/-! ### Firmware image -/

/-- An entry of the section table (R330). -/
structure Section where
  typ : Nat := 0
  off : Nat := 0
  len : Nat := 0
  dest : Nat := 0
  rsv : Bool := false
deriving DecidableEq, Repr

/-- The entry that 32 bytes hold. -/
def sectionOf (b : List Byte) : Section :=
  { typ := leNat (b.take 2)
    off := leNat (slice b 4 4)
    len := leNat (slice b 8 4)
    dest := leNat (slice b 12 4)
    rsv := leNat (slice b 2 2) != 0 || (b.drop 16).any (· != 0) }

/-- Bytes of a signature of SLH-DSA-SHAKE-256s. -/
def sigLen : Nat := 29792

/-- An image as R330 lays it out at a matrix address. -/
structure Image where
  base : Nat := 0
  hdr : List Byte := []
  nsect : Nat := 0
  len : Nat := 0
  svn : Nat := 0
  entry : Nat := 0
  sects : List Section := []
deriving DecidableEq, Repr

/-- The image at a matrix address. A table is read for at most the 16 sections that R330 admits. -/
def imageAt (s : State) (base : Nat) : Image :=
  let h := getMem s base 256
  let n := leNat (slice h 6 2)
  { base := base
    hdr := h
    nsect := n
    len := leNat (slice h 8 4)
    svn := leNat (slice h 12 4)
    entry := leNat (slice h 20 4)
    sects := (List.range (min n 16)).map (fun i => sectionOf (getMem s (base + 256 + 32 * i) 32)) }

/-- The signed bytes. -/
def signedBytes (s : State) (i : Image) : List Byte := getMem s i.base (i.len - sigLen)

/-- The image digest. -/
def imageDigest (s : State) (i : Image) : List Byte := shake256 (signedBytes s i) 32

/-- Whether two ranges (start, length) meet. -/
def meets (a b : Nat × Nat) : Bool := decide (a.1 < b.1 + b.2) && decide (b.1 < a.1 + a.2)

/-- Whether two ranges of a list meet. -/
def anyMeet : List (Nat × Nat) → Bool
  | [] => false
  | x :: r => r.any (meets x) || anyMeet r

/-- The numbered header checks of R331 step 3: the first that fails. `lenOk`: IMGLEN is within its limit. -/
def headerCheck (i : Image) (lenOk : Bool) : Option Nat :=
  let cal := i.sects.filter (fun x => x.typ == 2)
  if !lenOk || decide (i.len ≤ 256 + 32 * i.nsect + sigLen) then some 1
  else if i.nsect = 0 ∨ 16 < i.nsect then some 2
  else if (slice i.hdr 24 8).any (· != 0) || (i.hdr.drop 96).any (· != 0) || i.sects.any (fun x => x.rsv) ||
      i.sects.any (fun x => x.typ == 0 || decide (3 < x.typ) || (x.typ != 2 && x.dest != 0)) || decide (64 < i.svn) then some 3
  else if i.sects.any (fun x => x.off % 64 != 0 || x.len == 0 || decide (x.off < 256 + 32 * i.nsect) ||
      decide (i.len - sigLen < x.off + x.len)) then some 4
  else if anyMeet (i.sects.map (fun x => (x.off, x.len))) then some 5
  else if i.entry % 4 ≠ 0 ∨ ¬ i.sects.any (fun x => x.typ == 1 && decide (x.off ≤ i.entry) && decide (i.entry < x.off + x.len)) then some 6
  else if 1 < (i.sects.filter (fun x => x.typ == 3)).length then some 7
  else if cal.any (fun x => x.dest % 64 != 0 || decide (0x380000 < x.dest + x.len)) || anyMeet (cal.map (fun x => (x.dest, x.len))) then some 8
  else none

/-- The bit of VARIANTS. -/
def variantBit (s : State) : Nat := match s.fuses.variant with
  | .sz1600A => 0
  | .sz1600X => 1
  | .sz1200A => 2
  | .sz0800A => 3

/-- R331 steps 2 to 7: FAIL code and detail of the first failure. -/
def imageCheck (s : State) (i : Image) (lenOk : Bool) : Option (Nat × Nat) :=
  let rootpk := slice i.hdr 32 64
  if leNat (i.hdr.take 4) ≠ 0x57465A53 ∨ leNat (slice i.hdr 4 2) ≠ 1 then some (1, 0)
  else match headerCheck i lenOk with
    | some k => some (2, k)
    | none =>
      if ¬ nbit (leNat (slice i.hdr 16 4)) (variantBit s) then some (6, 0)
      else if shake256 rootpk 32 ≠ leBytes 32 s.fuses.rootDig.toNat then some (3, 0)
      else if i.svn < svnMin s then some (5, 0)
      else if !slhVerify slh256s rootpk (ascii "Sorzu firmware") (signedBytes s i) (getMem s (i.base + i.len - sigLen) sigLen) then
        some (4, 0)
      else none

/-- The CALDERA sections of an image with their contents. -/
def calSections (s : State) (i : Image) : List (Nat × List Byte) :=
  (i.sects.filter (fun x => x.typ == 2)).map (fun x => (x.dest, getMem s (i.base + x.off) x.len))

/-- The digests of an image's MV and KEYWORK sections, each after its type (R334). -/
def mvDigests (s : State) (i : Image) : List (List Byte) :=
  (i.sects.filter (fun x => x.typ != 2)).map (fun x => BitVec.ofNat 8 x.typ :: shake256 (getMem s (i.base + x.off) x.len) 32)

/-! ### Priming -/

/-- Stage A ends (R322): a fuse error, TEST_EN on a locked part, a store's failed check, or HOSTWAIT with every on-die
store zero. -/
def execHostwait (r : StageAEnd) (s : State) : Host.Outcome State Fault Refusal :=
  .next (
    if s.glob.phase ≠ .stageA then s
    else match r with
      | .fuse b => setFail s 10 b.toNat
      | .sram => if s.fuses.testLock && s.balls.testEn then setFail s 9 0 else setFail s 11 0
      | .ok =>
        if s.fuses.testLock && s.balls.testEn then setFail s 9 0
        else { s with
          mem := []
          store := {}
          glob := { s.glob with phase := .hostWait, cfgReady := true } })

/-- Verification succeeds (R324, R331): the board description takes effect, RUNSVN and the records of the image are
taken, and stage B starts. -/
def startStageB (s : State) (rs : List (Nat × List Byte)) (i : Image) : State :=
  let s1 := rs.foldl bdApply1 s
  { s1 with glob := { s1.glob with
      phase := .stageB
      runSvn := BitVec.ofNat 7 i.svn
      sections := calSections s i
      primImg := imageDigest s i
      mvDigs := mvDigests s i
      bdDig := shake256 (getMem s bdBase (leNat (getMem s (bdBase + 8) 4))) 32
      mvEntry := i.entry } }

/-- Verification ends (R331). -/
def execStageb (s : State) : Host.Outcome State Fault Refusal :=
  .next (
    if s.glob.phase ≠ .verify then s
    else match bdCheck s with
      | .inl (c, d) => setFail s c d
      | .inr rs =>
        let i := imageAt s mvBase
        match imageCheck s i (decide (i.len ≤ 1572864)) with
        | some (c, d) => setFail s c d
        | none => startStageB s rs i)

/-- IDPK: PK.seed and the root computed from the identity seeds (R333). -/
def identityKey (s : State) : List Byte :=
  let seeds := leBytes 96 s.fuses.idSeed.toNat
  let pk := slice seeds 64 32
  pk ++ slhRoot slh256f (seeds.take 32) pk

/-- A context record with neither parameter block VALID (R324). -/
def blocksOff (r : CtxRec) : CtxRec := { r with blk0 := r.blk0 &&& ~~~1, blk1 := r.blk1 &&& ~~~1 }

/-- The initial state of R324: HBM trained and marked for zeroing, every caldera on with its sections, its vents held, no
VALID parameter block. -/
def primedState (s : State) : State :=
  let s1 := { zeroMem s hbmBase (hbmSize s) with
    store := { s.store with ctxs := s.store.ctxs.map (fun p => (p.1, blocksOff p.2)) }
    hbm := { s.hbm with
      trained := BitVec.ofNat 4 (2 ^ nStacks s - 1)
      zeroing := true
      zeroNext := 0
      zeroed := []
      poison := []
      latent := [] } }
  (List.range (nCals s)).foldl (fun s c =>
    loadSections (updCal s c (fun x => { x with power := .on, clk := s.power.vclk.toNat })) c) s1

/-- The MV leaves the boot ROM for MVENTRY (R324). -/
def startMv (s : State) : State :=
  updVent s mvNum (fun vt => { vt with held := false, pc := BitVec.ofNat 32 (mvBase + s.glob.mvEntry) })

/-- Stage B ends (R324): a failure, or PRIMED with the initial state, the message of vector 0 and the MV at MVENTRY. -/
def execPrimed (r : StageBEnd) (s : State) : Host.Outcome State Fault Refusal :=
  .next (
    if s.glob.phase ≠ .stageB then s
    else match r with
      | .hbmTrain k => setFail s 12 k.toNat
      | .selfTest u => setFail s 13 u.toNat
      | .caldera c => setFail s 14 c.toNat
      | .ok =>
        let s1 := primedState s
        startMv (msixFire { s1 with glob := { s1.glob with
          phase := .primed
          idpk := identityKey s } } 0 0))

end Sys2Proof.Machine
end

