-- ==== Sys2Proof/Machine/RegCommands.lean ====
section
/-! DEFINITION. Register writes as commands (R5, R7, R256, R257, R282, R283): any master's, the host's through BAR0, and
the writes whose effect has a row of its own. -/

namespace Sys2Proof.Machine

/-- Whether a master can send requests now: the part is out of reset, a vent is fitted, a host function exists, the link is up
and the host can have configured the BARs (R322), the function is in D0 (R280), the TAP selects the debug access port (R351). -/
def masterReady (s : State) (m : Master) : Bool :=
  s.glob.phase != .reset && (match m with
    | .host f => s.hb.linkup && s.glob.cfgReady && decide (f ≤ s.hb.numvf) && !(funcAt s f).d3hot
    | .vent v => decide (v < 8 * nCals s)
    | .jtag => s.jtag.ir == 0x10
    | _ => true)

/-- The matrix address that a PF BAR0 offset reaches (R256); none for an unmapped offset. -/
def bar0Addr (o : Nat) : Option Nat :=
  if o < 0x1000000 then some (0x80000000 + o)
  else if o < 0x2000000 then some (0x90000000 + (o - 0x1000000))
  else none

/-- What lies at an offset of a VF's BAR0 (R282): a word of a ring register, of its MSI-X table, its PBA or MSIX_MOD;
or nothing (R7). -/
inductive VfLoc where
  | ring (r i : Nat) | table (v i : Nat) | pba (i : Nat) | modr (v : Nat) | none
deriving DecidableEq, Repr

/-- The layout of a VF's BAR0 (R282). -/
def vfLoc (o : Nat) : VfLoc :=
  if o < 0x10000 then .ring (o / 16) (o % 16 / 4)
  else if o < 0x10400 then .table ((o - 0x10000) / 16) (o % 16 / 4)
  else if 0x10800 ≤ o ∧ o < 0x10808 then .pba ((o - 0x10800) / 4)
  else if 0x11000 ≤ o ∧ o < 0x11100 then .modr ((o - 0x11000) / 4)
  else .none

/-- One word of a VF's BAR0 written (R282). -/
def vfWordWrite (s : State) (f o : Nat) (w : Word) : State :=
  match vfLoc o with
  | .ring r i =>
    match ringAt s r with
    | some x => if x.func = f ∧ i = 1 then ringCtlWrite s r w else s
    | none => s
  | .table v i => msixWrite s f v i w
  | .pba _ => s
  | .modr v => msixModWrite s f v w
  | .none => errStat s 0

/-- One word of a VF's BAR0 read (R282): the registers of a ring that another function owns read as zero. -/
def vfWordRead (s : State) (f o : Nat) : Nat × State :=
  match vfLoc o with
  | .ring r i => ((match ringAt s r with
    | some x => if x.func = f then ringRegs s r i else 0
    | none => 0), s)
  | .table v i => (msixWord (vecAt s f v) i, s)
  | .pba i => (pbaWord s f i, s)
  | .modr v => (msixMod (vecAt s f v), s)
  | .none => (0, errStat s 0)

/-- One aligned word of PF BAR0 written: a refusal by the matrix sets BAR0ERR (R283). -/
def pfWordWrite (s : State) (o : Nat) (w : Word) : State :=
  match bar0Addr o with
  | none => errStat s 0
  | some a =>
    let (c, s1) := regWrite (.host 0) a w s
    if c = .okay then s1 else hbErr s1 6

/-- One aligned word of PF BAR0 read: where the matrix refuses, zero and BAR0ERR (R283). -/
def pfWordRead (s : State) (o : Nat) : Nat × State :=
  match bar0Addr o with
  | none => (0, errStat s 0)
  | some a =>
    let (c, x, s1) := regRead (.host 0) a s
    if c = .okay then (x, s1) else (0, hbErr s1 6)

/-- One aligned word of a function's BAR0 written. -/
def barWordWrite (f : Nat) (s : State) (o : Nat) (w : Word) : State :=
  if f = 0 then pfWordWrite s o w else vfWordWrite s f o w

/-- One aligned word of a function's BAR0 read. -/
def barWordRead (f : Nat) (s : State) (o : Nat) : Nat × State := if f = 0 then pfWordRead s o else vfWordRead s f o

/-- Whether a function's BAR0 maps an offset (R7). -/
def barMapped (s : State) (f o : Nat) : Bool :=
  if f = 0 then (match bar0Addr o with
    | none => false
    | some a => regLoc s a != .unmapped)
  else vfLoc o != .none

/-- A write that is not whole aligned words is ignored: NARROW, and UNMAPPED where it touches an unmapped word (R7,
R257). -/
def barNarrow (s : State) (f o : Nat) (n : Nat) : State :=
  let ws := (List.range ((o + n + 3) / 4 - o / 4)).map (fun i => o / 4 * 4 + 4 * i)
  let s1 := errStat s 1
  if ws.all (fun o => barMapped s f o) then s1 else errStat s1 0

/-- A write to a function's BAR0 (R257, R283): one of more than 8 bytes goes word by word, and only the words that it
covers whole are written; a shorter one is whole words or ignored. -/
def barWrite (s : State) (f o : Nat) (bytes : List Byte) : State :=
  let n := bytes.length
  if n ≤ 8 ∧ (o % 4 ≠ 0 ∨ n % 4 ≠ 0) then barNarrow s f o n
  else
    let lo := (o + 3) / 4 * 4
    let k := (o + n) / 4 - lo / 4
    let s0 := if o % 4 = 0 then s else barNarrow s f o (min n (lo - o))
    let s1 := (List.range k).foldl (fun s i =>
      barWordWrite f s (lo + 4 * i) (BitVec.ofNat 32 (leNat (slice bytes (lo - o + 4 * i) 4)))) s0
    if (o + n) % 4 = 0 then s1 else barNarrow s1 f (lo + 4 * k) ((o + n) % 4)

/-- The words of a function's BAR0 from an aligned offset, read in ascending order. -/
def barReadWords (f : Nat) : Nat → Nat → State → List Byte × State
  | 0, _, s => ([], s)
  | n + 1, o, s =>
    let (x, s1) := barWordRead f s o
    let (bs, s2) := barReadWords f n (o + 4) s1
    (leBytes 4 x ++ bs, s2)

/-- A read of n bytes of a function's BAR0, which always completes successfully (R257, R283). -/
def barRead (s : State) (f o n : Nat) : State :=
  let (bs, s1) := barReadWords f ((o + n + 3) / 4 - o / 4) (o / 4 * 4) s
  { s1 with hb := { s1.hb with cpl := .ok (slice bs (o % 4) n) } }

/-- The debug access port makes an access of the matrix (R351): what a read returns stays in the TAP. It waits while the host
bridge holds a lock on the port that serves it (R264). -/
def dapAccess (s : State) (addr : Nat) (acc : HostAccess) : State :=
  if matLocked .jtag addr s then s
  else match acc with
  | .read n =>
    let (c, bs, s1) := matRead .jtag addr n s
    { s1 with jtag := { s1.jtag with
        dapData := bs
        dapCode := c } }
  | .write bs =>
    let (c, s1) := matWrite .jtag (addrBytes addr bs) s
    { s1 with jtag := { s1.jtag with dapCode := c } }

/-- A register access by a master: `addr` is a matrix address, or for a host function the offset in its BAR0. A read by
the host is answered with a completion, one by the debug access port stays in the TAP; of another master's read only its
effect on the registers shows here. -/
def registerAccess (s : State) (m : Master) (addr : Nat) (acc : HostAccess) : State :=
  if !masterReady s m then s
  else match m, acc with
  | .host f, .write bytes => dmaSettle (barWrite s f addr bytes)
  | .host f, .read n => barRead s f addr n
  | .jtag, acc => if isDevAddr addr then dapAccess s addr acc else s
  | m, .write bytes => if isDevAddr addr then matPut m (addrBytes addr bytes) s else s
  | m, .read n => if isDevAddr addr then (matRead m addr n s).2.2 else s

/-- A register access without a row of its own (R5, R7, R257, R282, R283). -/
def execRegisterWrite (m : Master) (addr : Nat) (acc : HostAccess) (s : State) : Host.Outcome State Fault Refusal :=
  .next (registerAccess s m addr acc)

/-- A word written to the register at a matrix address by a master; of the host's functions the PF alone reaches it
(R282), with BAR0ERR where the matrix refuses (R283). -/
def regCmd (s : State) (m : Master) (a : Nat) (w : Word) : State :=
  if !masterReady s m then s
  else match m with
  | .host 0 =>
    let (c, s1) := regWrite m a w s
    dmaSettle (if c = .okay then s1 else hbErr s1 6)
  | .host _ => s
  | _ => regPut m a w s

/-- PRIME_CTL written (R324, R326). -/
def execPrimeCtlGo (m : Master) (w : Word) (s : State) : Host.Outcome State Fault Refusal :=
  .next (regCmd s m 0x80000020 w)

/-- REMAP_CTL written (R255). -/
def execRemapCtl (m : Master) (w : Word) (s : State) : Host.Outcome State Fault Refusal :=
  .next (regCmd s m 0x80000040 w)

/-- ADM_CFG written (R287). -/
def execAdmCfg (m : Master) (w : Word) (s : State) : Host.Outcome State Fault Refusal :=
  .next (regCmd s m 0x80100030 w)

/-- STAGEBASE written, the low word first (R284). -/
def execStagebase (m : Master) (w : DWord) (s : State) : Host.Outcome State Fault Refusal :=
  .next (regCmd (regCmd s m 0x80100040 (w.truncate 32)) m 0x80100044 ((w >>> 32).truncate 32))

/-- A RING_CTL word written: by a VF only for a ring of its own (R282, R317). -/
def ringCtlCmd (s : State) (m : Master) (r : Nat) (w : Word) : State :=
  match m with
  | .host (f + 1) => if masterReady s m && decide (r < 4096) then vfWordWrite s (f + 1) (16 * r + 4) w else s
  | _ => if r < 4096 then regCmd s m (0x80110004 + 16 * r) w else s

/-- RING_CTL.RESUME (R317). -/
def execRingCtlResume (m : Master) (r : Nat) (s : State) : Host.Outcome State Fault Refusal := .next (ringCtlCmd s m r 1)

/-- Whether a master's write to RING_CTL of ring r reaches it: of the host's functions the PF's, and a VF's for a ring of
its own (R282). -/
def ringCtlReach (s : State) (m : Master) (r : Nat) : Bool :=
  masterReady s m && decide (r < 4096) && (match m with
    | .host (f + 1) => (ringAt s r).any (fun x => x.func == f + 1)
    | _ => true)

/-- RING_CTL.SKIP (R317); `tag` is the TAG of the descriptor passed over. -/
def execRingCtlSkip (m : Master) (r : Nat) (s : State) (tag : BitVec 16 := 0) : Host.Outcome State Fault Refusal :=
  .next (if ringCtlReach s m r then ringCtl s r false true tag else s)

/-- EASEL_CFG written (R135). -/
def execEaselCfg (m : Master) (w : Word) (s : State) : Host.Outcome State Fault Refusal :=
  .next (regCmd s m 0x80400010 w)

/-- EASEL_MARKACK stored by a vent (R128). -/
def execEaselMarkack (v : Nat) (migno : Word) (s : State) : Host.Outcome State Fault Refusal :=
  .next (regCmd s (.vent v) 0x80400100 migno)

/-- DCH_CTL.START (R271). -/
def execDchCtlStart (m : Master) (n : Nat) (s : State) : Host.Outcome State Fault Refusal :=
  .next (if n < 256 then regCmd s m (0x80900000 + 256 * n) 1 else s)

/-- DCH_CTL.ABORT (R276). -/
def execDchCtlAbort (m : Master) (n : Nat) (s : State) : Host.Outcome State Fault Refusal :=
  .next (if n < 256 then regCmd s m (0x80900000 + 256 * n) 2 else s)

/-- A bit of PWR_CALGATE written, the others as they stand (R364). -/
def calgateCmd (s : State) (m : Master) (c : Nat) (g : Bool) : State :=
  let b : BitVec 12 := 1 <<< c
  let w : BitVec 12 := if g then s.power.calgate ||| b else s.power.calgate &&& ~~~b
  regCmd s m 0x80C00010 (w.setWidth 32)

/-- PWR_CALGATE bit c set: the caldera is gated, or GATEREF is set (R364). -/
def execPwrCalgateGate (m : Master) (c : Nat) (s : State) : Host.Outcome State Fault Refusal := .next (calgateCmd s m c true)

/-- PWR_CALGATE bit c cleared: the caldera is powered again (R364). -/
def execPwrCalgatePower (m : Master) (c : Nat) (s : State) : Host.Outcome State Fault Refusal := .next (calgateCmd s m c false)

/-- A register of a vent's block written; no vent of that number has no register. -/
def ventCmd (s : State) (m : Master) (v o : Nat) (w : Word) : State :=
  if v < 96 then regCmd s m (ventReg v o) w else s

/-- VIN_CFG written (R154). -/
def execVinCfg (m : Master) (v : Nat) (w : Word) (s : State) : Host.Outcome State Fault Refusal := .next (ventCmd s m v 0x000 w)

/-- VIN_CONS written (R156). -/
def execVinCons (m : Master) (v : Nat) (w : Word) (s : State) : Host.Outcome State Fault Refusal := .next (ventCmd s m v 0x004 w)

/-- VCTL.RESET (R252). -/
def execVctlReset (m : Master) (v : Nat) (s : State) : Host.Outcome State Fault Refusal := .next (ventCmd s m v 0x128 1)

/-- VNMI.RAISE (R240). -/
def execVnmiRaise (m : Master) (v : Nat) (s : State) : Host.Outcome State Fault Refusal := .next (ventCmd s m v 0x11C 1)

/-- VINT_SET.MSG (R251). -/
def execVintSetMsg (m : Master) (v : Nat) (s : State) : Host.Outcome State Fault Refusal := .next (ventCmd s m v 0x108 0x80000)

/-- VINT_SET.SOFT (R251). -/
def execVintSetSoft (m : Master) (v : Nat) (s : State) : Host.Outcome State Fault Refusal := .next (ventCmd s m v 0x108 0x800000)

/-- VWDOG written (R241). -/
def execVwdog (m : Master) (v : Nat) (w : Word) (s : State) : Host.Outcome State Fault Refusal := .next (ventCmd s m v 0x118 w)

/-- A vent's pending TXTAKE request is performed (R58, R60). -/
def execTxtake (v : Nat) (s : State) : Host.Outcome State Fault Refusal := .next (txTakeDo s v)

/-- KC's scan of every key slot, once in each 10 ms of TIMEBASE (R61). -/
def execKeyScan (s : State) : Host.Outcome State Fault Refusal :=
  .next (
    if s.timebase.toNat / 10000000 ≤ s.store.scanned then s
    else
      let s1 := txFlush { s with store := { s.store with scanned := s.timebase.toNat / 10000000 } }
      s1.store.ctxs.foldl (fun s p => (List.range 6).foldl (fun s k => keyScanSlot s p.1 k) s) s1)

/-- The jobs a draining slot waits for are done, and its command proceeds (R60, R66). -/
def execDrainComplete (ctx slot : Nat) (s : State) : Host.Outcome State Fault Refusal := .next (drainDone s ctx slot)

/-- Every write of a DMA channel's descriptor has its OKAY (R271); a channel that its writes started fetches. -/
def execDescriptorComplete (n : Nat) (s : State) : Host.Outcome State Fault Refusal :=
  .next (dmaSettle (dmaComplete s n))

/-- A non-OKAY response to a burst or a descriptor fetch of a DMA channel (R276). -/
def execBusError (n : Nat) (what : DmaAccess) (code : RespCode) (s : State) : Host.Outcome State Fault Refusal :=
  .next (dmaSettle (dmaBusError s n what code))

/-- A DMA channel retries its failed burst, or halts (R276). -/
def execDmaRetry (n : Nat) (ok : Bool) (s : State) (last : Option RespCode := none) : Host.Outcome State Fault Refusal :=
  .next (dmaSettle (dmaRetryDo s n ok last))

/-- The fill of a paced channel's source changes (R275). -/
def execPacingFillChange (n : Nat) (s : State) : Host.Outcome State Fault Refusal := .next (paceChange s n)

end Sys2Proof.Machine
end

