-- ==== Sys2Proof/Machine/Lanes.lean ====
section
/-! DEFINITION. Lanes, links and references of the ports (R354 to R360, R366, R367), the I²C line checks (R353), and the JTAG
TAP (R349 to R351). -/

namespace Sys2Proof.Machine

/-! ### Lane faults -/

/-- The sub-port of a port whose lane group holds lane n. -/
def subOfLane (x : Port) (n : Nat) : Nat := n * brkCount x.brkout / 8

/-- A lane fault (R354): LANE_FAULT, POWER_ERR.LANEFAULT, and the sub-port that uses the lane goes down to fall back
(R355). -/
def laneFault (s : State) (p n : Nat) (short : Bool) : State :=
  let s1 := powerErr (postEvent s 0 5 3 (p * 256 + n * 2 ^ 10 + b2n short * 2 ^ 13)) 3
  let k := subOfLane (portAt s p) n
  if (usedLanes (portAt s p) k).testBit n then subDown s1 (8 * p + k) (if short then 2 else 1) else s1

/-- Bit n of a lane mask. -/
def laneBit (n : Nat) : Byte := (1 : Byte) <<< n

/-- A lane whose LOS has stayed clear for 100 ms returns (R4, R356). -/
def laneBack (s : State) (p n : Nat) : State :=
  if (portAt s p).losPend.getLsbD n ∧ fget 0 (portAt s p).losTick n + 100000000 ≤ s.timebase then
    retrainPort (updPort s p (fun x => { x with
      losPend := x.losPend &&& ~~~laneBit n
      losTick := fdel n x.losTick })) p
  else s

/-- An open receive lane is detected (R354). One that was to return by then has returned first (R4). -/
def execLossOfSignal (p n : Nat) (s : State) : Host.Outcome State Fault Refusal :=
  .next (
    if s.glob.phase ≠ .primed ∨ 4 ≤ p ∨ 8 ≤ n ∨ (portAt s p).los.getLsbD n then s
    else laneFault (updPort (laneBack s p n) p (fun x => { x with
      los := x.los ||| laneBit n
      losPend := x.losPend &&& ~~~laneBit n
      signal := x.signal &&& ~~~laneBit n })) p n false)

/-- A shorted transmit lane is disabled (R354). -/
def execTransmitShort (p n : Nat) (s : State) : Host.Outcome State Fault Refusal :=
  .next (
    if s.glob.phase ≠ .primed ∨ 4 ≤ p ∨ 8 ≤ n ∨ (portAt s p).txfault.getLsbD n then s
    else laneFault (updPort s p (fun x => { x with txfault := x.txfault ||| laneBit n })) p n true)

/-- Signal returns on an open receive lane: LOS clears and its 100 ms start (R356). -/
def execSignalRestored (p n : Nat) (s : State) : Host.Outcome State Fault Refusal :=
  .next (
    if 4 ≤ p ∨ 8 ≤ n ∨ ¬ (portAt s p).los.getLsbD n then s
    else updPort s p (fun x => { x with
      los := x.los &&& ~~~laneBit n
      losPend := x.losPend ||| laneBit n
      losTick := fset n s.timebase x.losTick
      signal := x.signal ||| laneBit n }))

/-- A lane's LOS has stayed clear (R356). -/
def execLosClear (p n : Nat) (s : State) : Host.Outcome State Fault Refusal := .next (laneBack s p n)

/-- PORT_LANECLR written (R356). -/
def execPortLaneclr (m : Master) (p : Nat) (w : Word) (s : State) : Host.Outcome State Fault Refusal :=
  .next (if p < 4 then regCmd s m (0x80A00014 + 0x1000 * p) w else s)

/-! ### Links -/

/-- What lets a sub-port train: the part is primed and not shut down, the references stand, no breakout change runs and
no tester holds the balls. -/
def canLink (s : State) (src : Nat) : Bool :=
  let x := portAt s (src / 8)
  s.glob.phase == .primed && !s.power.shut && !s.power.syslost && subExists s src && !x.reflost && x.newBrk.isNone &&
  !s.jtag.taken

/-- A sub-port completes training (R354, R355, R366): its lanes, polarity, FALLBACK where it uses fewer lanes than its
breakout gives it, and LINK_UP. -/
def linkUp (s : State) (src : Nat) (polinv : Byte) : State :=
  match subRun s src with
  | none => s
  | some (st, w) =>
    let k := src % 8
    let grp : Byte := BitVec.ofNat 8 (brkLanes (portAt s (src / 8)).brkout k)
    let s1 := updPort s (src / 8) (fun x => { x with
      link := x.link ||| laneBit k
      lanes := fset k (BitVec.ofNat 8 (runMask st w)) x.lanes
      signal := x.signal ||| (grp &&& ~~~x.los)
      polinv := (x.polinv &&& ~~~grp) ||| (polinv &&& grp) })
    let s2 := if runMask st w = grp.toNat then s1 else postEvent s1 0 5 4 (src * 256 + w * 2 ^ 14)
    postEvent s2 0 5 1 (src * 256)

/-- A sub-port links (R366). -/
def execLinkUp (src : Nat) (polinv : Byte) (s : State) : Host.Outcome State Fault Refusal :=
  .next (if canLink s src && !subUp s src then linkUp s src polinv else s)

/-- A sub-port loses its link partner (R366). -/
def execLinkDown (src : Nat) (s : State) : Host.Outcome State Fault Refusal := .next (subDown s src 0)

/-- A port reference is lost (R357). -/
def execReflost (p : Nat) (s : State) : Host.Outcome State Fault Refusal :=
  .next (
    if s.glob.phase = .reset ∨ 4 ≤ p ∨ (portAt s p).reflost then s
    else powerErr (postEvent (portDown (updPort s p (fun x => { x with reflost := true })) p 3) 0 5 5 (p * 256 + 2 ^ 10)) 2)

/-- A port reference has been stable for 10 ms (R357). -/
def execReferenceRestored (p : Nat) (s : State) : Host.Outcome State Fault Refusal :=
  .next (
    if (portAt s p).reflost then postEvent (updPort s p (fun x => { x with reflost := false })) 0 5 5 (p * 256) else s)

/-- SYSCLK is lost (R358). -/
def execSysclkLost (s : State) : Host.Outcome State Fault Refusal :=
  .next (
    if s.glob.phase = .reset ∨ s.power.syslost then s
    else
      let s1 := { s with power := { s.power with syslost := true, tbdrift := true } }
      powerErr (postEvent ((List.range 4).foldl (fun s p => portDown s p 3) s1) 0 6 3 256) 2)

/-- SYSCLK has been stable for 10 ms (R358). -/
def execSysclkRestored (s : State) : Host.Outcome State Fault Refusal :=
  .next (if s.power.syslost then postEvent { s with power := { s.power with syslost := false } } 0 6 3 0 else s)

/-- A port has reconfigured for a new breakout, and its PORT_SET completes (R367). FECDEG stays until a window that meets
neither of its conditions ends (R360). -/
def execBreakoutReconfigured (p : Nat) (s : State) : Host.Outcome State Fault Refusal :=
  .next (
    match (portAt s p).newBrk with
    | none => s
    | some (b, id) =>
      admEnd (updPort s p (fun x => { x with
        brkout := b
        newBrk := none
        lanes := [] })) id 0 0 0)

/-- A lane's eye height is measured below EYEMIN, at which the lane adapts at once, or at or above it again (R359). -/
def execImmediateAdaptation (p n : Nat) (height : Byte) (s : State) : Host.Outcome State Fault Refusal :=
  .next (
    if s.glob.phase ≠ .primed ∨ 4 ≤ p ∨ 8 ≤ n then s
    else updPort s p (fun x =>
      let e := fget 0x0C00 x.eye n
      { x with
          eye := fset n ((e &&& 0xFF00) ||| height.setWidth 16) x.eye
          eyelow := if height.toNat < wbits e 15 8 then x.eyelow ||| laneBit n else x.eyelow &&& ~~~laneBit n }))

/-- A 10 ms window ends (R360): `met` names the sub-ports that met a condition; each that enters or leaves posts its
event. -/
def execFecdegWindow (p : Nat) (met : Byte) (s : State) : Host.Outcome State Fault Refusal :=
  .next (
    if s.glob.phase ≠ .primed ∨ 4 ≤ p then s
    else
      let old := (portAt s p).fecdeg
      (List.range 8).foldl (fun s k =>
        if met.getLsbD k = old.getLsbD k then s
        else postEvent s 0 5 6 ((8 * p + k) * 256 + b2n (met.getLsbD k) * 2 ^ 14))
        (updPort s p (fun x => { x with fecdeg := met })))

/-! ### I²C line checks -/

/-- The MGMT event of an I²C master, with POWER_ERR.MGMT (R353, R366). -/
def mgmtEvent (s : State) (n : Nat) (disabled : Bool) : State :=
  powerErr (postEvent s 0 5 7 (n * 2 ^ 9 + b2n disabled * 2 ^ 11)) 4

/-- An I²C master is disabled by a stuck line (R353). -/
def i2cDisable (s : State) (n : Nat) : State :=
  mgmtEvent { s with mgmt := { s.mgmt with
    i2cEn := s.mgmt.i2cEn &&& ~~~((1 : BitVec 4) <<< n)
    i2cStuck := s.mgmt.i2cStuck ||| ((1 : BitVec 4) <<< n) } } n true

/-- What a check of an enabled master's lines does (R353). -/
def i2cCheck (s : State) (n : Nat) (o : LineObs) : State :=
  if !s.mgmt.i2cEn.getLsbD n then s
  else match o with
    | .free => s
    | .sclLow => i2cDisable s n
    | .sdaLow true => mgmtEvent s n false
    | .sdaLow false => i2cDisable s n

/-- An I²C master checks its lines (R353). -/
def execI2cLineCheck (n : Nat) (o : LineObs) (s : State) : Host.Outcome State Fault Refusal := .next (i2cCheck s n o)

/-- What a list of observations says of master n's lines: free where it says nothing. -/
def obsOf (os : List (Nat × LineObs)) (n : Nat) : LineObs := (ffind os n).getD .free

/-- MGMT_CTL.I2CRETRY written: the masters named are enabled again and check their lines at once (R353). -/
def execMgmtCtlI2cretry (m : Master) (w : Word) (os : List (Nat × LineObs)) (s : State) : Host.Outcome State Fault Refusal :=
  .next (
    if !masterReady s m || s.glob.phase != .primed || (match m with
      | .host f => f != 0
      | _ => false) then s
    else
      (List.range 4).foldl (fun s n => if w.getLsbD n && fget 0 s.mgmt.i2cSpeed n != 0 then i2cCheck s n (obsOf os n) else s)
        (regCmd s m 0x80A08004 w))

/-! ### JTAG -/

/-- The identification word of R349. -/
def idcode (s : State) : Word :=
  let c := (capsOf s.fuses.variant).getD 0 0
  BitVec.ofNat 32 (1 + 2 * Config.jedecCode.toNat + nbits c 15 0 * 2 ^ 12 + nbits c 27 24 * 2 ^ 28)

/-- An instruction is selected in the TAP, with the data register it puts between TDI and TDO, which captures. -/
def tapSelect (s : State) (op : Byte) (r : TapReg) (dr : Word) : State :=
  { s with jtag := { s.jtag with
      ir := op
      sel := r
      dr := dr
      bypassBit := false } }

/-- The boundary-scan cells capture the balls, or for IEEE 1149.6 what the lanes' test receivers detect, and take what
the tester
has shifted in (R349). -/
def tapCells (s : State) (caught shifted : List Bool) : State :=
  { s with jtag := { s.jtag with
      caught := caught
      cells := shifted } }

/-- An instruction that takes the balls from the logic (R350): the ports go down and the PCIe link drops. -/
def tapTake (s : State) (op : Byte) (r : TapReg) : State :=
  let s1 := (List.range 4).foldl (fun s p => portDown s p 0) (tapSelect s op r 0)
  { s1 with
      jtag := { s1.jtag with taken := true }
      hb := { s1.hb with linkup := false } }

/-- What the tester drives on the output balls (R349, IEEE 1149.1): the boundary-scan cells under EXTEST, CLAMP,
EXTEST_PULSE and EXTEST_TRAIN; nothing under HIGHZ or any other instruction. -/
def tapDrive (s : State) : Option (List Bool) :=
  if [0x00, 0x04, 0x08, 0x09].contains s.jtag.ir.toNat then some s.jtag.cells else none

/-- Whether an opcode acts as BYPASS (R349). -/
def actsBypass (op : Byte) : Bool := !([0x00, 0x01, 0x02, 0x04, 0x05, 0x08, 0x09, 0x10].contains op.toNat)

/-- JTAG_TRST_N resets the TAP, which then holds IDCODE (R349, IEEE 1149.1). -/
def execJtagTrstN (s : State) : Host.Outcome State Fault Refusal := .next (tapSelect s 0x01 .ident 0)

/-- EXTEST (R349, R350). -/
def execExtest (s : State) (caught shifted : List Bool := []) : Host.Outcome State Fault Refusal :=
  .next (tapCells (tapTake s 0x00 .boundary) caught shifted)
/-- IDCODE (R349). -/
def execIdcode (s : State) : Host.Outcome State Fault Refusal := .next (tapSelect s 0x01 .ident (idcode s))
/-- SAMPLE/PRELOAD leaves the part's operation undisturbed (R349). -/
def execSamplePreload (s : State) (caught shifted : List Bool := []) : Host.Outcome State Fault Refusal :=
  .next (tapCells (tapSelect s 0x02 .boundary 0) caught shifted)
/-- CLAMP (R349, R350). -/
def execClamp (s : State) : Host.Outcome State Fault Refusal := .next (tapTake s 0x04 .bypass)
/-- HIGHZ (R349, R350). -/
def execHighz (s : State) : Host.Outcome State Fault Refusal := .next (tapTake s 0x05 .bypass)
/-- EXTEST_PULSE (R349, R350). -/
def execExtestPulse (s : State) (caught shifted : List Bool := []) : Host.Outcome State Fault Refusal :=
  .next (tapCells (tapTake s 0x08 .boundary) caught shifted)
/-- EXTEST_TRAIN (R349, R350). -/
def execExtestTrain (s : State) (caught shifted : List Bool := []) : Host.Outcome State Fault Refusal :=
  .next (tapCells (tapTake s 0x09 .boundary) caught shifted)

/-- Whether the debug access port can halt or step a vent (R260, R351): the TAP selects it, the part is out of reset, and
the vent's caldera is fitted, powered and not sealed. -/
def dapVent (s : State) (v : Nat) : Bool :=
  masterReady s .jtag && decide (v < 96) && calFitted s (v / 8) && (calAt s (v / 8)).power == .on &&
  s.store.kemSealed != some (v / 8)

/-- DAP selects the debug access port (R349), which then halts and steps vents and masters port 24 (R351). -/
def execDap (s : State) (o : DapOp := .select) : Host.Outcome State Fault Refusal :=
  .next (match o with
    | .select => tapSelect s 0x10 .debug 0
    | .halt v => if dapVent s v then updVent s v (fun vt => { vt with halted := true, single := false }) else s
    | .go v => if dapVent s v then updVent s v (fun vt => { vt with halted := false, single := false }) else s
    | .single v => if dapVent s v then updVent s v (fun vt => { vt with halted := true, single := true }) else s
    | .access a acc => if masterReady s .jtag then dapAccess s a acc else s)

/-- BYPASS, and every opcode without an instruction of its own (R349). -/
def execBypass (s : State) (op : Byte := 0xFF) : Host.Outcome State Fault Refusal :=
  .next (if actsBypass op then tapSelect s op .bypass 0 else s)

end Sys2Proof.Machine
end

