-- ==== Sys2Proof/Machine/VentEvents.lean ====
section
/-! DEFINITION. What happens at a vent beside its operations: landings and responses (R157, R162, R165, R166, R237), holds
(R235), asynchronous entries (R230, R233), watchdog and timer (R241, R251), reset's end and release (R278, R324). -/

namespace Sys2Proof.Machine

/-- The list without its n-th element. -/
def dropNth {α : Type} (n : Nat) (l : List α) : List α := l.take n ++ l.drop (n + 1)

/-- The highest pending asynchronous event is taken at a boundary (R230, R233); none pending leaves the vent as it is. -/
def execAsyncEntry (v : Nat) (s : State) : Host.Outcome State Fault Refusal := .next (takeAsync s v)

/-- Fixed-delay loads that the next bundle reads are written (R157). -/
def execLoadLanding (v : Nat) (s : State) : Host.Outcome State Fault Refusal :=
  .next (updVent s v (fun vt => landLoads vt vt.fl.bno))

/-- A response that the port isolator absorbs (R278): the access was made, nothing is written. A read that its island has
accepted before its gating, or has ended, changes nothing else (R277). -/
def absorbFar (s : State) (v : Nat) (l : FarLoad) : State :=
  l.pieces.foldl (fun s p => if p.cache || p.accepted || p.ended then s
    else (matRead (ventMaster v) p.maddr p.len s).2.2) s

/-- The response to the n-th outstanding far or device-register load (R162, R237); its port has room again for DMA channels that
wait for it (R261). -/
def farResponse (s : State) (v n : Nat) : State :=
  match (ventAt s v).fl.far[n]? with
  | none => s
  | some l =>
    if farBlocked s v l then s
    else
      let s1 := updVent s v (fun vt => { vt with fl := { vt.fl with far := dropNth n vt.fl.far } })
      dmaSettle (if l.absorbed then absorbFar s1 v l else farLand s1 v l)

/-- A far or device-register load's response arrives (R162), too late for an island whose 10 µs of gating are over (R4,
R277). -/
def execFarLoadResponse (v n : Nat) (s : State) : Host.Outcome State Fault Refusal := .next (farResponse (domainLapse s) v n)

/-- The vent with the n-th outstanding long operation's results written (R162, R219). -/
def longLand (vt : Vent) (n : Nat) : Vent :=
  match vt.fl.longs[n]? with
  | none => vt
  | some l =>
    let vt1 := writeRegs l.writes vt
    { vt1 with
        vec := { vt1.vec with fpflags := vt1.vec.fpflags ||| l.flags.setWidth 32 }
        fl := { vt1.fl with longs := dropNth n vt1.fl.longs } }

/-- A non-resumable long operation writes its result (R165). -/
def execLongOperationComplete (v n : Nat) (s : State) : Host.Outcome State Fault Refusal :=
  .next (updVent s v (fun vt => longLand vt n))

/-- Whether the oldest store buffer entry must wait: for an older or equally old far load of the vent whose result it could
change (R144, R148), for a lock (R264), or for the 64 transactions of its port (R261). -/
def sbBlocked (s : State) (v : Nat) : Bool :=
  let fl := (ventAt s v).fl
  match fl.sbuf with
  | [] => true
  | x :: _ =>
    fl.far.any (fun l => !l.absorbed && decide (l.seq ≤ x.seq) && sbMeets x l) ||
    (if x.far then matLocked (ventMaster v) x.block s || !portRoom s v 1
      else matLocked (ventMaster v) (calBase (v / 8)) s)

/-- The oldest store buffer entry drains (R166). -/
def execStoreBufferDrain (v : Nat) (s : State) : Host.Outcome State Fault Refusal :=
  .next (if sbBlocked s v then s else sbDrain s v)

/-- The deferred-fault entry of a far store (R238). -/
def storeDefer (x : SbEntry) (code : RespCode) : DeferEntry :=
  { kind := deferKind code, store := true, level := x.level, addr := BitVec.ofNat 32 x.vaddr }

/-- The vent after the response to its oldest far write (R237, R145, R278). A far store of the last bundle of Narrow mode
whose response comes once the vent is Broad is reported as one of Broad mode, of which the spec says nothing
(notes/assumptions/11.md). -/
def farWriteLand (vt : Vent) : Vent :=
  match vt.fl.farWrites with
  | [] => vt
  | (c, x) :: r =>
    let vt1 : Vent := { vt with fl := { vt.fl with farWrites := r } }
    if c = .okay ∨ vt.isolating then vt1
    else
      let vt2 := deferAdd vt1 (storeDefer x c)
      if ventNarrow vt2 then { vt2 with fl := { vt2.fl with narrowFault := true } } else vt2

/-- The response to a drained far store buffer entry (R237), after the end of gatings whose 10 µs are over (R4, R277). -/
def execFarWriteResponse (v : Nat) (s : State) : Host.Outcome State Fault Refusal :=
  .next (dmaSettle (updVent (domainLapse s) v farWriteLand))

/-- DEFERQ.POP (R238); the register can be written at S and M alone (R180). -/
def execDeferqPop (v : Nat) (s : State) : Host.Outcome State Fault Refusal :=
  .next (updVent s v (fun vt => if ventLevel vt = 0 then vt else deferPop vt))

/-- HOLDCNT.COUNT reaches 0 (R235). -/
def execHoldExpiry (v : Nat) (s : State) : Host.Outcome State Fault Refusal :=
  .next (updVent s v (fun vt => { vt with hold := { vt.hold with count := 0 } }))

/-- The island's copy of TIMEBASE reaches VTIMECMP (R12, R251); before that tick nothing happens. -/
def execTimer (v : Nat) (s : State) : Host.Outcome State Fault Refusal :=
  let t := (ventAt s v).evt.timecmp
  .next (if t ≤ s.timebase ∧ (calAt s (islandOf v)).tbCopy < t then updCal s (islandOf v) (fun c => { c with tbCopy := t }) else s)

/-- The watchdog expires (R241). -/
def execWatchdog (v : Nat) (s : State) : Host.Outcome State Fault Refusal :=
  .next (if wdExpires s v then wdExpire s v else s)

/-- A reset vent leaves reset once its port isolator has absorbed every response (R278). -/
def execIsolationComplete (v : Nat) (s : State) : Host.Outcome State Fault Refusal :=
  .next (updVent s v (fun vt => if vt.fl.far.isEmpty && vt.fl.farWrites.isEmpty then ventBack s.timebase { vt with isolating := false } else vt))

/-- A held vent is released and fetches from VBOOT (R324). -/
def releaseVent (s : State) (v : Nat) : State :=
  updVent s v (fun vt => if vt.held then ventBack s.timebase { vt with held := false, pc := vt.evt.boot } else vt)

/-- The MV firmware releases a caldera's vents (R324, R75, R364): the caldera is on and not sealed. -/
def execVentRelease (c : Nat) (s : State) : Host.Outcome State Fault Refusal :=
  .next (
    if s.glob.phase = .primed ∧ calFitted s c ∧ (calAt s c).power = .on ∧ s.store.kemSealed ≠ some c then
      (List.range 8).foldl (fun s i => releaseVent s (8 * c + i)) s
    else s)

end Sys2Proof.Machine
end

