-- ==== Sys2Proof/Machine/AdmInfo.lean ====
section
/-! DEFINITION. Admin commands STATS_READ (R313), FW_STAGE with the replacement of calderas (R314, R334, R335), and DIAG
(R315, R352, R353). -/

namespace Sys2Proof.Machine

/-! ### STATS_READ -/

/-- The fields of a STATS_READ block (R313): WHAT, whether CLEAR may be 1, and the range of FIRST and COUNT. -/
def statsFields (ps : List Byte) (what range : Nat) (clear : Bool) : List (Bool × Nat) :=
  let a := pField ps 4 4
  let n := pField ps 8 4
  [(byteAt ps 0 != what, 0), (decide ((if clear then 1 else 0) < byteAt ps 1), 1), (decide (range < a + n), 4), (n == 0, 8)] ++
  rsvBytes ps 2 2 ++ rsvBytes ps 12 4

/-- STATS_READ, WHAT DROPS. -/
def execStatsReadDrops (d : AdmDesc) (p : Option (List Byte)) (s : State) : Host.Outcome State Fault Refusal :=
  let ps := admBlock p 16
  let a := pField ps 4 4
  let n := pField ps 8 4
  .next (admAccept s d p {
      opcode := 0x0F
      plen := 16
      returns := some true
      fields := statsFields ps 0 33 true
      need := some (512 * n) }
    (fun id s =>
      let bs := (List.range (64 * n)).flatMap (fun i => leBytes 8 (fget 0 s.path.drops (64 * a + i)).toNat)
      let s1 := admResult s d bs
      let s2 := if byteAt ps 1 = 1 then { s1 with path := { s1.path with
        drops := s1.path.drops.filter (fun q => decide (q.1 < 64 * a) || decide (64 * (a + n) ≤ q.1)) } } else s1
      admEnd s2 id 0 0 (512 * n)))

/-- STATS_READ, WHAT QUEUES. -/
def execStatsReadQueues (d : AdmDesc) (p : Option (List Byte)) (s : State) : Host.Outcome State Fault Refusal :=
  let ps := admBlock p 16
  let a := pField ps 4 4
  let n := pField ps 8 4
  let f := d.issuer.toNat
  .next (admAccept s d p {
      opcode := 0x0F
      plen := 16
      returns := some true
      vf := true
      denied := f != 0 && s.qm.queues.any (fun q => decide (a ≤ q.1) && decide (q.1 < a + n) && q.2.valid && q.2.tenant != f)
      fields := statsFields ps 1 1048576 false
      need := some (32 * n) }
    (fun id s =>
      let bs := (List.range n).flatMap (fun i => queueRecord s (a + i) (Config.freeNat (s.freeCtr + i)))
      admEnd (admResult { s with freeCtr := s.freeCtr + n } d bs) id 0 0 (32 * n)))

/-- A ring's record; an ID that has no ring has counted nothing. -/
def ringRecord (s : State) (r : Nat) : List Byte := match ringAt s r with
  | some x => leBytes 8 x.entries.toNat ++ leBytes 8 x.bytes.toNat ++ leBytes 4 x.halts.toNat ++ List.replicate 12 0
  | none => List.replicate 32 0

/-- STATS_READ, WHAT RINGS. -/
def execStatsReadRings (d : AdmDesc) (p : Option (List Byte)) (s : State) : Host.Outcome State Fault Refusal :=
  let ps := admBlock p 16
  let a := pField ps 4 4
  let n := pField ps 8 4
  let f := d.issuer.toNat
  .next (admAccept s d p {
      opcode := 0x0F
      plen := 16
      returns := some true
      vf := true
      denied := f != 0 && s.hb.rings.any (fun q => decide (a ≤ q.1) && decide (q.1 < a + n) && q.2.func != f)
      fields := statsFields ps 2 4096 true
      need := some (32 * n) }
    (fun id s =>
      let s1 := admResult s d ((List.range n).flatMap (fun i => ringRecord s (a + i)))
      let s2 := if byteAt ps 1 = 1 then { s1 with hb := { s1.hb with rings := s1.hb.rings.map (fun q =>
        if a ≤ q.1 ∧ q.1 < a + n then (q.1, { q.2 with entries := 0, bytes := 0, halts := 0 }) else q) } } else s1
      admEnd s2 id 0 0 (32 * n)))

/-- STATS_READ, WHAT GLAZE. -/
def execStatsReadGlaze (d : AdmDesc) (p : Option (List Byte)) (s : State) : Host.Outcome State Fault Refusal :=
  let ps := admBlock p 16
  .next (admAccept s d p {
      opcode := 0x0F
      plen := 16
      returns := some true
      fields := [(byteAt ps 0 != 3, 0), (decide (1 < byteAt ps 1), 1)] ++ rsvBytes ps 2 2 ++ [(pField ps 4 4 != 0, 4),
        (pField ps 8 4 != 0, 8)] ++ rsvBytes ps 12 4
      need := some 64 }
    (fun id s =>
      let all (m : FMap DWord) : List Byte := (List.range 4).flatMap (fun i => leBytes 8 (fget 0 m i).toNat)
      let s1 := admResult s d (all s.glaze.late ++ all s.glaze.dummy)
      let s2 := if byteAt ps 1 = 1 then { s1 with glaze := { s1.glaze with late := [], dummy := [] } } else s1
      admEnd s2 id 0 0 64))

/-! ### FW_STAGE -/

/-- The fields of FW_STAGE with OP 0 or 1 (R314, R334). -/
def stageFields (s : State) (ps : List Byte) (op : Nat) : List (Bool × Nat) :=
  let a := pField ps 8 8
  let n := pField ps 16 4
  [(byteAt ps 0 != op, 0),
   (a % 4096 != 0 || decide (a < hbmBase) || decide (hbmBase + hbmSize s ≤ a) || decide (hbmBase + hbmSize s < a + n), 8)] ++
  rsvBytes ps 1 7 ++ rsvBytes ps 20 4

/-- What refuses the image at an HBM address (R331 steps 2 to 7): its FAIL code. -/
def stageRefusal (s : State) (a : Nat) : Option Nat :=
  let i := imageAt s a
  (imageCheck s i (decide (i.len ≤ 64 * 1024 * 1024))).map (fun x => x.1)

/-- A verification ends command id: DEVERR where the image cannot be read, its DETAIL left open; REJECTED; or `go`. -/
def stageVerify (s : State) (id a n : Nat) (more : Option Nat) (go : State → State) : State :=
  let r := matRead .mv a n s
  if r.1 ≠ .okay then
    let (x, s1) := drawFree r.2.2
    admFail s1 id 9 (x % 65536)
  else match stageRefusal s a with
    | some k => admFail s id 8 k
    | none => match more with
      | some k => admFail s id 8 k
      | none => go s

/-- FW_STAGE, OP CHECK (R334), accepted once no lock holds a port that the image's read needs (R264). -/
def execFwStageCheck (d : AdmDesc) (p : Option (List Byte)) (s : State) : Host.Outcome State Fault Refusal :=
  let ps := admBlock p 24
  .next (if spanLocked .mv (pField ps 8 8) (pField ps 16 4) s then s else admAccept s d p {
      opcode := 0x11
      plen := 24
      alone := true
      fields := stageFields s ps 0 }
    (fun id s => stageVerify s id (pField ps 8 8) (pField ps 16 4) none (fun s => admEnd s id 0 0 0)))

/-- Whether a reservation holds only one included caldera (R335). -/
def reserveThin (s : State) : Bool :=
  s.easel.reserves.any (fun p => ((bitList 12 p.2.cals.toNat).filter (fun c => !s.easel.excl.getLsbD c)).length == 1)

/-- FW_STAGE, OP APPLY (R334, R335): a verified image whose MV and KEYWORK sections are the Priming image's comes into
force, and the calderas are replaced one by one. It is accepted as CHECK is. -/
def execFwStageApply (d : AdmDesc) (p : Option (List Byte)) (s : State) : Host.Outcome State Fault Refusal :=
  let ps := admBlock p 24
  let a := pField ps 8 8
  let n := pField ps 16 4
  .next (if spanLocked .mv a n s then s else admAccept s d p {
      opcode := 0x11
      plen := 24
      alone := true
      fields := stageFields s ps 1
      check := if s.easel.constrain.isSome ∨ reserveThin s then some (2, 0, 0) else none }
    (fun id s =>
      let i := imageAt s a
      stageVerify s id a n (if mvDigests s i = s.glob.mvDigs then none else some 16) (fun s =>
        fwNext { s with
          adm := { s.adm with fw := some { cmd := id, addr := a, len := n, svn := i.svn, dig := imageDigest s i } }
          glob := { s.glob with sections := calSections s i } })))

/-- The last present caldera has been replaced: APPLIED, APPSVN, and the command completes (R335). -/
def fwEnd (s : State) (f : FwJob) : State :=
  let s1 := { s with
    adm := { s.adm with fw := none }
    easel := { s.easel with draining := 0 }
    glob := { s.glob with
      applied := true
      appSvn := BitVec.ofNat 7 f.svn
      appImg := f.dig } }
  admEnd s1 f.cmd 0 0 0

/-- R335 steps 2 to 4 on a drained caldera; its DMA channels that are under way halt with cause RESET (R278, R279). -/
def replaceCal (s : State) (c : Nat) : State :=
  let s1 := (List.range 8).foldl (fun s i => resetVent s (8 * c + i)) (dmaHaltCal s c 11)
  (List.range 8).foldl (fun s i => releaseVent s (8 * c + i)) (loadSections s1 c)

/-- The next caldera of an APPLY is replaced once it is drained (R335); one that is gated takes its sections when it is
powered (R364). The loading of its memory waits for a lock on its port (R264). -/
def execCalderaReplace (c : Nat) (s : State) : Host.Outcome State Fault Refusal :=
  .next (
    match s.adm.fw with
    | none => s
    | some f =>
      let next := (List.range (nCals s)).find? (fun c => !f.done.contains c)
      let on := (calAt s c).power == .on
      if next ≠ some c ∨ s.store.kemSealed.isSome ∨ ¬ ((on && drained s c) || (calAt s c).power == .off) ∨
          (on ∧ matLocked .mv (calBase c) s) then s
      else
        let f1 := { f with done := f.done ++ [c] }
        let s1 := if on then replaceCal s c else s
        let s2 := { s1 with adm := { s1.adm with fw := some f1 } }
        if f1.done.length = nCals s then fwEnd s2 f1 else fwNext s2)

/-- SVN fuses burnt, lowest clear bit first, until n are set (R334). -/
def burnSvn : Nat → Nat → BitVec 64 → BitVec 64
  | 0, _, w => w
  | f + 1, n, w =>
    if n ≤ popCount 64 w.toNat then w
    else match (List.range 64).find? (fun i => !w.getLsbD i) with
      | some i => burnSvn f n (w ||| (1 <<< i))
      | none => w

/-- FW_STAGE, OP RAISE_SVN (R334). -/
def execFwStageRaiseSvn (d : AdmDesc) (p : Option (List Byte)) (s : State) : Host.Outcome State Fault Refusal :=
  let ps := admBlock p 24
  .next (admAccept s d p {
      opcode := 0x11
      plen := 24
      alone := true
      fields := [(byteAt ps 0 != 2, 0), (pField ps 8 8 != 0, 8), (pField ps 16 4 != 0, 16)] ++ rsvBytes ps 1 7 ++ rsvBytes ps 20 4 }
    (fun id s => admEnd { s with fuses := { s.fuses with svn := burnSvn 64 s.glob.runSvn.toNat s.fuses.svn } } id 0 0 0))

/-! ### DIAG -/

/-- The fields of an I²C command (R315): OP, the most bytes, whether it writes. -/
def i2cFields (ps : List Byte) (op most : Nat) (write : Bool) : List (Bool × Nat) :=
  let n := pField ps 8 2
  [(byteAt ps 0 != op, 0), (decide (3 < byteAt ps 1), 1), (decide (127 < byteAt ps 2), 2), (decide (1 < byteAt ps 3), 3),
   (byteAt ps 3 == 0 && byteAt ps 5 != 0, 4), (n == 0 || decide (most < n), 8)] ++
  rsvBytes ps 6 2 ++ rsvBytes ps 10 6 ++ (if write then [] else rsvBytes ps 16 16)

/-- An I²C transfer of command id ends as the bus lets it (R315, R353). -/
def i2cEnd (s : State) (id n : Nat) (o : I2cEnd) (x : MgmtXfer) (ok : State → State) : State :=
  if !s.mgmt.i2cEn.getLsbD n then admFail s id 9 3
  else
    let s1 := { s with mgmt := { s.mgmt with out := some x } }
    match o with
    | .done => ok s1
    | .nak => admFail s1 id 9 1
    | .lostArb => admFail s1 id 9 2
    | .stuck released => admFail (if released then mgmtEvent s1 n false else i2cDisable s1 n) id 9 2

/-- The transfer that an I²C command asks for. -/
def i2cXfer (ps : List Byte) (data : Option (List Byte)) : MgmtXfer :=
  { bus := byteAt ps 1
    dev := byteAt ps 2
    wide := byteAt ps 3 == 1
    reg := pField ps 4 2
    data := data }

/-- DIAG, OP I2C_READ. -/
def execDiagI2cRead (d : AdmDesc) (p : Option (List Byte)) (o : I2cEnd) (rx : List Byte) (s : State) :
    Host.Outcome State Fault Refusal :=
  let ps := admBlock p 32
  let n := pField ps 8 2
  .next (admAccept s d p {
      opcode := 0x12
      plen := 32
      returns := some true
      fields := i2cFields ps 0 256 false
      need := some n
      objs := [.i2c (byteAt ps 1)] }
    (fun id s => i2cEnd s id (byteAt ps 1) o (i2cXfer ps none) (fun s => admEnd (admResult s d (fit rx n)) id 0 0 n)))

/-- DIAG, OP I2C_WRITE. -/
def execDiagI2cWrite (d : AdmDesc) (p : Option (List Byte)) (o : I2cEnd) (s : State) : Host.Outcome State Fault Refusal :=
  let ps := admBlock p 32
  let n := pField ps 8 2
  .next (admAccept s d p {
      opcode := 0x12
      plen := 32
      fields := i2cFields ps 1 16 true
      objs := [.i2c (byteAt ps 1)] }
    (fun id s => i2cEnd s id (byteAt ps 1) o (i2cXfer ps (some (slice ps 16 n))) (fun s => admEnd s id 0 0 0)))

/-- The fields of an MDIO command (R315); Clause 45 addresses have five bits. -/
def mdioFields (ps : List Byte) (op : Nat) (write : Bool) : List (Bool × Nat) :=
  [(byteAt ps 0 != op, 0), (decide (1 < byteAt ps 1), 1), (decide (31 < byteAt ps 2), 2), (decide (31 < byteAt ps 6), 6)] ++
  rsvBytes ps 3 1 ++ rsvBytes ps 7 9 ++ (if write then rsvBytes ps 18 14 else rsvBytes ps 16 16)

/-- The transfer that an MDIO command asks for. -/
def mdioXfer (ps : List Byte) (data : Option (List Byte)) : MgmtXfer :=
  { mdio := true
    bus := byteAt ps 1
    dev := byteAt ps 2
    reg := pField ps 4 2
    devad := byteAt ps 6
    data := data }

/-- An MDIO transfer of command id: a disabled master ends it (R315). -/
def mdioEnd (s : State) (id n : Nat) (x : MgmtXfer) (ok : State → State) : State :=
  if s.mgmt.mdioEn.getLsbD n then ok { s with mgmt := { s.mgmt with out := some x } } else admFail s id 9 3

/-- DIAG, OP MDIO_READ: `rx` is what the line gives. -/
def execDiagMdioRead (d : AdmDesc) (p : Option (List Byte)) (rx : BitVec 16) (s : State) : Host.Outcome State Fault Refusal :=
  let ps := admBlock p 32
  .next (admAccept s d p {
      opcode := 0x12
      plen := 32
      returns := some true
      fields := mdioFields ps 2 false
      need := some 2
      objs := [.mdio (byteAt ps 1)] }
    (fun id s => mdioEnd s id (byteAt ps 1) (mdioXfer ps none) (fun s => admEnd (admResult s d (leBytes 2 rx.toNat)) id 0 0 2)))

/-- DIAG, OP MDIO_WRITE. -/
def execDiagMdioWrite (d : AdmDesc) (p : Option (List Byte)) (s : State) : Host.Outcome State Fault Refusal :=
  let ps := admBlock p 32
  .next (admAccept s d p {
      opcode := 0x12
      plen := 32
      fields := mdioFields ps 3 true
      objs := [.mdio (byteAt ps 1)] }
    (fun id s => mdioEnd s id (byteAt ps 1) (mdioXfer ps (some (slice ps 16 2))) (fun s => admEnd s id 0 0 0)))

end Sys2Proof.Machine
end

