-- ==== Sys2Proof/Machine/AdmQueues.lean ====
section
/-! DEFINITION. QUEUE_CREATE and QUEUE_DESTROY (R94, R95, R310, R311). -/

namespace Sys2Proof.Machine

/-- MSI-X vectors of a function (R298). -/
def vecCount (f : Nat) : Nat := if f = 0 then 2048 else 64

/-- The ring fields of a creation: RBASE, LOG, VEC, NOSNOOP. -/
def ringFields (ps : List Byte) (f : Nat) : List (Bool × Nat) :=
  let v := pField ps 34 2
  [(pField ps 16 8 % 4096 != 0, 16), (decide (byteAt ps 32 < 6) || decide (16 < byteAt ps 32), 32),
   (v != 0xFFFF && decide (vecCount f ≤ v), 34), (decide (1 < byteAt ps 36), 36)]

/-- The ring that a creation describes. -/
def newRing (ps : List Byte) (f : Nat) (k : RingKind) : Ring :=
  let v := pField ps 34 2
  { kind := k
    func := f
    log := byteAt ps 32
    rbase := BitVec.ofNat 64 (pField ps 16 8)
    bbase := BitVec.ofNat 64 (if k = .tohost then pField ps 24 8 else 0)
    blog := if k = .tohost then byteAt ps 33 else 11
    vec := if v = 0xFFFF then none else some v
    nosnoop := byteAt ps 36 == 1 }

/-- QUEUE_CREATE, OP QUEUE (R94): Easel alone writes SPILLTH afterwards (R100, R133). -/
def execQueueCreateQueue (d : AdmDesc) (p : Option (List Byte)) (s : State) : Host.Outcome State Fault Refusal :=
  let ps := admBlock p 64
  let f := d.issuer.toNat
  let k := byteAt ps 1
  let sub := byteAt ps 2
  let q := pField ps 4 4
  let lim := pField ps 12 2
  let ring := if k = 2 then ringFields ps f ++ [(pField ps 24 8 % 4096 != 0, 24), (decide (byteAt ps 33 < 11) || decide (14 < byteAt ps 33), 33)]
    else rsvBytes ps 16 21
  .next (admAccept s d p {
      opcode := 0x09
      plen := 64
      vf := true
      fields := [(byteAt ps 0 != 0, 0), (decide (2 < k), 1), (k == 2 && decide (4095 < q), 1), (k != 2 && decide (31 < sub), 2),
        (decide (q < 2) || decide (1048575 < q), 4), (k == 1 && decide (1023 < pField ps 8 2), 8), (decide (4095 < pField ps 10 2), 10),
        (lim == 0, 12)] ++ rsvBytes ps 3 1 ++ rsvBytes ps 14 2 ++ rsvBytes ps 37 27 ++ ring
      absent := k == 1 && !hasGlaze s
      objs := [.queue q]
      check :=
        if (queueAt s q).valid ∨ (ringAt s q).isSome then some (1, 4, 0)
        else if k = 0 ∧ ¬ subExists s sub then some (1, 2, 0)
        else none }
    (fun id s =>
      let x : Queue := { valid := true, dkind := k, subport := if k = 2 then 0 else sub, gchan := if k = 1 then pField ps 8 2 else 0,
                         wprof := pField ps 10 2, tenant := f, limit := lim, spillth := min lim 16 }
      let s1 := storeQueue { s with qm := { s.qm with queues := fset q x s.qm.queues } } q
      admEnd (if k = 2 then setRing s1 q (newRing ps f .tohost) else s1) id 0 0 0))

/-- QUEUE_CREATE, OP RING (R310). -/
def execQueueCreateRing (d : AdmDesc) (p : Option (List Byte)) (s : State) : Host.Outcome State Fault Refusal :=
  let ps := admBlock p 64
  let f := d.issuer.toNat
  let k := byteAt ps 1
  let q := pField ps 4 4
  .next (admAccept s d p {
      opcode := 0x09
      plen := 64
      vf := true
      fields := [(byteAt ps 0 != 2, 0), (decide (1 < k), 1), (decide (q < 2) || decide (4095 < q), 4)] ++ ringFields ps f ++
        rsvBytes ps 2 2 ++ rsvBytes ps 8 8 ++ rsvBytes ps 24 8 ++ rsvBytes ps 33 1 ++ rsvBytes ps 37 27
      objs := [.queue q]
      check :=
        if (ringAt s q).isSome ∨ (queueAt s q).valid then some (1, 4, 0)
        else if k = 1 ∧ (eventRing s f).isSome then some (1, 1, 0)
        else none }
    (fun id s =>
      let s1 := setRing s q (newRing ps f (if k = 0 then .fromhost else .event))
      admEnd (if k = 1 then flushEvents s1 f else s1) id 0 0 0))

/-- A queue ends (R95), its context in HBM alone from then on: its frames are counted in DROP_FLUSH, its segments are free. -/
def flushQueue (s : State) (q : Nat) : State :=
  let s1 := leaveNode s q
  let x := queueAt s1 q
  let s2 := { s1 with qm := { s1.qm with
    queues := fdel q s1.qm.queues
    cache := s1.qm.cache.filter (· != q)
    segUsed := s1.qm.segUsed.filter (fun k => !(x.segs.any (fun g => g.1 == k))) } }
  storeQueue ((queueFrames x).foldl (fun s n => dropFrame s n 32) s2) q

/-- A ring ends (R311): an EVENT ring's held events are discarded. -/
def endRing (s : State) (r : Nat) : State :=
  match ringAt s r with
  | none => s
  | some x => (fun s => if x.kind = .event then updFunc s x.func (fun f => { f with held := [] }) else s) (delRing s r)

/-- A queue and the ring of its ID end. -/
def destroyQueue (s : State) (q : Nat) : State := endRing (if (queueAt s q).valid then flushQueue s q else s) q

/-- QUEUE_DESTROY (R95, R311). -/
def execQueueDestroy (d : AdmDesc) (p : Option (List Byte)) (s : State) : Host.Outcome State Fault Refusal :=
  let ps := admBlock p 8
  let q := pField ps 0 4
  let f := d.issuer.toNat
  let x := queueAt s q
  let owner := if x.valid then some x.tenant else (ringAt s q).map (fun r => r.func)
  .next (admAccept s d p {
      opcode := 0x0A
      plen := 8
      vf := true
      denied := f != 0 && owner.any (fun o => o != f)
      fields := [(decide (q < 2) || decide (1048575 < q), 0)] ++ rsvBytes ps 4 4
      objs := [.queue q]
      check := if owner.isNone then some (1, 0, 0) else none }
    (fun id s => admEnd (destroyQueue s q) id 0 0 0))

end Sys2Proof.Machine
end

