-- ==== Sys2Proof/Machine/HostLink.lean ====
section
/-! DEFINITION. The host bridge: link, resets and functions (R280, R318 to R320, R346), MSI-X (R298), doorbells (R289),
BAR4 (R284, R285) and AtomicOps (R264, R283). -/

namespace Sys2Proof.Machine

/-! ### Link and functions -/

/-- Whether a function exists: the PF, or a VF that is enabled. -/
def funcOn (s : State) (f : Nat) : Bool := decide (f ≤ s.hb.numvf)

/-- Whether the host can configure the functions (R322): until HOSTWAIT is set the host bridge answers configuration
requests with Configuration Request Retry Status. -/
def cfgOpen (s : State) : Bool := s.glob.phase != .reset && s.glob.cfgReady

/-- What a function's requests waited for may have ended (R318, R320): a SKIP that waited moves its ring on, key work's
results, held events and MSI-X messages go out (R297, R298). -/
def funcResume (s : State) (f : Nat) : State :=
  let s1 := (s.hb.rings.filter (fun p => p.2.func == f)).foldl (fun s p => ringSkipDue s p.1) s
  let s2 := if f = 0 then runWork s1 else s1
  msixReleaseAll (flushEvents s2 f) f

/-- A speed code and width that the link can settle at (R280): 64 GT/s runs in Flit mode. -/
def linkForm (speed width : Nat) (flit : Bool) : Bool :=
  decide (1 ≤ speed) && decide (speed ≤ 6) && [1, 2, 4, 8, 16].contains width && (flit || speed != 6)

/-- The link comes up with a speed and width that PCIe has (R280, R320), while PCIE_PERST_N is high (R346). -/
def execPcieLinkUp (speed width : Nat) (flit ari : Bool) (s : State) : Host.Outcome State Fault Refusal :=
  .next (
    if s.glob.phase = .reset ∨ s.jtag.taken ∨ ¬ s.balls.perstN ∨ ¬ linkForm speed width flit then s
    else
      (List.range 64).foldl funcResume { s with hb := { s.hb with
        linkup := true
        speed := BitVec.ofNat 3 speed
        width := BitVec.ofNat 5 width
        flit := flit
        ari := ari } })

/-- The link goes down (R320). -/
def execPcieLinkDown (s : State) : Host.Outcome State Fault Refusal := .next { s with hb := { s.hb with linkup := false } }

/-- The rings of a function end, as QUEUE_DESTROY ends them (R319): a TOHOST ring takes its queue with it. -/
def endRings (s : State) (f : Nat) : State :=
  ((s.hb.rings.filter (fun p => p.2.func == f)).map (fun p => p.1)).foldl destroyQueue s

/-- A function is reset (R319): rings, MSI-X table, moderation, and what PCIe resets in it. -/
def resetFunc (s : State) (f : Nat) : State :=
  let s1 := updFunc (endRings s f) f (fun x => { x with
    bme := false
    d3hot := false
    msixEn := false
    msixMask := false })
  { s1 with hb := { s1.hb with vecs := s1.hb.vecs.filter (fun p => p.1 / 2048 != f) } }

/-- FLR of a VF (R319). -/
def execVfFlr (f : Nat) (s : State) : Host.Outcome State Fault Refusal :=
  .next (if cfgOpen s ∧ 1 ≤ f ∧ funcOn s f then resetFunc s f else s)

/-- PF FLR or hot reset (R319); a lock of the host bridge is released (R278, R279). -/
def resetHost (s : State) : State :=
  let s1 := (List.range 64).foldl resetFunc s
  { s1 with
      mx := { s1.mx with locks := [] }
      hb := { s1.hb with
        numvf := 0
        cfg := s1.hb.cfg &&& 0xFFF7FF
        stagebase := 0x0100_0000
        hwin := [] }
      adm := { s1.adm with
        stopped := false
        closing := false
        cmds := s1.adm.cmds.map (fun c => { c with discard := true }) } }

/-- FLR of the PF, or a hot reset (R319); DMA channels that waited for the lock go on (R279). An FLR is a configuration
request, which is retried before HOSTWAIT (R322); a hot reset is the link's own, and waits for nothing but the release. -/
def execPfFlr (s : State) (hot : Bool := false) : Host.Outcome State Fault Refusal :=
  .next (if cfgOpen s || (hot && s.glob.phase != .reset) then dmaSettle (resetHost s) else s)

/-- PCIE_PERST_N is asserted (R346): a hot reset, and the link is down while it is low; or it is driven high again. -/
def execPciePerstN (s : State) (asserted : Bool := true) : Host.Outcome State Fault Refusal :=
  let s0 := { s with balls := { s.balls with perstN := !asserted } }
  .next (
    if !asserted || s.glob.phase == .reset then s0
    else
      let s1 := resetHost s0
      dmaSettle { s1 with hb := { s1.hb with linkup := false } })

/-- A function's Bus Master Enable changes (R318), with its power state: D0 or D3hot (R280). -/
def execBusMasterEnable (f : Nat) (on : Bool) (s : State) (d3hot : Bool := false) : Host.Outcome State Fault Refusal :=
  .next (if cfgOpen s ∧ funcOn s f then funcResume (updFunc s f (fun x => { x with bme := on, d3hot := d3hot })) f else s)

/-- The host enables n VFs (R280); more than 7 need ARI. -/
def execVfEnable (n : Nat) (s : State) : Host.Outcome State Fault Refusal :=
  .next (if cfgOpen s ∧ n ≤ 63 ∧ (n ≤ 7 ∨ s.hb.ari) then { s with hb := { s.hb with numvf := n } } else s)

/-- The class code of the PF (R281), as a configuration read returns it: byte 0 is its programming interface. -/
def classCode : Nat := 0x108000

/-- The Device ID of function f (R281). -/
def deviceId (s : State) (f : Nat) : Nat :=
  (match s.fuses.variant with
    | .sz1600A | .sz1600X => 0x1600
    | .sz1200A => 0x1200
    | .sz0800A => 0x0800) + b2n (decide (f ≠ 0))

/-- The Device ID and the Vendor ID of function f, as one word (R281). -/
def idWord (s : State) (f : Nat) : Word := BitVec.ofNat 32 (deviceId s f * 2 ^ 16 + Config.vendorId.toNat)

/-- The capability structures that the table of R280 names. -/
inductive PcieCap where
  | sriov | ari | aer | powerManagement | tags10 | atomicCompleter | msix | ats | pri | pasid | tph | ide | resizableBar
deriving DecidableEq, Repr

/-- Whether a capability structure is present (R280): one of a feature that the table does not list is absent. -/
def PcieCap.present : PcieCap → Bool
  | .ats | .pri | .pasid | .tph | .ide | .resizableBar => false
  | _ => true

/-! ### MSI-X -/

/-- Whether function f has vector v (R298). -/
def vecOn (s : State) (f v : Nat) : Bool := funcOn s f && decide (v < vecCount f)

/-- A vector is unmasked by its Mask bit, its function's Function Mask, or MSI-X Enable (R298). -/
def execMsixUnmask (f v : Nat) (how : Unmask) (s : State) : Host.Outcome State Fault Refusal :=
  .next (
    if !cfgOpen s || !vecOn s f v then s
    else match how with
      | .vectorMask => msixRelease (updVec s f v (fun x => { x with mask := false })) f v
      | .functionMask => msixReleaseAll (updFunc s f (fun x => { x with msixMask := false })) f
      | .enable => msixReleaseAll (updFunc s f (fun x => { x with msixEn := true })) f)

/-- The time of a vector's first pending entry is over (R298). -/
def execMsixTimeout (f v : Nat) (s : State) : Host.Outcome State Fault Refusal :=
  .next (if vecOn s f v ∧ msixDue s f v then msixFire s f v else s)

/-- A read of host memory fails for want of a completion (R281, R285); one that a host window sent is answered ERROR
(R286). -/
def execHostReadTimeout (addr : DWord) (s : State) (window : Bool := false) : Host.Outcome State Fault Refusal :=
  let s1 := aerSet (hostReadFail s addr.toNat) 14
  .next (if window then { s1 with hb := { s1.hb with failing := some addr.toNat } } else s1)

/-! ### Doorbells -/

/-- Whether a ring's producer index is the host's (R288). -/
def hostProduced (k : RingKind) : Bool := k == .admsq || k == .fromhost

/-- A doorbell of the right form for ring r with INDEX n (R289). -/
def ringBell (s : State) (r n : Nat) (x : Ring) : State :=
  let sz := 2 ^ x.log
  let at_ := (n + sz - x.cons) % sz
  if sz ≤ n then hbErr s 0
  else if hostProduced x.kind then (if at_ < ringFill x then hbErr s 0 else setRing s r { x with prod := n })
  else if ringFill x < at_ then hbErr s 0
  else
    let s1 := setRing s r { x with cons := n }
    if x.kind = .event then flushEvents s1 x.func else s1

/-- A write to a function's BAR2 (R289). -/
def execDoorbell (f off : Nat) (bytes : List Byte) (s : State) : Host.Outcome State Fault Refusal :=
  .next (
    if !masterReady s (.host f) || decide (0x10000 ≤ off) then s
    else if bytes.length ≠ 8 ∨ off % 8 ≠ 0 then hbErr s 1
    else match ringAt s (off / 8) with
      | none => hbErr s 0
      | some x => if 0x8000 ≤ off ∨ x.func ≠ f then hbErr s 0 else ringBell s (off / 8) (leNat bytes) x)

/-! ### BAR4 -/

/-- A completion for the host; one that is an abort or an Unsupported Request sets its bit in the AER status (R280). -/
def complete (s : State) (c : Cpl) : State := match c with
  | .abort => aerSet { s with hb := { s.hb with cpl := c } } 15
  | .unsupported => aerSet { s with hb := { s.hb with cpl := c } } 20
  | _ => { s with hb := { s.hb with cpl := c } }

/-- What a matrix response gives a host read (R285). -/
def readCpl (s : State) (c : RespCode) (data : List Byte) : State := match c with
  | .okay => complete s (.ok data)
  | .ue => complete s .poisoned
  | _ => complete (hbErr s 3) .abort

/-- The matrix address of a BAR4 offset (R284). -/
def bar4Addr (s : State) (off : Nat) : Nat := s.hb.stagebase.toNat + off

/-- A host request to BAR4 (R284, R285). -/
def execBar4Access (off : Nat) (acc : HostAccess) (s : State) : Host.Outcome State Fault Refusal :=
  .next (
    if !masterReady s (.host 0) then s
    else match acc with
      | .read n =>
        if 0x1000000 < off + n then s
        else
          let (c, bs, s1) := matRead (.host 0) (bar4Addr s off) n s
          readCpl s1 c bs
      | .write bs =>
        if 0x1000000 < off + bs.length then s
        else
          let (c, s1) := matWrite (.host 0) (addrBytes (bar4Addr s off) bs) s
          if c = .okay then s1 else hbErr s1 3)

/-! ### AtomicOps -/

/-- The value an AtomicOp stores over an old one of n bytes; none when a compare fails. -/
def atomResult (op : AtomOp) (n old : Nat) : Option Nat := match op with
  | .fetchAdd a => some ((old + a.toNat) % 2 ^ (8 * n))
  | .swap a => some (a.toNat % 2 ^ (8 * n))
  | .cas c w => if old = c.toNat % 2 ^ (8 * n) then some (w.toNat % 2 ^ (8 * n)) else none

/-- Whether AtomicOps can lock what an address reaches (R264). -/
def atomRegion : MLoc → Bool
  | .hbm _ | .mv _ | .cal _ _ | .pb _ => true
  | _ => false

/-- The locked read (R264): the bytes read, with the write that is to follow; an answer other than OKAY, and a compare
that fails, complete the operation without one. -/
def atomRead (s : State) (a n : Nat) (op : AtomOp) : Option (List Byte × List Byte) × State :=
  let (c, old, s1) := matRead (.host 0) a n s
  if c ≠ .okay then (none, readCpl s1 c old)
  else match atomResult op n (leNat old) with
    | none => (none, complete s1 (.ok old))
    | some x => (some (old, leBytes n x), s1)

/-- The holder's write, which ends the lock (R264). -/
def atomWrite (s : State) (l : Lock) : State :=
  let s0 := { s with mx := { s.mx with locks := s.mx.locks.filter (fun k => k != l) } }
  if l.ended then complete (hbErr s0 3) .abort
  else
    let (c, s1) := matWrite (.host 0) (addrBytes l.addr l.bytes) s0
    readCpl s1 c l.old

/-- The lock on port t is ended. -/
def endLock (s : State) (t : Nat) : State :=
  { s with mx := { s.mx with locks := s.mx.locks.map (fun l => if l.target = t then { l with ended := true } else l) } }

/-- Whether a lock has lasted its 256 F-layer cycles, 213 ns (R4, R264). -/
def lockOver (s : State) (l : Lock) : Bool := !l.ended && decide (l.start.toNat + 213 ≤ s.timebase.toNat)

/-- The matrix ends such a lock on port t; while its target powers down it is not counted (R279). -/
def lockLapse (s : State) (t : Nat) : State :=
  if s.mx.locks.any (fun l => l.target == t && lockOver s l) then
    let s1 := endLock s t
    dmaSettle (if t < 24 ∧ (calAt s (t / 2)).power ≠ .on then s1
      else mxErr { s1 with mx := { s1.mx with lockTo := s1.mx.lockTo + 1 } } 0 44 t)
  else s

/-- The lock of a holder's write to an address. -/
def heldLock (s : State) (a size : Nat) : Option Lock := s.mx.locks.find? (fun l => l.addr == a && l.bytes.length == size)

/-- An AtomicOp (R264, R283): the host bridge holds one lock at most. A holder's write that comes when the lock's time is over
finds it ended. -/
def execAtomicop (bar off size : Nat) (op : AtomOp) (phase : AtomPhase) (s : State) : Host.Outcome State Fault Refusal :=
  .next (
    if !masterReady s (.host 0) then s
    else if bar ≠ 4 ∨ (size ≠ 4 ∧ size ≠ 8) ∨ off % size ≠ 0 then complete s .unsupported
    else if 0x1000000 < off + size then s
    else
      let a := bar4Addr s off
      let loc := matLoc (.host 0) a s
      match phase with
      | .holderWrite => (match heldLock s a size with
        | some l => if lockOver s l then atomWrite (lockLapse s l.target) { l with ended := true } else atomWrite s l
        | none => s)
      | ph =>
        if !s.mx.locks.isEmpty then s
        else if !atomRegion loc then complete (hbErr s 3) .abort
        else match atomRead s a size op with
          | (none, s1) => s1
          | (some (old, new), s1) =>
            let l : Lock := { target := targetPort s loc, addr := a, bytes := new, old := old, start := s.timebase }
            if ph = .whole then atomWrite s1 l else { s1 with mx := { s1.mx with locks := [l] } })

/-- A lock that has lasted 256 F-layer cycles is ended (R264). -/
def execLockTimeout (t : Nat) (s : State) : Host.Outcome State Fault Refusal := .next (lockLapse s t)

end Sys2Proof.Machine
end

