-- ==== Sys2Proof/Machine/VentControl.lean ====
section
/-! DEFINITION. Branches, loops and system operations of the vents (R189, R197, R180, R224 to R238): one meaning for
each, through the operation that
every operation of a bundle goes through. -/

namespace Sys2Proof.Machine

/-- R189. Branches by a word offset. -/
def execBr (v : Nat) (e : OpEnc) (s : State) : Host.Outcome State Fault Refusal :=
  ventOp s v .br e none "BR"

/-- R189. Branches by a word offset and links A15. -/
def execBrl (v : Nat) (e : OpEnc) (s : State) : Host.Outcome State Fault Refusal :=
  ventOp s v .brl e none "BRL"

/-- R189. Branches by an immediate byte offset. -/
def execBrf (v : Nat) (e : OpEnc) (s : State) : Host.Outcome State Fault Refusal :=
  ventOp s v .brf e none "BRF"

/-- R189. Branches by an immediate byte offset and links A15. -/
def execBrlf (v : Nat) (e : OpEnc) (s : State) : Host.Outcome State Fault Refusal :=
  ventOp s v .brlf e none "BRLF"

/-- R189. Jumps to a register target. -/
def execJr (v : Nat) (e : OpEnc) (s : State) : Host.Outcome State Fault Refusal :=
  ventOp s v .jr e none "JR"

/-- R189. Jumps to a register target and links A15. -/
def execJrl (v : Nat) (e : OpEnc) (s : State) : Host.Outcome State Fault Refusal :=
  ventOp s v .jrl e none "JRL"

/-- R197. Sets up a zero-overhead loop level. -/
def execLoop (v : Nat) (e : OpEnc) (s : State) : Host.Outcome State Fault Refusal :=
  ventOp s v .loop e none "LOOP"

/-- R180. Writes a system register. -/
def execMts (v : Nat) (e : OpEnc) (s : State) : Host.Outcome State Fault Refusal :=
  ventOp s v .mts e none "MTS"

/-- R180. Reads a system register. -/
def execMfs (v : Nat) (e : OpEnc) (s : State) : Host.Outcome State Fault Refusal :=
  ventOp s v .mfs e none "MFS"

/-- R232. Raises the system-call trap after its bundle completes. -/
def execSyscall (v : Nat) (e : OpEnc) (s : State) : Host.Outcome State Fault Refusal :=
  ventOp s v .syscall e none "SYSCALL"

/-- R232. Raises the breakpoint trap after its bundle completes. -/
def execBrk (v : Nat) (e : OpEnc) (s : State) : Host.Outcome State Fault Refusal :=
  ventOp s v .brk e none "BREAK"

/-- R235. Opens a hold window of up to N cycles within the budget. -/
def execHold (v : Nat) (e : OpEnc) (s : State) : Host.Outcome State Fault Refusal :=
  ventOp s v .hold e none "HOLD"

/-- R231. Returns from a machine handler, restoring STAT from STS_M. -/
def execRetm (v : Nat) (e : OpEnc) (s : State) : Host.Outcome State Fault Refusal :=
  ventOp s v .retm e none "RETM"

/-- R231. Returns from a supervisor handler, restoring LEVEL and SIE. -/
def execRets (v : Nat) (e : OpEnc) (s : State) : Host.Outcome State Fault Refusal :=
  ventOp s v .rets e none "RETS"

/-- R147. Clears STAT.NARROW at M, entering Broad mode after the shadow. -/
def execGobroad (v : Nat) (e : OpEnc) (s : State) : Host.Outcome State Fault Refusal :=
  ventOp s v .gobroad e none "GOBROAD"

/-- R238. Waits for the scoreboard and outstanding writes, and makes deferred faults precise. -/
def execBarrier (v : Nat) (e : OpEnc) (s : State) : Host.Outcome State Fault Refusal :=
  ventOp s v .barrier e none "BARRIER"

/-- R174. Empties the line buffer and refetches. -/
def execIsync (v : Nat) (e : OpEnc) (s : State) : Host.Outcome State Fault Refusal :=
  ventOp s v .isync e none "ISYNC"

/-- R188. Does nothing. -/
def execNop (v : Nat) (e : OpEnc) (s : State) : Host.Outcome State Fault Refusal :=
  ventOp s v .nop e none "NOP"

end Sys2Proof.Machine
end

