-- ==== Sys2Proof/Machine/VentFloat.lean ====
section
/-! DEFINITION. Scalar and vector floating-point operations of VA and VB (R215 to R221): one meaning for each, through
the operation that
every operation of a bundle goes through. -/

namespace Sys2Proof.Machine

/-- R216. Scalar floating-point add. -/
def execFadd (v : Nat) (e : OpEnc) (s : State) : Host.Outcome State Fault Refusal :=
  ventOp s v .fadd e none "FADD"

/-- R216. Scalar floating-point subtract. -/
def execFsub (v : Nat) (e : OpEnc) (s : State) : Host.Outcome State Fault Refusal :=
  ventOp s v .fsub e none "FSUB"

/-- R216. Scalar floating-point multiply. -/
def execFmul (v : Nat) (e : OpEnc) (s : State) : Host.Outcome State Fault Refusal :=
  ventOp s v .fmul e none "FMUL"

/-- R215. Scalar fused multiply-add. -/
def execFma (v : Nat) (e : OpEnc) (s : State) : Host.Outcome State Fault Refusal :=
  ventOp s v .fma e none "FMA"

/-- R217. Scalar minimumNumber. -/
def execFmin (v : Nat) (e : OpEnc) (s : State) : Host.Outcome State Fault Refusal :=
  ventOp s v .fmin e none "FMIN"

/-- R217. Scalar maximumNumber. -/
def execFmax (v : Nat) (e : OpEnc) (s : State) : Host.Outcome State Fault Refusal :=
  ventOp s v .fmax e none "FMAX"

/-- R217. Scalar floating-point compare into a predicate. -/
def execFcmp (v : Nat) (e : OpEnc) (s : State) : Host.Outcome State Fault Refusal :=
  ventOp s v .fcmp e none "FCMP"

/-- R218. Converts between integer and floating point. -/
def execFcvt (v : Nat) (e : OpEnc) (s : State) : Host.Outcome State Fault Refusal :=
  ventOp s v .fcvt e none "FCVT"

/-- R216. Converts between binary32 and binary64. -/
def execFcvtf (v : Nat) (e : OpEnc) (s : State) : Host.Outcome State Fault Refusal :=
  ventOp s v .fcvtf e none "FCVTF"

/-- R216. Sets or copies a floating-point sign. -/
def execFsgn (v : Nat) (e : OpEnc) (s : State) : Host.Outcome State Fault Refusal :=
  ventOp s v .fsgn e none "FSGN"

/-- R216. Moves bits between F and scalar registers. -/
def execFmvx (v : Nat) (e : OpEnc) (s : State) : Host.Outcome State Fault Refusal :=
  ventOp s v .fmvx e none "FMVX"

/-- R216. Classifies a floating-point value. -/
def execFclass (v : Nat) (e : OpEnc) (s : State) : Host.Outcome State Fault Refusal :=
  ventOp s v .fclass e none "FCLASS"

/-- R216. Vector binary32 add. -/
def execVfadd (v : Nat) (e : OpEnc) (s : State) : Host.Outcome State Fault Refusal :=
  ventOp s v .vfadd e none "VFADD"

/-- R216. Vector binary32 subtract. -/
def execVfsub (v : Nat) (e : OpEnc) (s : State) : Host.Outcome State Fault Refusal :=
  ventOp s v .vfsub e none "VFSUB"

/-- R216. Vector binary32 multiply. -/
def execVfmul (v : Nat) (e : OpEnc) (s : State) : Host.Outcome State Fault Refusal :=
  ventOp s v .vfmul e none "VFMUL"

/-- R216. Vector binary32 fused multiply-add. -/
def execVfma (v : Nat) (e : OpEnc) (s : State) : Host.Outcome State Fault Refusal :=
  ventOp s v .vfma e none "VFMA"

/-- R217. Vector binary32 minimum. -/
def execVfmin (v : Nat) (e : OpEnc) (s : State) : Host.Outcome State Fault Refusal :=
  ventOp s v .vfmin e none "VFMIN"

/-- R217. Vector binary32 maximum. -/
def execVfmax (v : Nat) (e : OpEnc) (s : State) : Host.Outcome State Fault Refusal :=
  ventOp s v .vfmax e none "VFMAX"

/-- R217. Vector binary32 compare into a mask. -/
def execVfcmp (v : Nat) (e : OpEnc) (s : State) : Host.Outcome State Fault Refusal :=
  ventOp s v .vfcmp e none "VFCMP"

/-- R218. Vector conversion between int32 and binary32. -/
def execVfcvt (v : Nat) (e : OpEnc) (s : State) : Host.Outcome State Fault Refusal :=
  ventOp s v .vfcvt e none "VFCVT"

/-- R216. Vector sign operations. -/
def execVfsgn (v : Nat) (e : OpEnc) (s : State) : Host.Outcome State Fault Refusal :=
  ventOp s v .vfsgn e none "VFSGN"

end Sys2Proof.Machine
end

