-- ==== Sys2Proof/Machine/VentLong.lean ====
section
/-! DEFINITION. Division, string operations, VKECCAK and VNTT (R191, R193, R216, R222): one meaning for each, through the
operation that
every operation of a bundle goes through. -/

namespace Sys2Proof.Machine

/-- R191. Signed 32-bit division, quotient. -/
def execDiv (v : Nat) (e : OpEnc) (s : State) : Host.Outcome State Fault Refusal :=
  ventOp s v .div e none "DIV"

/-- R191. Unsigned 32-bit division, quotient. -/
def execDivu (v : Nat) (e : OpEnc) (s : State) : Host.Outcome State Fault Refusal :=
  ventOp s v .divu e none "DIVU"

/-- R191. Signed 32-bit division, remainder. -/
def execRem (v : Nat) (e : OpEnc) (s : State) : Host.Outcome State Fault Refusal :=
  ventOp s v .rem e none "REM"

/-- R191. Unsigned 32-bit division, remainder. -/
def execRemu (v : Nat) (e : OpEnc) (s : State) : Host.Outcome State Fault Refusal :=
  ventOp s v .remu e none "REMU"

/-- R216. Floating-point divide as a long operation. -/
def execFdiv (v : Nat) (e : OpEnc) (s : State) : Host.Outcome State Fault Refusal :=
  ventOp s v .fdiv e none "FDIV"

/-- R216. Floating-point square root as a long operation. -/
def execFsqrt (v : Nat) (e : OpEnc) (s : State) : Host.Outcome State Fault Refusal :=
  ventOp s v .fsqrt e none "FSQRT"

/-- R193. Copies a block of elements. -/
def execMovs (v : Nat) (e : OpEnc) (stop : Option Nat) (s : State) : Host.Outcome State Fault Refusal :=
  ventOp s v .movs e stop "MOVS"

/-- R193. Fills a block with a value. -/
def execFils (v : Nat) (e : OpEnc) (stop : Option Nat) (s : State) : Host.Outcome State Fault Refusal :=
  ventOp s v .fils e stop "FILS"

/-- R193. Compares two blocks element by element. -/
def execCmps (v : Nat) (e : OpEnc) (stop : Option Nat) (s : State) : Host.Outcome State Fault Refusal :=
  ventOp s v .cmps e stop "CMPS"

/-- R193. Scans a block for an element equal or unequal to a value. -/
def execScns (v : Nat) (e : OpEnc) (ne : Bool) (stop : Option Nat) (s : State) : Host.Outcome State Fault Refusal :=
  ventOp s v (if ne then .scnsNe else .scnsEq) e stop "SCNS"

/-- R222. Applies Keccak-f[1600] to a palette state, resumably. -/
def execVkeccak (v : Nat) (e : OpEnc) (stop : Option Nat) (s : State) : Host.Outcome State Fault Refusal :=
  ventOp s v .vkeccak e stop "VKECCAK"

/-- R222. Performs the forward or inverse ML-KEM NTT on palette coefficients, resumably. -/
def execVntt (v : Nat) (e : OpEnc) (stop : Option Nat) (s : State) : Host.Outcome State Fault Refusal :=
  ventOp s v .vntt e stop "VNTT"

end Sys2Proof.Machine
end

