-- ==== Sys2Proof/Machine/VentMemory.lean ====
section
/-! DEFINITION. Loads, stores, prefetch, fences and cache operations of the vents (R157 to R171, R188, R208 to R211): one
meaning for each, through the operation that
every operation of a bundle goes through. -/

namespace Sys2Proof.Machine

/-- R157. Loads a zero-extended value into a register. -/
def execLd (v : Nat) (e : OpEnc) (s : State) : Host.Outcome State Fault Refusal :=
  ventOp s v .ld e none "LD"

/-- R157. Loads a sign-extended byte or half-word. -/
def execLds (v : Nat) (e : OpEnc) (s : State) : Host.Outcome State Fault Refusal :=
  ventOp s v .lds e none "LDS"

/-- R188. Loads binary32 or binary64 into an F register. -/
def execLdf (v : Nat) (e : OpEnc) (s : State) : Host.Outcome State Fault Refusal :=
  ventOp s v .ldf e none "LDF"

/-- R166. Stores the low bits of a register. -/
def execSt (v : Nat) (e : OpEnc) (s : State) : Host.Outcome State Fault Refusal :=
  ventOp s v .st e none "ST"

/-- R166. Stores the low bits of an F register. -/
def execStf (v : Nat) (e : OpEnc) (s : State) : Host.Outcome State Fault Refusal :=
  ventOp s v .stf e none "STF"

/-- R210. Loads active vector elements from VRES on. -/
def execVld (v : Nat) (e : OpEnc) (s : State) : Host.Outcome State Fault Refusal :=
  ventOp s v .vld e none "VLD"

/-- R210. Stores active vector elements from VRES on. -/
def execVst (v : Nat) (e : OpEnc) (s : State) : Host.Outcome State Fault Refusal :=
  ventOp s v .vst e none "VST"

/-- R188. Loads an aligned 64-byte block into vector registers. -/
def execVldl (v : Nat) (e : OpEnc) (s : State) : Host.Outcome State Fault Refusal :=
  ventOp s v .vldl e none "VLDL"

/-- R168. Stores an aligned 64-byte block, submitting an LCE job when the target is VJOB. -/
def execVstl (v : Nat) (e : OpEnc) (s : State) : Host.Outcome State Fault Refusal :=
  ventOp s v .vstl e none "VSTL"

/-- R188. Prefetches a line into the D-cache. -/
def execPref (v : Nat) (e : OpEnc) (s : State) : Host.Outcome State Fault Refusal :=
  ventOp s v .pref e none "PREF"

/-- R169. Waits until the store buffer is empty. -/
def execFence (v : Nat) (e : OpEnc) (s : State) : Host.Outcome State Fault Refusal :=
  ventOp s v .fence e none "FENCE"

/-- R171. Writes back and invalidates D-cache lines of a range. -/
def execDcflush (v : Nat) (e : OpEnc) (s : State) : Host.Outcome State Fault Refusal :=
  ventOp s v .dcflush e none "DCFLUSH"

/-- R171. Invalidates D-cache lines of a range. -/
def execDcinv (v : Nat) (e : OpEnc) (s : State) : Host.Outcome State Fault Refusal :=
  ventOp s v .dcinv e none "DCINV"

/-- R174. Invalidates I-cache lines of a range. -/
def execIcinv (v : Nat) (e : OpEnc) (s : State) : Host.Outcome State Fault Refusal :=
  ventOp s v .icinv e none "ICINV"

end Sys2Proof.Machine
end

