-- ==== Sys2Proof/Machine/VentScalar.lean ====
section
/-! DEFINITION. The scalar and predicate operations of the vents (R186, R188, R190): one meaning for each, through the
operation that
every operation of a bundle goes through. -/

namespace Sys2Proof.Machine

/-- R188. Copies a source to the destination. -/
def execMov (v : Nat) (e : OpEnc) (s : State) : Host.Outcome State Fault Refusal :=
  ventOp s v .mov e none "MOV"

/-- R188. Writes a 32-bit immediate to a register. -/
def execMovi (v : Nat) (e : OpEnc) (s : State) : Host.Outcome State Fault Refusal :=
  ventOp s v .movi e none "MOVI"

/-- R188. Adds two operands. -/
def execAdd (v : Nat) (e : OpEnc) (s : State) : Host.Outcome State Fault Refusal :=
  ventOp s v .add e none "ADD"

/-- R188. Subtracts two operands. -/
def execSub (v : Nat) (e : OpEnc) (s : State) : Host.Outcome State Fault Refusal :=
  ventOp s v .sub e none "SUB"

/-- R188. Adds an immediate to a register in AG. -/
def execAddi (v : Nat) (e : OpEnc) (s : State) : Host.Outcome State Fault Refusal :=
  ventOp s v .addi e none "ADDI"

/-- R190. Negates a source. -/
def execNeg (v : Nat) (e : OpEnc) (s : State) : Host.Outcome State Fault Refusal :=
  ventOp s v .neg e none "NEG"

/-- R190. Takes the absolute value of a source. -/
def execAbs (v : Nat) (e : OpEnc) (s : State) : Host.Outcome State Fault Refusal :=
  ventOp s v .abs e none "ABS"

/-- R190. Adds with saturation. -/
def execAdds (v : Nat) (e : OpEnc) (s : State) : Host.Outcome State Fault Refusal :=
  ventOp s v .adds e none "ADDS"

/-- R190. Subtracts with saturation. -/
def execSubs (v : Nat) (e : OpEnc) (s : State) : Host.Outcome State Fault Refusal :=
  ventOp s v .subs e none "SUBS"

/-- R188. Signed minimum. -/
def execMin (v : Nat) (e : OpEnc) (s : State) : Host.Outcome State Fault Refusal :=
  ventOp s v .min e none "MIN"

/-- R188. Signed maximum. -/
def execMax (v : Nat) (e : OpEnc) (s : State) : Host.Outcome State Fault Refusal :=
  ventOp s v .max e none "MAX"

/-- R188. Unsigned minimum. -/
def execMinu (v : Nat) (e : OpEnc) (s : State) : Host.Outcome State Fault Refusal :=
  ventOp s v .minu e none "MINU"

/-- R188. Unsigned maximum. -/
def execMaxu (v : Nat) (e : OpEnc) (s : State) : Host.Outcome State Fault Refusal :=
  ventOp s v .maxu e none "MAXU"

/-- R188. Bitwise AND. -/
def execAnd (v : Nat) (e : OpEnc) (s : State) : Host.Outcome State Fault Refusal :=
  ventOp s v .and e none "AND"

/-- R188. Bitwise OR. -/
def execOr (v : Nat) (e : OpEnc) (s : State) : Host.Outcome State Fault Refusal :=
  ventOp s v .or e none "OR"

/-- R188. Bitwise exclusive OR. -/
def execXor (v : Nat) (e : OpEnc) (s : State) : Host.Outcome State Fault Refusal :=
  ventOp s v .xor e none "XOR"

/-- R188. A AND NOT B. -/
def execAndn (v : Nat) (e : OpEnc) (s : State) : Host.Outcome State Fault Refusal :=
  ventOp s v .andn e none "ANDN"

/-- R188. Bitwise NOT. -/
def execNot (v : Nat) (e : OpEnc) (s : State) : Host.Outcome State Fault Refusal :=
  ventOp s v .not e none "NOT"

/-- R190. Logical shift left. -/
def execShl (v : Nat) (e : OpEnc) (s : State) : Host.Outcome State Fault Refusal :=
  ventOp s v .shl e none "SHL"

/-- R190. Logical shift right. -/
def execShr (v : Nat) (e : OpEnc) (s : State) : Host.Outcome State Fault Refusal :=
  ventOp s v .shr e none "SHR"

/-- R190. Arithmetic shift right. -/
def execSar (v : Nat) (e : OpEnc) (s : State) : Host.Outcome State Fault Refusal :=
  ventOp s v .sar e none "SAR"

/-- R188. Rotate left. -/
def execRol (v : Nat) (e : OpEnc) (s : State) : Host.Outcome State Fault Refusal :=
  ventOp s v .rol e none "ROL"

/-- R188. Rotate right. -/
def execRor (v : Nat) (e : OpEnc) (s : State) : Host.Outcome State Fault Refusal :=
  ventOp s v .ror e none "ROR"

/-- R190. Extracts a bit field with zero extension. -/
def execExtu (v : Nat) (e : OpEnc) (s : State) : Host.Outcome State Fault Refusal :=
  ventOp s v .extu e none "EXTU"

/-- R190. Extracts a bit field with sign extension. -/
def execExts (v : Nat) (e : OpEnc) (s : State) : Host.Outcome State Fault Refusal :=
  ventOp s v .exts e none "EXTS"

/-- R190. Inserts a bit field into the destination. -/
def execIns (v : Nat) (e : OpEnc) (s : State) : Host.Outcome State Fault Refusal :=
  ventOp s v .ins e none "INS"

/-- R190. Counts leading zeros. -/
def execClz (v : Nat) (e : OpEnc) (s : State) : Host.Outcome State Fault Refusal :=
  ventOp s v .clz e none "CLZ"

/-- R188. Counts one bits. -/
def execPopc (v : Nat) (e : OpEnc) (s : State) : Host.Outcome State Fault Refusal :=
  ventOp s v .popc e none "POPC"

/-- R188. Reverses the four bytes. -/
def execBswap (v : Nat) (e : OpEnc) (s : State) : Host.Outcome State Fault Refusal :=
  ventOp s v .bswap e none "BSWAP"

/-- R188. Low 32 bits of a product. -/
def execMul (v : Nat) (e : OpEnc) (s : State) : Host.Outcome State Fault Refusal :=
  ventOp s v .mul e none "MUL"

/-- R188. High 32 bits of a signed product. -/
def execMulhs (v : Nat) (e : OpEnc) (s : State) : Host.Outcome State Fault Refusal :=
  ventOp s v .mulhs e none "MULHS"

/-- R188. High 32 bits of an unsigned product. -/
def execMulhu (v : Nat) (e : OpEnc) (s : State) : Host.Outcome State Fault Refusal :=
  ventOp s v .mulhu e none "MULHU"

/-- R186. Writes equality to a predicate. -/
def execCmpeq (v : Nat) (e : OpEnc) (s : State) : Host.Outcome State Fault Refusal :=
  ventOp s v .cmpeq e none "CMPEQ"

/-- R186. Writes inequality to a predicate. -/
def execCmpne (v : Nat) (e : OpEnc) (s : State) : Host.Outcome State Fault Refusal :=
  ventOp s v .cmpne e none "CMPNE"

/-- R186. Writes signed less-than to a predicate. -/
def execCmplt (v : Nat) (e : OpEnc) (s : State) : Host.Outcome State Fault Refusal :=
  ventOp s v .cmplt e none "CMPLT"

/-- R186. Writes unsigned less-than to a predicate. -/
def execCmpltu (v : Nat) (e : OpEnc) (s : State) : Host.Outcome State Fault Refusal :=
  ventOp s v .cmpltu e none "CMPLTU"

/-- R186. Writes signed less-or-equal to a predicate. -/
def execCmple (v : Nat) (e : OpEnc) (s : State) : Host.Outcome State Fault Refusal :=
  ventOp s v .cmple e none "CMPLE"

/-- R186. Writes unsigned less-or-equal to a predicate. -/
def execCmpleu (v : Nat) (e : OpEnc) (s : State) : Host.Outcome State Fault Refusal :=
  ventOp s v .cmpleu e none "CMPLEU"

/-- R186. Writes (A AND B) ≠ 0 to a predicate. -/
def execTst (v : Nat) (e : OpEnc) (s : State) : Host.Outcome State Fault Refusal :=
  ventOp s v .tst e none "TST"

/-- R186. Predicate AND with optional negation. -/
def execPand (v : Nat) (e : OpEnc) (s : State) : Host.Outcome State Fault Refusal :=
  ventOp s v .pand e none "PAND"

/-- R186. Predicate OR with optional negation. -/
def execPor (v : Nat) (e : OpEnc) (s : State) : Host.Outcome State Fault Refusal :=
  ventOp s v .por e none "POR"

/-- R186. Predicate XOR with optional negation. -/
def execPxor (v : Nat) (e : OpEnc) (s : State) : Host.Outcome State Fault Refusal :=
  ventOp s v .pxor e none "PXOR"

end Sys2Proof.Machine
end

