-- ==== Sys2Proof/Machine/VentVector.lean ====
section
/-! DEFINITION. Vector integer, fixed-point, configuration and mask operations of the vents (R207, R212, R214): one
meaning for each, through the operation that
every operation of a bundle goes through. -/

namespace Sys2Proof.Machine

/-- R207. Sets VL from an element count. -/
def execSetvl (v : Nat) (e : OpEnc) (s : State) : Host.Outcome State Fault Refusal :=
  ventOp s v .setvl e none "SETVL"

/-- R212. Vector add. -/
def execVadd (v : Nat) (e : OpEnc) (s : State) : Host.Outcome State Fault Refusal :=
  ventOp s v .vadd e none "VADD"

/-- R212. Vector subtract. -/
def execVsub (v : Nat) (e : OpEnc) (s : State) : Host.Outcome State Fault Refusal :=
  ventOp s v .vsub e none "VSUB"

/-- R212. Vector multiply, low bits. -/
def execVmul (v : Nat) (e : OpEnc) (s : State) : Host.Outcome State Fault Refusal :=
  ventOp s v .vmul e none "VMUL"

/-- R212. Vector multiply, high bits. -/
def execVmulh (v : Nat) (e : OpEnc) (s : State) : Host.Outcome State Fault Refusal :=
  ventOp s v .vmulh e none "VMULH"

/-- R212. Vector minimum. -/
def execVmin (v : Nat) (e : OpEnc) (s : State) : Host.Outcome State Fault Refusal :=
  ventOp s v .vmin e none "VMIN"

/-- R212. Vector maximum. -/
def execVmax (v : Nat) (e : OpEnc) (s : State) : Host.Outcome State Fault Refusal :=
  ventOp s v .vmax e none "VMAX"

/-- R212. Vector bitwise logic. -/
def execVlog (v : Nat) (e : OpEnc) (s : State) : Host.Outcome State Fault Refusal :=
  ventOp s v .vlog e none "VLOG"

/-- R212. Vector move. -/
def execVmov (v : Nat) (e : OpEnc) (s : State) : Host.Outcome State Fault Refusal :=
  ventOp s v .vmov e none "VMOV"

/-- R212. Vector select by mask. -/
def execVsel (v : Nat) (e : OpEnc) (s : State) : Host.Outcome State Fault Refusal :=
  ventOp s v .vsel e none "VSEL"

/-- R212. Vector shift left. -/
def execVshl (v : Nat) (e : OpEnc) (s : State) : Host.Outcome State Fault Refusal :=
  ventOp s v .vshl e none "VSHL"

/-- R212. Vector shift right. -/
def execVshr (v : Nat) (e : OpEnc) (s : State) : Host.Outcome State Fault Refusal :=
  ventOp s v .vshr e none "VSHR"

/-- R212. Vector compare into a mask. -/
def execVcmp (v : Nat) (e : OpEnc) (s : State) : Host.Outcome State Fault Refusal :=
  ventOp s v .vcmp e none "VCMP"

/-- R212. Vector less-or-equal compare into a mask. -/
def execVcmpl (v : Nat) (e : OpEnc) (s : State) : Host.Outcome State Fault Refusal :=
  ventOp s v .vcmpl e none "VCMPL"

/-- R212. Vector saturating add. -/
def execVadds (v : Nat) (e : OpEnc) (s : State) : Host.Outcome State Fault Refusal :=
  ventOp s v .vadds e none "VADDS"

/-- R212. Vector saturating subtract. -/
def execVsubs (v : Nat) (e : OpEnc) (s : State) : Host.Outcome State Fault Refusal :=
  ventOp s v .vsubs e none "VSUBS"

/-- R214. Vector fixed-point rounding multiply. -/
def execVmulrh (v : Nat) (e : OpEnc) (s : State) : Host.Outcome State Fault Refusal :=
  ventOp s v .vmulrh e none "VMULRH"

/-- R214. Vector rounding shift right. -/
def execVsrr (v : Nat) (e : OpEnc) (s : State) : Host.Outcome State Fault Refusal :=
  ventOp s v .vsrr e none "VSRR"

/-- R212. Vector reduction into element 0. -/
def execVred (v : Nat) (e : OpEnc) (s : State) : Host.Outcome State Fault Refusal :=
  ventOp s v .vred e none "VRED"

/-- R212. Reads one vector element into a scalar register. -/
def execVgete (v : Nat) (e : OpEnc) (s : State) : Host.Outcome State Fault Refusal :=
  ventOp s v .vgete e none "VGETE"

/-- R212. Writes one vector element from a scalar register. -/
def execVsete (v : Nat) (e : OpEnc) (s : State) : Host.Outcome State Fault Refusal :=
  ventOp s v .vsete e none "VSETE"

/-- R212. Vector slide down. -/
def execVsldn (v : Nat) (e : OpEnc) (s : State) : Host.Outcome State Fault Refusal :=
  ventOp s v .vsldn e none "VSLDN"

/-- R212. Vector slide up. -/
def execVslup (v : Nat) (e : OpEnc) (s : State) : Host.Outcome State Fault Refusal :=
  ventOp s v .vslup e none "VSLUP"

/-- R212. Reverses the bytes of each vector element. -/
def execVbswap (v : Nat) (e : OpEnc) (s : State) : Host.Outcome State Fault Refusal :=
  ventOp s v .vbswap e none "VBSWAP"

/-- R212. Mask register logic. -/
def execKlog (v : Nat) (e : OpEnc) (s : State) : Host.Outcome State Fault Refusal :=
  ventOp s v .klog e none "KLOG"

/-- R212. Moves mask halves to or from scalar registers. -/
def execKmov (v : Nat) (e : OpEnc) (s : State) : Host.Outcome State Fault Refusal :=
  ventOp s v .kmov e none "KMOV"

/-- R212. Counts mask bits or finds the lowest set bit. -/
def execKpop (v : Nat) (e : OpEnc) (s : State) : Host.Outcome State Fault Refusal :=
  ventOp s v .kpop e none "KPOP"

end Sys2Proof.Machine
end

