-- ==== Sys2Proof/Machine/Dispatch.lean ====
section
/-! DEFINITION. What each command does: one direct call of its meaning per constructor. -/

namespace Sys2Proof.Machine

def exec (i : Instr) (s : State) : Host.Outcome State Fault Refusal :=
  match i with
  | .poresetNAssert => Sys2Proof.Machine.execPoresetNAssert s
  | .poresetNRelease => Sys2Proof.Machine.execPoresetNRelease s
  | .hostwait r => Sys2Proof.Machine.execHostwait r s
  | .primeCtlGo m w => Sys2Proof.Machine.execPrimeCtlGo m w s
  | .stageb => Sys2Proof.Machine.execStageb s
  | .primed r => Sys2Proof.Machine.execPrimed r s
  | .railLowReset k => Sys2Proof.Machine.execRailLowReset k s
  | .rail k mv => Sys2Proof.Machine.execRail k mv s
  | .thermalSample rs => Sys2Proof.Machine.execThermalSample rs s
  | .lossOfSignal p n => Sys2Proof.Machine.execLossOfSignal p n s
  | .transmitShort p n => Sys2Proof.Machine.execTransmitShort p n s
  | .losClear p n => Sys2Proof.Machine.execLosClear p n s
  | .portLaneclr m p w => Sys2Proof.Machine.execPortLaneclr m p w s
  | .reflost p => Sys2Proof.Machine.execReflost p s
  | .referenceRestored p => Sys2Proof.Machine.execReferenceRestored p s
  | .sysclkLost => Sys2Proof.Machine.execSysclkLost s
  | .sysclkRestored => Sys2Proof.Machine.execSysclkRestored s
  | .linkUp src polinv => Sys2Proof.Machine.execLinkUp src polinv s
  | .linkDown src => Sys2Proof.Machine.execLinkDown src s
  | .breakoutReconfigured p => Sys2Proof.Machine.execBreakoutReconfigured p s
  | .immediateAdaptation p n height => Sys2Proof.Machine.execImmediateAdaptation p n height s
  | .fecdegWindow p met => Sys2Proof.Machine.execFecdegWindow p met s
  | .i2cLineCheck n o => Sys2Proof.Machine.execI2cLineCheck n o s
  | .mgmtCtlI2cretry m w o => Sys2Proof.Machine.execMgmtCtlI2cretry m w o s
  | .pciePerstN a => Sys2Proof.Machine.execPciePerstN s a
  | .pcieLinkDown => Sys2Proof.Machine.execPcieLinkDown s
  | .pcieLinkUp speed width flit ari => Sys2Proof.Machine.execPcieLinkUp speed width flit ari s
  | .vfFlr f => Sys2Proof.Machine.execVfFlr f s
  | .pfFlr hot => Sys2Proof.Machine.execPfFlr s hot
  | .busMasterEnable f on d3 => Sys2Proof.Machine.execBusMasterEnable f on s d3
  | .msixUnmask f v how => Sys2Proof.Machine.execMsixUnmask f v how s
  | .msixTimeout f v => Sys2Proof.Machine.execMsixTimeout f v s
  | .hostReadTimeout addr w => Sys2Proof.Machine.execHostReadTimeout addr s w
  | .doorbell f off bytes => Sys2Proof.Machine.execDoorbell f off bytes s
  | .bar4Access off acc => Sys2Proof.Machine.execBar4Access off acc s
  | .atomicop bar off size op phase => Sys2Proof.Machine.execAtomicop bar off size op phase s
  | .lockTimeout t => Sys2Proof.Machine.execLockTimeout t s
  | .registerWrite m addr bytes => Sys2Proof.Machine.execRegisterWrite m addr bytes s
  | .admCfg m w => Sys2Proof.Machine.execAdmCfg m w s
  | .stagebase m w => Sys2Proof.Machine.execStagebase m w s
  | .remapCtl m w => Sys2Proof.Machine.execRemapCtl m w s
  | .ringCtlResume m r => Sys2Proof.Machine.execRingCtlResume m r s
  | .ringCtlSkip m r tag => Sys2Proof.Machine.execRingCtlSkip m r s tag
  | .admcqCompletion => Sys2Proof.Machine.execAdmcqCompletion s
  | .ctxCreate d p => Sys2Proof.Machine.execCtxCreate d p s
  | .ctxUpdate d p => Sys2Proof.Machine.execCtxUpdate d p s
  | .keyLoad d p b => Sys2Proof.Machine.execKeyLoad d p b s
  | .keyDeriveKemGen d p => Sys2Proof.Machine.execKeyDeriveKemGen d p s
  | .keyDeriveKemDecaps d p b cs => Sys2Proof.Machine.execKeyDeriveKemDecaps d p b cs s
  | .keyX25519Gen d p => Sys2Proof.Machine.execKeyX25519Gen d p s
  | .keyX25519Agree d p => Sys2Proof.Machine.execKeyX25519Agree d p s
  | .keyRetire d p => Sys2Proof.Machine.execKeyRetire d p s
  | .ruleWriteSet d p => Sys2Proof.Machine.execRuleWriteSet d p s
  | .ruleWriteRemove d p => Sys2Proof.Machine.execRuleWriteRemove d p s
  | .setSwap d p => Sys2Proof.Machine.execSetSwap d p s
  | .epochFlip src => Sys2Proof.Machine.execEpochFlip src s
  | .swapCopy => Sys2Proof.Machine.execSwapCopy s
  | .swapDone => Sys2Proof.Machine.execSwapDone s
  | .queueCreateQueue d p => Sys2Proof.Machine.execQueueCreateQueue d p s
  | .queueCreateWprof d p => Sys2Proof.Machine.execQueueCreateWprof d p s
  | .queueCreateRing d p => Sys2Proof.Machine.execQueueCreateRing d p s
  | .queueDestroy d p => Sys2Proof.Machine.execQueueDestroy d p s
  | .portSet d p => Sys2Proof.Machine.execPortSet d p s
  | .glazeProfileProfile d p => Sys2Proof.Machine.execGlazeProfileProfile d p s
  | .glazeProfileTable d p b => Sys2Proof.Machine.execGlazeProfileTable d p b s
  | .easelConstrainReserve d p => Sys2Proof.Machine.execEaselConstrainReserve d p s
  | .easelConstrainRelease d p => Sys2Proof.Machine.execEaselConstrainRelease d p s
  | .easelConstrainPbcap d p => Sys2Proof.Machine.execEaselConstrainPbcap d p s
  | .easelConstrainExclude d p => Sys2Proof.Machine.execEaselConstrainExclude d p s
  | .calderaDrained => Sys2Proof.Machine.execCalderaDrained s
  | .sourceBankSwitch src => Sys2Proof.Machine.execSourceBankSwitch src s
  | .easelSnap d p => Sys2Proof.Machine.execEaselSnap d p s
  | .statsReadDrops d p => Sys2Proof.Machine.execStatsReadDrops d p s
  | .statsReadQueues d p => Sys2Proof.Machine.execStatsReadQueues d p s
  | .statsReadRings d p => Sys2Proof.Machine.execStatsReadRings d p s
  | .statsReadGlaze d p => Sys2Proof.Machine.execStatsReadGlaze d p s
  | .attest d p => Sys2Proof.Machine.execAttest d p s
  | .fwStageCheck d p => Sys2Proof.Machine.execFwStageCheck d p s
  | .fwStageApply d p => Sys2Proof.Machine.execFwStageApply d p s
  | .calderaReplace c => Sys2Proof.Machine.execCalderaReplace c s
  | .fwStageRaiseSvn d p => Sys2Proof.Machine.execFwStageRaiseSvn d p s
  | .diagI2cRead d p o rx => Sys2Proof.Machine.execDiagI2cRead d p o rx s
  | .diagI2cWrite d p o => Sys2Proof.Machine.execDiagI2cWrite d p o s
  | .diagMdioRead d p rx => Sys2Proof.Machine.execDiagMdioRead d p rx s
  | .diagMdioWrite d p => Sys2Proof.Machine.execDiagMdioWrite d p s
  | .fromhostDescriptor r desc frame cells => Sys2Proof.Machine.execFromhostDescriptor r desc frame cells s
  | .tohostDelivery r => Sys2Proof.Machine.execTohostDelivery r s
  | .frameReceive src frame fcsOk cells => Sys2Proof.Machine.execFrameReceive src frame fcsOk cells s
  | .inputEntryDelivery v => Sys2Proof.Machine.execInputEntryDelivery v s
  | .lceEncrypt n ecc cells => Sys2Proof.Machine.execLceEncrypt n ecc cells s
  | .lceDecrypt n ecc cells => Sys2Proof.Machine.execLceDecrypt n ecc cells s
  | .lceStagingJob n ecc cells => Sys2Proof.Machine.execLceStagingJob n ecc cells s
  | .lceSealJob n ecc cells => Sys2Proof.Machine.execLceSealJob n ecc cells s
  | .txtake v => Sys2Proof.Machine.execTxtake v s
  | .keyScan => Sys2Proof.Machine.execKeyScan s
  | .drainComplete ctx slot => Sys2Proof.Machine.execDrainComplete ctx slot s
  | .calderaSeal c => Sys2Proof.Machine.execCalderaSeal c s
  | .calderaUnseal => Sys2Proof.Machine.execCalderaUnseal s
  | .qmEntrance pbh how cells => Sys2Proof.Machine.execQmEntrance pbh how cells s
  | .rackTimeout bucket ticket => Sys2Proof.Machine.execRackTimeout bucket ticket s
  | .spillReturn q cells => Sys2Proof.Machine.execSpillReturn q cells s
  | .subportPick src => Sys2Proof.Machine.execSubportPick src s
  | .frameTransmitEnd src => Sys2Proof.Machine.execFrameTransmitEnd src s
  | .portDownDrop src => Sys2Proof.Machine.execPortDownDrop src s
  | .glazeSlotClose p g cells => Sys2Proof.Machine.execGlazeSlotClose p g cells s
  | .glazeWireTime p g => Sys2Proof.Machine.execGlazeWireTime p g s
  | .glazeReseed p g => Sys2Proof.Machine.execGlazeReseed p g s
  | .easelPlan plan => Sys2Proof.Machine.execEaselPlan plan s
  | .easelMarkack v migno => Sys2Proof.Machine.execEaselMarkack v migno s
  | .migrationRelease migno => Sys2Proof.Machine.execMigrationRelease migno s
  | .marklate migno v => Sys2Proof.Machine.execMarklate migno v s
  | .easelCfg m w => Sys2Proof.Machine.execEaselCfg m w s
  | .dchCtlStart m n => Sys2Proof.Machine.execDchCtlStart m n s
  | .dchCtlAbort m n => Sys2Proof.Machine.execDchCtlAbort m n s
  | .descriptorComplete n => Sys2Proof.Machine.execDescriptorComplete n s
  | .busError n left code => Sys2Proof.Machine.execBusError n left code s
  | .dmaRetry n ok last => Sys2Proof.Machine.execDmaRetry n ok s last
  | .pacingFillChange n => Sys2Proof.Machine.execPacingFillChange n s
  | .pwrCalgateGate m c => Sys2Proof.Machine.execPwrCalgateGate m c s
  | .pwrCalgatePower m c => Sys2Proof.Machine.execPwrCalgatePower m c s
  | .calderaPowerUp c => Sys2Proof.Machine.execCalderaPowerUp c s
  | .domainOffTimeout c => Sys2Proof.Machine.execDomainOffTimeout c s
  | .isolationComplete v => Sys2Proof.Machine.execIsolationComplete v s
  | .hbmZeroing => Sys2Proof.Machine.execHbmZeroing s
  | .patrolScrub addr found => Sys2Proof.Machine.execPatrolScrub addr found s
  | .vinCfg m v w => Sys2Proof.Machine.execVinCfg m v w s
  | .vinCons m v w => Sys2Proof.Machine.execVinCons m v w s
  | .vctlReset m v => Sys2Proof.Machine.execVctlReset m v s
  | .vnmiRaise m v => Sys2Proof.Machine.execVnmiRaise m v s
  | .vintSetMsg m v => Sys2Proof.Machine.execVintSetMsg m v s
  | .vintSetSoft m v => Sys2Proof.Machine.execVintSetSoft m v s
  | .vwdog m v w => Sys2Proof.Machine.execVwdog m v w s
  | .watchdog v => Sys2Proof.Machine.execWatchdog v s
  | .timer v => Sys2Proof.Machine.execTimer v s
  | .holdExpiry v => Sys2Proof.Machine.execHoldExpiry v s
  | .asyncEntry v => Sys2Proof.Machine.execAsyncEntry v s
  | .loadLanding v => Sys2Proof.Machine.execLoadLanding v s
  | .farLoadResponse v n => Sys2Proof.Machine.execFarLoadResponse v n s
  | .longOperationComplete v n => Sys2Proof.Machine.execLongOperationComplete v n s
  | .storeBufferDrain v => Sys2Proof.Machine.execStoreBufferDrain v s
  | .deferqPop v => Sys2Proof.Machine.execDeferqPop v s
  | .mov v e => Sys2Proof.Machine.execMov v e s
  | .movi v e => Sys2Proof.Machine.execMovi v e s
  | .add v e => Sys2Proof.Machine.execAdd v e s
  | .sub v e => Sys2Proof.Machine.execSub v e s
  | .addi v e => Sys2Proof.Machine.execAddi v e s
  | .neg v e => Sys2Proof.Machine.execNeg v e s
  | .abs v e => Sys2Proof.Machine.execAbs v e s
  | .adds v e => Sys2Proof.Machine.execAdds v e s
  | .subs v e => Sys2Proof.Machine.execSubs v e s
  | .min v e => Sys2Proof.Machine.execMin v e s
  | .max v e => Sys2Proof.Machine.execMax v e s
  | .minu v e => Sys2Proof.Machine.execMinu v e s
  | .maxu v e => Sys2Proof.Machine.execMaxu v e s
  | .and v e => Sys2Proof.Machine.execAnd v e s
  | .or v e => Sys2Proof.Machine.execOr v e s
  | .xor v e => Sys2Proof.Machine.execXor v e s
  | .andn v e => Sys2Proof.Machine.execAndn v e s
  | .not v e => Sys2Proof.Machine.execNot v e s
  | .shl v e => Sys2Proof.Machine.execShl v e s
  | .shr v e => Sys2Proof.Machine.execShr v e s
  | .sar v e => Sys2Proof.Machine.execSar v e s
  | .rol v e => Sys2Proof.Machine.execRol v e s
  | .ror v e => Sys2Proof.Machine.execRor v e s
  | .extu v e => Sys2Proof.Machine.execExtu v e s
  | .exts v e => Sys2Proof.Machine.execExts v e s
  | .ins v e => Sys2Proof.Machine.execIns v e s
  | .clz v e => Sys2Proof.Machine.execClz v e s
  | .popc v e => Sys2Proof.Machine.execPopc v e s
  | .bswap v e => Sys2Proof.Machine.execBswap v e s
  | .mul v e => Sys2Proof.Machine.execMul v e s
  | .mulhs v e => Sys2Proof.Machine.execMulhs v e s
  | .mulhu v e => Sys2Proof.Machine.execMulhu v e s
  | .cmpeq v e => Sys2Proof.Machine.execCmpeq v e s
  | .cmpne v e => Sys2Proof.Machine.execCmpne v e s
  | .cmplt v e => Sys2Proof.Machine.execCmplt v e s
  | .cmpltu v e => Sys2Proof.Machine.execCmpltu v e s
  | .cmple v e => Sys2Proof.Machine.execCmple v e s
  | .cmpleu v e => Sys2Proof.Machine.execCmpleu v e s
  | .tst v e => Sys2Proof.Machine.execTst v e s
  | .pand v e => Sys2Proof.Machine.execPand v e s
  | .por v e => Sys2Proof.Machine.execPor v e s
  | .pxor v e => Sys2Proof.Machine.execPxor v e s
  | .br v e => Sys2Proof.Machine.execBr v e s
  | .brl v e => Sys2Proof.Machine.execBrl v e s
  | .brf v e => Sys2Proof.Machine.execBrf v e s
  | .brlf v e => Sys2Proof.Machine.execBrlf v e s
  | .jr v e => Sys2Proof.Machine.execJr v e s
  | .jrl v e => Sys2Proof.Machine.execJrl v e s
  | .loop v e => Sys2Proof.Machine.execLoop v e s
  | .mts v e => Sys2Proof.Machine.execMts v e s
  | .mfs v e => Sys2Proof.Machine.execMfs v e s
  | .syscall v e => Sys2Proof.Machine.execSyscall v e s
  | .brk v e => Sys2Proof.Machine.execBrk v e s
  | .hold v e => Sys2Proof.Machine.execHold v e s
  | .retm v e => Sys2Proof.Machine.execRetm v e s
  | .rets v e => Sys2Proof.Machine.execRets v e s
  | .gobroad v e => Sys2Proof.Machine.execGobroad v e s
  | .barrier v e => Sys2Proof.Machine.execBarrier v e s
  | .isync v e => Sys2Proof.Machine.execIsync v e s
  | .nop v e => Sys2Proof.Machine.execNop v e s
  | .ld v e => Sys2Proof.Machine.execLd v e s
  | .lds v e => Sys2Proof.Machine.execLds v e s
  | .ldf v e => Sys2Proof.Machine.execLdf v e s
  | .st v e => Sys2Proof.Machine.execSt v e s
  | .stf v e => Sys2Proof.Machine.execStf v e s
  | .vld v e => Sys2Proof.Machine.execVld v e s
  | .vst v e => Sys2Proof.Machine.execVst v e s
  | .vldl v e => Sys2Proof.Machine.execVldl v e s
  | .vstl v e => Sys2Proof.Machine.execVstl v e s
  | .pref v e => Sys2Proof.Machine.execPref v e s
  | .fence v e => Sys2Proof.Machine.execFence v e s
  | .dcflush v e => Sys2Proof.Machine.execDcflush v e s
  | .dcinv v e => Sys2Proof.Machine.execDcinv v e s
  | .icinv v e => Sys2Proof.Machine.execIcinv v e s
  | .div v e => Sys2Proof.Machine.execDiv v e s
  | .divu v e => Sys2Proof.Machine.execDivu v e s
  | .rem v e => Sys2Proof.Machine.execRem v e s
  | .remu v e => Sys2Proof.Machine.execRemu v e s
  | .fdiv v e => Sys2Proof.Machine.execFdiv v e s
  | .fsqrt v e => Sys2Proof.Machine.execFsqrt v e s
  | .movs v e stop => Sys2Proof.Machine.execMovs v e stop s
  | .fils v e stop => Sys2Proof.Machine.execFils v e stop s
  | .cmps v e stop => Sys2Proof.Machine.execCmps v e stop s
  | .scns v e ne stop => Sys2Proof.Machine.execScns v e ne stop s
  | .vkeccak v e stop => Sys2Proof.Machine.execVkeccak v e stop s
  | .vntt v e stop => Sys2Proof.Machine.execVntt v e stop s
  | .setvl v e => Sys2Proof.Machine.execSetvl v e s
  | .vadd v e => Sys2Proof.Machine.execVadd v e s
  | .vsub v e => Sys2Proof.Machine.execVsub v e s
  | .vmul v e => Sys2Proof.Machine.execVmul v e s
  | .vmulh v e => Sys2Proof.Machine.execVmulh v e s
  | .vmin v e => Sys2Proof.Machine.execVmin v e s
  | .vmax v e => Sys2Proof.Machine.execVmax v e s
  | .vlog v e => Sys2Proof.Machine.execVlog v e s
  | .vmov v e => Sys2Proof.Machine.execVmov v e s
  | .vsel v e => Sys2Proof.Machine.execVsel v e s
  | .vshl v e => Sys2Proof.Machine.execVshl v e s
  | .vshr v e => Sys2Proof.Machine.execVshr v e s
  | .vcmp v e => Sys2Proof.Machine.execVcmp v e s
  | .vcmpl v e => Sys2Proof.Machine.execVcmpl v e s
  | .vadds v e => Sys2Proof.Machine.execVadds v e s
  | .vsubs v e => Sys2Proof.Machine.execVsubs v e s
  | .vmulrh v e => Sys2Proof.Machine.execVmulrh v e s
  | .vsrr v e => Sys2Proof.Machine.execVsrr v e s
  | .vred v e => Sys2Proof.Machine.execVred v e s
  | .vgete v e => Sys2Proof.Machine.execVgete v e s
  | .vsete v e => Sys2Proof.Machine.execVsete v e s
  | .vsldn v e => Sys2Proof.Machine.execVsldn v e s
  | .vslup v e => Sys2Proof.Machine.execVslup v e s
  | .vbswap v e => Sys2Proof.Machine.execVbswap v e s
  | .klog v e => Sys2Proof.Machine.execKlog v e s
  | .kmov v e => Sys2Proof.Machine.execKmov v e s
  | .kpop v e => Sys2Proof.Machine.execKpop v e s
  | .fadd v e => Sys2Proof.Machine.execFadd v e s
  | .fsub v e => Sys2Proof.Machine.execFsub v e s
  | .fmul v e => Sys2Proof.Machine.execFmul v e s
  | .fma v e => Sys2Proof.Machine.execFma v e s
  | .fmin v e => Sys2Proof.Machine.execFmin v e s
  | .fmax v e => Sys2Proof.Machine.execFmax v e s
  | .fcmp v e => Sys2Proof.Machine.execFcmp v e s
  | .fcvt v e => Sys2Proof.Machine.execFcvt v e s
  | .fcvtf v e => Sys2Proof.Machine.execFcvtf v e s
  | .fsgn v e => Sys2Proof.Machine.execFsgn v e s
  | .fmvx v e => Sys2Proof.Machine.execFmvx v e s
  | .fclass v e => Sys2Proof.Machine.execFclass v e s
  | .vfadd v e => Sys2Proof.Machine.execVfadd v e s
  | .vfsub v e => Sys2Proof.Machine.execVfsub v e s
  | .vfmul v e => Sys2Proof.Machine.execVfmul v e s
  | .vfma v e => Sys2Proof.Machine.execVfma v e s
  | .vfmin v e => Sys2Proof.Machine.execVfmin v e s
  | .vfmax v e => Sys2Proof.Machine.execVfmax v e s
  | .vfcmp v e => Sys2Proof.Machine.execVfcmp v e s
  | .vfcvt v e => Sys2Proof.Machine.execVfcvt v e s
  | .vfsgn v e => Sys2Proof.Machine.execVfsgn v e s
  | .jtagTrstN => Sys2Proof.Machine.execJtagTrstN s
  | .extest c d => Sys2Proof.Machine.execExtest s c d
  | .idcode => Sys2Proof.Machine.execIdcode s
  | .samplePreload c d => Sys2Proof.Machine.execSamplePreload s c d
  | .clamp => Sys2Proof.Machine.execClamp s
  | .highz => Sys2Proof.Machine.execHighz s
  | .extestPulse c d => Sys2Proof.Machine.execExtestPulse s c d
  | .extestTrain c d => Sys2Proof.Machine.execExtestTrain s c d
  | .dap o => Sys2Proof.Machine.execDap s o
  | .bypass op => Sys2Proof.Machine.execBypass s op
  | .channelNodeSelect p g cells => Sys2Proof.Machine.execChannelNodeSelect p g cells s
  | .farWriteResponse v => Sys2Proof.Machine.execFarWriteResponse v s
  | .calderaGated c => Sys2Proof.Machine.execCalderaGated c s
  | .railsRecovered => Sys2Proof.Machine.execRailsRecovered s
  | .signalRestored p n => Sys2Proof.Machine.execSignalRestored p n s
  | .ventRelease c => Sys2Proof.Machine.execVentRelease c s
  | .vfEnable n => Sys2Proof.Machine.execVfEnable n s

end Sys2Proof.Machine
end

