-- ==== Sys2Proof/Machine/Tick.lean ====
section
/-! DEFINITION. One tick of TIMEBASE (R12), with the token bucket of R23 filling. -/

namespace Sys2Proof.Machine

/-- CAPS3.RATE: protected throughput in units of 100 Gbit/s (R338). -/
def capRate (s : State) : Nat :=
  match s.fuses.variant with
  | .sz1600A | .sz1600X => 32
  | .sz1200A => 24
  | .sz0800A => 16

/-- The most tokens the bucket of R23 holds, in bits. -/
def bucketMax : Nat := 2097152

/-- One tick: TIMEBASE counts, and the token bucket gains RATE × 100 bits. While reset holds, neither moves, but for
TIMEBASE after a thermal trip, which stops every island except the always-on one (R363). -/
def tick (s : State) : State :=
  if s.glob.phase = .reset then (if s.power.tripped then { s with timebase := s.timebase + 1 } else s)
  else { s with timebase := s.timebase + 1,
                path := { s.path with tokens := min bucketMax (s.path.tokens + capRate s * 100) } }

end Sys2Proof.Machine
end

