-- ==== Sys2Proof/WellFormed.lean ====
section
/-! DEFINITION. Well-formed commands: those the spec can spell. A vent exists in the family (0 to 95, 96 for the MV), a
class has an opcode for the operation (R187), a 32-bit operation has no second word; numbers of units, channels, rings
and sources lie in their ranges. A command that is not well formed names nothing of the part. -/

namespace Sys2Proof

open Machine

/-- An operation of a vent: the vent exists, the class has its opcode, and a 32-bit operation has no second word. -/
def opWf (k : OpKind) (v : Nat) (e : OpEnc) : Bool :=
  decide (v ≤ 96) && e.op == some k && (e.long || e.hi == 0)

/-- A vent of a caldera. -/
def ventWf (v : Nat) : Bool := decide (v < 96)
/-- A caldera. -/
def calWf (c : Nat) : Bool := decide (c < 12)
/-- A Glaze channel of a port. -/
def chanWf (p g : Nat) : Bool := decide (p < 4) && decide (g < 1024)
/-- A lane of a port. -/
def laneWf (p n : Nat) : Bool := decide (p < 4) && decide (n < 8)
/-- A sub-port. -/
def subWf (src : Nat) : Bool := decide (src < 32)
/-- A DMA channel. -/
def dmaWf (n : Nat) : Bool := decide (n < 256)
/-- A ring. -/
def ringWf (r : Nat) : Bool := decide (r < 4096)

/-- The kind of the operation that a vent's command names. -/
def opKindOf : Instr → Option (OpKind × Nat × OpEnc)
  | .mov v e => some (.mov, v, e)
  | .movi v e => some (.movi, v, e)
  | .add v e => some (.add, v, e)
  | .sub v e => some (.sub, v, e)
  | .addi v e => some (.addi, v, e)
  | .neg v e => some (.neg, v, e)
  | .abs v e => some (.abs, v, e)
  | .adds v e => some (.adds, v, e)
  | .subs v e => some (.subs, v, e)
  | .min v e => some (.min, v, e)
  | .max v e => some (.max, v, e)
  | .minu v e => some (.minu, v, e)
  | .maxu v e => some (.maxu, v, e)
  | .and v e => some (.and, v, e)
  | .or v e => some (.or, v, e)
  | .xor v e => some (.xor, v, e)
  | .andn v e => some (.andn, v, e)
  | .not v e => some (.not, v, e)
  | .shl v e => some (.shl, v, e)
  | .shr v e => some (.shr, v, e)
  | .sar v e => some (.sar, v, e)
  | .rol v e => some (.rol, v, e)
  | .ror v e => some (.ror, v, e)
  | .extu v e => some (.extu, v, e)
  | .exts v e => some (.exts, v, e)
  | .ins v e => some (.ins, v, e)
  | .clz v e => some (.clz, v, e)
  | .popc v e => some (.popc, v, e)
  | .bswap v e => some (.bswap, v, e)
  | .mul v e => some (.mul, v, e)
  | .mulhs v e => some (.mulhs, v, e)
  | .mulhu v e => some (.mulhu, v, e)
  | .cmpeq v e => some (.cmpeq, v, e)
  | .cmpne v e => some (.cmpne, v, e)
  | .cmplt v e => some (.cmplt, v, e)
  | .cmpltu v e => some (.cmpltu, v, e)
  | .cmple v e => some (.cmple, v, e)
  | .cmpleu v e => some (.cmpleu, v, e)
  | .tst v e => some (.tst, v, e)
  | .pand v e => some (.pand, v, e)
  | .por v e => some (.por, v, e)
  | .pxor v e => some (.pxor, v, e)
  | .br v e => some (.br, v, e)
  | .brl v e => some (.brl, v, e)
  | .brf v e => some (.brf, v, e)
  | .brlf v e => some (.brlf, v, e)
  | .jr v e => some (.jr, v, e)
  | .jrl v e => some (.jrl, v, e)
  | .loop v e => some (.loop, v, e)
  | .mts v e => some (.mts, v, e)
  | .mfs v e => some (.mfs, v, e)
  | .syscall v e => some (.syscall, v, e)
  | .brk v e => some (.brk, v, e)
  | .hold v e => some (.hold, v, e)
  | .retm v e => some (.retm, v, e)
  | .rets v e => some (.rets, v, e)
  | .gobroad v e => some (.gobroad, v, e)
  | .barrier v e => some (.barrier, v, e)
  | .isync v e => some (.isync, v, e)
  | .nop v e => some (.nop, v, e)
  | .ld v e => some (.ld, v, e)
  | .lds v e => some (.lds, v, e)
  | .ldf v e => some (.ldf, v, e)
  | .st v e => some (.st, v, e)
  | .stf v e => some (.stf, v, e)
  | .vld v e => some (.vld, v, e)
  | .vst v e => some (.vst, v, e)
  | .vldl v e => some (.vldl, v, e)
  | .vstl v e => some (.vstl, v, e)
  | .pref v e => some (.pref, v, e)
  | .fence v e => some (.fence, v, e)
  | .dcflush v e => some (.dcflush, v, e)
  | .dcinv v e => some (.dcinv, v, e)
  | .icinv v e => some (.icinv, v, e)
  | .div v e => some (.div, v, e)
  | .divu v e => some (.divu, v, e)
  | .rem v e => some (.rem, v, e)
  | .remu v e => some (.remu, v, e)
  | .fdiv v e => some (.fdiv, v, e)
  | .fsqrt v e => some (.fsqrt, v, e)
  | .movs v e _ => some (.movs, v, e)
  | .fils v e _ => some (.fils, v, e)
  | .cmps v e _ => some (.cmps, v, e)
  | .scns v e ne _ => some (if ne then .scnsNe else .scnsEq, v, e)
  | .vkeccak v e _ => some (.vkeccak, v, e)
  | .vntt v e _ => some (.vntt, v, e)
  | .setvl v e => some (.setvl, v, e)
  | .vadd v e => some (.vadd, v, e)
  | .vsub v e => some (.vsub, v, e)
  | .vmul v e => some (.vmul, v, e)
  | .vmulh v e => some (.vmulh, v, e)
  | .vmin v e => some (.vmin, v, e)
  | .vmax v e => some (.vmax, v, e)
  | .vlog v e => some (.vlog, v, e)
  | .vmov v e => some (.vmov, v, e)
  | .vsel v e => some (.vsel, v, e)
  | .vshl v e => some (.vshl, v, e)
  | .vshr v e => some (.vshr, v, e)
  | .vcmp v e => some (.vcmp, v, e)
  | .vcmpl v e => some (.vcmpl, v, e)
  | .vadds v e => some (.vadds, v, e)
  | .vsubs v e => some (.vsubs, v, e)
  | .vmulrh v e => some (.vmulrh, v, e)
  | .vsrr v e => some (.vsrr, v, e)
  | .vred v e => some (.vred, v, e)
  | .vgete v e => some (.vgete, v, e)
  | .vsete v e => some (.vsete, v, e)
  | .vsldn v e => some (.vsldn, v, e)
  | .vslup v e => some (.vslup, v, e)
  | .vbswap v e => some (.vbswap, v, e)
  | .klog v e => some (.klog, v, e)
  | .kmov v e => some (.kmov, v, e)
  | .kpop v e => some (.kpop, v, e)
  | .fadd v e => some (.fadd, v, e)
  | .fsub v e => some (.fsub, v, e)
  | .fmul v e => some (.fmul, v, e)
  | .fma v e => some (.fma, v, e)
  | .fmin v e => some (.fmin, v, e)
  | .fmax v e => some (.fmax, v, e)
  | .fcmp v e => some (.fcmp, v, e)
  | .fcvt v e => some (.fcvt, v, e)
  | .fcvtf v e => some (.fcvtf, v, e)
  | .fsgn v e => some (.fsgn, v, e)
  | .fmvx v e => some (.fmvx, v, e)
  | .fclass v e => some (.fclass, v, e)
  | .vfadd v e => some (.vfadd, v, e)
  | .vfsub v e => some (.vfsub, v, e)
  | .vfmul v e => some (.vfmul, v, e)
  | .vfma v e => some (.vfma, v, e)
  | .vfmin v e => some (.vfmin, v, e)
  | .vfmax v e => some (.vfmax, v, e)
  | .vfcmp v e => some (.vfcmp, v, e)
  | .vfcvt v e => some (.vfcvt, v, e)
  | .vfsgn v e => some (.vfsgn, v, e)
  | _ => none

/-- Well-formed commands. -/
def WellFormed (i : Instr) : Bool :=
  match opKindOf i with
  | some (k, v, e) => opWf k v e
  | none => match i with
    | .lossOfSignal p n | .transmitShort p n | .losClear p n | .signalRestored p n => laneWf p n
    | .immediateAdaptation p n _ => laneWf p n
    | .portLaneclr _ p _ | .reflost p | .referenceRestored p | .breakoutReconfigured p => decide (p < 4)
    | .fecdegWindow p _ => decide (p < 4)
    | .linkUp src _ => subWf src
    | .linkDown src | .subportPick src | .frameTransmitEnd src | .portDownDrop src => subWf src
    | .frameReceive src _ _ _ => subWf src
    | .i2cLineCheck n _ => decide (n < 4)
    | .vfFlr f => decide (1 ≤ f) && decide (f < 64)
    | .busMasterEnable f _ _ => decide (f < 64)
    | .msixUnmask f v _ | .msixTimeout f v => decide (f < 64) && decide (v < 2048)
    | .doorbell f _ bytes => decide (f < 64) && !bytes.isEmpty
    | .ringCtlSkip _ r _ => ringWf r
    | .ringCtlResume _ r | .fromhostDescriptor r _ _ _ | .tohostDelivery r => ringWf r
    | .lockTimeout t => decide (t < 45)
    | .epochFlip src | .sourceBankSwitch src => decide (src < 33)
    | .calderaReplace c | .calderaSeal c | .calderaPowerUp c | .domainOffTimeout c | .calderaGated c
    | .ventRelease c => calWf c
    | .pwrCalgateGate _ c | .pwrCalgatePower _ c => calWf c
    | .inputEntryDelivery v | .txtake v | .isolationComplete v | .watchdog v | .timer v => ventWf v
    | .vinCfg _ v _ | .vinCons _ v _ | .vctlReset _ v | .vnmiRaise _ v | .vintSetMsg _ v | .vintSetSoft _ v
    | .vwdog _ v _ | .easelMarkack v _ | .marklate _ v => ventWf v
    | .holdExpiry v | .asyncEntry v | .loadLanding v | .storeBufferDrain v | .deferqPop v | .farWriteResponse v =>
      decide (v ≤ 96)
    | .farLoadResponse v _ | .longOperationComplete v _ => decide (v ≤ 96)
    | .lceEncrypt n _ _ | .lceDecrypt n _ _ | .lceStagingJob n _ _ | .lceSealJob n _ _ => decide (n < 8)
    | .drainComplete ctx slot => decide (ctx < 65536) && decide (slot < 6)
    | .rackTimeout bucket _ => decide (bucket < 4096)
    | .spillReturn q _ => decide (q < 1048576)
    | .glazeSlotClose p g _ | .channelNodeSelect p g _ => chanWf p g
    | .glazeWireTime p g | .glazeReseed p g => chanWf p g
    | .dchCtlStart _ n | .dchCtlAbort _ n | .descriptorComplete n | .pacingFillChange n => dmaWf n
    | .busError n _ c => dmaWf n && c != .okay
    | .dmaRetry n _ last => dmaWf n && last != some .okay
    | .vfEnable n => decide (n < 64)
    | .railLowReset k | .rail k _ => decide (k < 6)
    | _ => true

end Sys2Proof
end

