-- ==== Sys2Proof/Safety.lean ====
section
/-! DEFINITION. What a safe run is, and the terms in which the statements are made. -/

namespace Sys2Proof.Machine

/-- The two memories are in canonical form. -/
def State.MemOk (s : State) : Prop := Memory.wf s.mem ∧ Memory.wf s.hostMem

/-! ### One operation that is a whole bundle -/

/-- A vent before its next bundle is fetched: the fixed-delay loads that are due have landed (R157, R160). -/
def State.early (s : State) (v : Nat) : Vent := landLoads (ventAt s v) (ventAt s v).fl.bno

/-- The state as a bundle of n words finds it: loads have landed, and its lines have been fetched (R149). -/
def State.foundN (s : State) (v n : Nat) : State := fetchBundle (setVent s v (s.early v)) v (s.early v).pc.toNat n

/-- The state as operation e, a whole bundle, finds it. -/
def State.found (s : State) (v : Nat) (e : OpEnc) : State := s.foundN v (opWords e)

/-- The vent as operation e finds it. -/
def State.fresh (s : State) (v : Nat) (e : OpEnc) : Vent := ventAt (s.found v e) v

/-- What an operation that is a whole bundle reads. -/
def State.ctx (s : State) (v : Nat) (e : OpEnc) : Ctx :=
  { s := s.found v e, v := v, vt := s.fresh v e, pc := (s.fresh v e).pc.toNat, words := opWords e }

/-- The state after operation e, a whole bundle, of which only the vent has changed since it was fetched, to vt. -/
def State.after (s : State) (v : Nat) (e : OpEnc) (vt : Vent) : State := setVent (s.found v e) v vt

/-- A running vent can fetch a bundle of n words now: every byte of it may be executed and can be read, outside the
context cache and no locked port (R149, R135, R243, R264), and no far access or deferred fault of Narrow mode waits (R145,
R238). -/
structure Fetchable (s : State) (v n : Nat) : Prop where
  runs : ventRuns s v = true
  executable : ∀ i < 4 * n, rgnRefuses (s.early v) (ventLevel (s.early v)) (((s.early v).pc.toNat + i) % 2 ^ 32) .ex = none
  readable : ∀ i < n, fetchOk (setVent s v (s.early v)) v (((s.early v).pc.toNat + 4 * i) % 2 ^ 32) = true ∧
    inCache (setVent s v (s.early v)) v (((s.early v).pc.toNat + 4 * i) % 2 ^ 32) = false
  free : fetchBlocked (setVent s v (s.early v)) v (s.early v).pc.toNat n = false
  precise : (s.early v).fl.narrowFault = false ∧ narrowWaits (s.early v) = false ∧ narrowDue (s.early v) = false

/-- Bytes are about to be written to the palette or caldera memory: the vent's outstanding far loads keep what they read
there (R144). -/
def kept (s : State) (w : List (Nat × Byte)) (vt : Vent) : Vent :=
  { vt with fl := { vt.fl with far := keepBytes s.mem (w.map (fun p => p.1)) vt.fl.far } }

/-- The matrix address of an address of a vent's own palette or caldera memory (R258). -/
def ownAddr (v a : Nat) : Nat := if a < 0x40000 then palBase v + a else calBase (v / 8) + (a - 0x100000)

/-- The n bytes from address a on lie in the vent's own palette, or in its caldera memory; the MV has neither (R258). -/
def Own (v a n : Nat) : Prop := v ≠ mvNum ∧ (a + n ≤ 0x40000 ∨ (0x100000 ≤ a ∧ a + n ≤ 0x500000))

/-- Operation e, which the header names as kind k or as a reserved opcode, is a whole bundle that a running vent can fetch
now, with nothing under assembly. -/
structure Fetched (s : State) (v : Nat) (k : OpKind) (e : OpEnc) : Prop extends Fetchable s v (opWords e) where
  first : (ventAt s v).fl.bundle = []
  last : e.last = true
  spelt : opSpelt k e = true

/-- Its encoding is also one that the spec admits (R175, R200). -/
structure Lone (s : State) (v : Nat) (k : OpKind) (e : OpEnc) : Prop extends Fetched s v k e where
  coded : encOk k e (opWords e) (v == mvNum) = true
  fitted : (k == .vkeccak || k == .vntt) = true → hasGlaze (s.found v e) = true

/-- The operation is also enabled by its guard and waits for no register (R162, R185), and the register file holds no error
(R239). -/
structure Issues (s : State) (v : Nat) (k : OpKind) (e : OpEnc) : Prop extends Lone s v k e where
  enabled : guardOn (s.fresh v e) e = true
  ready : issueWaits (s.found v e) (s.fresh v e) [⟨k, e, none⟩] = false
  sound : (s.fresh v e).badRegs = []

/-- A bundle has run, so a step of the debug access port ends (R351). -/
def ended (s : State) (v : Nat) : State := updVent s v (fun vt => { vt with single := false })

/-- The address of the handler of `cause`, raised at the vent's present level, can be read now (R229, R261, R264). -/
def HandlerReady (s : State) (v cause : Nat) : Prop := entryWaits s v cause (ventLevel (ventAt s v)) = false

/-- The state after a bundle that finds state s has raised a precise fault at its operation of index idx and class cls:
nothing of it is done, what a mode shadow held takes effect (R244), and the handler of `cause` is entered with FADDR `fa`,
the return address at the bundle, and the level of before (R201, R230). -/
def raisedIn (s : State) (v cls idx cause fa : Nat) : State :=
  let vt := ventAt s v
  ended (ventEnter
    (setVent s v { applyShadow vt with fl := { vt.fl with
      bundle := []
      narrowFault := false } }) v
    { cause := cause, cls := cls, idx := idx, faddr := fa, rta := vt.pc.toNat, lvl := ventLevel vt, mcact := ventMcact vt }) v

/-- The same for a bundle that is the operation e alone. -/
def raisedAt (s : State) (v : Nat) (e : OpEnc) (cause fa : Nat) : State := raisedIn (s.found v e) v e.cls.toNat 0 cause fa

/-- Operations e1 and e2 are a bundle that a running vent can fetch now: the first is under assembly, and the second, its
last, is handed to the vent. -/
structure Pair (s : State) (v : Nat) (k1 : OpKind) (e1 : OpEnc) (k2 : OpKind) (e2 : OpEnc) : Prop
    extends Fetchable s v (opWords e1 + opWords e2) where
  first : (ventAt s v).fl.bundle = [(k1, e1, none)]
  ends : e1.last = false ∧ e2.last = true
  spelt : opSpelt k2 e2 = true
  coded : encOk k1 e1 (opWords e1 + opWords e2) (v == mvNum) = true ∧ encOk k2 e2 (opWords e1 + opWords e2) (v == mvNum) = true

/-- A vent whose bundle has completed and which goes on at address t: the bundle counts, none is under assembly, and a step
of the debug access port ends (R351). -/
def wentTo (vt : Vent) (t : Nat) : Vent :=
  { vt with
    pc := BitVec.ofNat 32 t
    single := false
    fl := { vt.fl with
      bundle := []
      bno := vt.fl.bno + 1
      seq := vt.fl.seq + 1 }
    evt := { vt.evt with perfIssue := vt.evt.perfIssue + 1 } }

/-- A vent whose bundle of n words at address pc has completed without a taken branch: what a mode shadow held takes
effect (R244), and the next bundle is the one after it, or the one a loop goes back to (R198). -/
def wentFrom (vt : Vent) (pc n : Nat) : Vent :=
  let x := loopCheck (applyShadow vt) pc 4
  wentTo x.1 (x.2.getD ((pc + 4 * n) % 2 ^ 32))

/-- The same for a bundle at the vent's own pc. -/
def wentOn (vt : Vent) (n : Nat) : Vent := wentFrom vt vt.pc.toNat n

/-- The bits of a system register that MTS writes (R179 and the register tables it names), for the registers that keep
what is written in them. -/
def sregMask (n : Nat) : Word :=
  if n = 0x01 then 0x107
  else if n = 0x02 then 0x1F03
  else if n = 0x03 then 0x1F
  else if n = 0x05 then 3
  else if n = 0x06 then 0x3F
  else if n = 0x08 then 0x7F
  else if n = 0x0A then 0xFFF
  else if n = 0x0B then 0x00FF1FFF
  else if 0x10 ≤ n ∧ n ≤ 0x13 then 0xFFFFFFFF
  else if 0x14 ≤ n ∧ n ≤ 0x1B then 0xFFFFFFFC
  else if 0x1C ≤ n ∧ n ≤ 0x1F then 0xFFFFFFFF
  else if 0x20 ≤ n ∧ n ≤ 0x23 then 0x7FFFF
  else if n = 0x40 ∨ n = 0x48 then 0xFFFFFFFC
  else if n = 0x41 ∨ n = 0x49 then 0xFF
  else if n = 0x42 ∨ n = 0x4A then 0x0FFF7F3F
  else if n = 0x43 ∨ n = 0x4B then 0xFFFFFFFF
  else if n = 0x44 ∨ n = 0x4C then 0xFFFFFF00
  else if 0x50 ≤ n ∧ n ≤ 0x53 then 0xFFFFF003
  else 0

/-- Where a resumable operation's command says an asynchronous event stops it. -/
def stopOf : Instr → Option Nat
  | .movs _ _ st | .fils _ _ st | .cmps _ _ st | .scns _ _ _ st | .vkeccak _ _ st | .vntt _ _ st => st
  | _ => none

/-! ### Operands -/

/-- Operand D of an operation of format R or M. -/
def opD (k : OpKind) (e : OpEnc) : Opnd := (opOperands k e).1.1
/-- Operand A. -/
def opA (k : OpKind) (e : OpEnc) : Opnd := (opOperands k e).1.2.1
/-- Operand B. -/
def opB (k : OpKind) (e : OpEnc) : Opnd := (opOperands k e).1.2.2

/-- What operand A is found to be: its value, faults, and the update of its address register (R177, R181). -/
def srcA (s : State) (v : Nat) (k : OpKind) (e : OpEnc) : SrcRes := srcOpnd (s.ctx v e) (2 ^ fSZ e) (opSigned k) (opA k e)
/-- What operand B is found to be. -/
def srcB (s : State) (v : Nat) (k : OpKind) (e : OpEnc) : SrcRes := srcOpnd (s.ctx v e) (2 ^ fSZ e) (opSigned k) (opB k e)

/-- A scalar register as a word. -/
def regOf (vt : Vent) (n : Nat) : Word := fget 0 vt.r n

/-! ### What the scalar operations compute (R188, R190) -/

/-- The operations of S and AG that compute a 32-bit result from A and B. -/
def scalarKinds : List OpKind :=
  [.mov, .add, .sub, .neg, .abs, .adds, .subs, .min, .max, .minu, .maxu, .and, .or, .xor, .andn, .not, .shl, .shr, .sar,
   .rol, .ror, .extu, .exts, .ins, .clz, .popc, .bswap, .mul, .mulhs, .mulhu]

/-- An exact integer clamped to the signed range of w bits. -/
def clampTo (w : Nat) (x : Int) : Int := max (-(2 ^ (w - 1) : Int)) (min (2 ^ (w - 1) - 1 : Int) x)

/-- The lowest bit of the field that B names for EXTU, EXTS and INS. -/
def fieldLow (b : Word) : Nat := b.toNat % 32
/-- Its width: B[9:5] + 1, ended at bit 31. -/
def fieldLen (b : Word) : Nat := min (b.toNat / 32 % 32 + 1) (32 - b.toNat % 32)

/-- The exact signed sum, difference, negation or magnitude that ADD, SUB, ADDS, SUBS, NEG and ABS compute. -/
def exactResult (k : OpKind) (a b : Word) : Int :=
  match k with
  | .add | .adds => a.toInt + b.toInt
  | .sub | .subs => a.toInt - b.toInt
  | .neg => -a.toInt
  | .abs => (a.toInt.natAbs : Int)
  | _ => 0

/-- The 32-bit result of an operation whose destination is w bits wide and holds d. -/
def scalarResult (k : OpKind) (w : Nat) (a b d : Word) : Word :=
  match k with
  | .mov => a
  | .add => a + b
  | .sub => a - b
  | .neg => -a
  | .abs => if a.toInt < 0 then -a else a
  | .adds => BitVec.ofInt 32 (clampTo w (a.toInt + b.toInt))
  | .subs => BitVec.ofInt 32 (clampTo w (a.toInt - b.toInt))
  | .min => if a.toInt ≤ b.toInt then a else b
  | .max => if a.toInt ≤ b.toInt then b else a
  | .minu => if a ≤ b then a else b
  | .maxu => if a ≤ b then b else a
  | .and => a &&& b
  | .or => a ||| b
  | .xor => a ^^^ b
  | .andn => a &&& ~~~b
  | .not => ~~~a
  | .shl => a <<< (b.toNat % 64)
  | .shr => a >>> (b.toNat % 64)
  | .sar => a.sshiftRight (b.toNat % 64)
  | .rol => a.rotateLeft (b.toNat % 64 % 32)
  | .ror => a.rotateRight (b.toNat % 64 % 32)
  | .extu => (a >>> fieldLow b) &&& BitVec.ofNat 32 (2 ^ fieldLen b - 1)
  | .exts => (a <<< (32 - fieldLow b - fieldLen b)).sshiftRight (32 - fieldLen b)
  | .ins =>
    let m : Word := BitVec.ofNat 32 (2 ^ fieldLen b - 1) <<< fieldLow b
    (d &&& ~~~m) ||| ((a <<< fieldLow b) &&& m)
  | .clz => BitVec.ofNat 32 ((List.range 32).takeWhile (fun i => !a.getLsbD (31 - i))).length
  | .popc => BitVec.ofNat 32 ((List.range 32).filter (fun i => a.getLsbD i)).length
  | .bswap => a.extractLsb' 0 8 ++ a.extractLsb' 8 8 ++ a.extractLsb' 16 8 ++ a.extractLsb' 24 8
  | .mul => a * b
  | .mulhs => ((a.signExtend 64 * b.signExtend 64) >>> 32).truncate 32
  | .mulhu => ((a.zeroExtend 64 * b.zeroExtend 64) >>> 32).truncate 32
  | _ => 0

/-- The ASTAT flag an S operation sets: OV or SAT when the exact signed result does not fit w bits (R177, R190). -/
def scalarFlags (k : OpKind) (w : Nat) (a b : Word) : Word :=
  if clampTo w (exactResult k a b) = exactResult k a b then 0
  else match k with
    | .add | .sub | .neg | .abs => 1
    | .adds | .subs => 4
    | _ => 0

/-- The predicate a compare or TST writes (R188). -/
def compareResult (k : OpKind) (a b : Word) : Bool :=
  match k with
  | .cmpeq => a == b
  | .cmpne => a != b
  | .cmplt => decide (a.toInt < b.toInt)
  | .cmpltu => decide (a < b)
  | .cmple => decide (a.toInt ≤ b.toInt)
  | .cmpleu => decide (a ≤ b)
  | .tst => a &&& b != 0
  | _ => false

/-- The compares and TST. -/
def compareKinds : List OpKind := [.cmpeq, .cmpne, .cmplt, .cmpltu, .cmple, .cmpleu, .tst]

/-- What a division writes (R190): division by zero, 0x80000000 by −1, and quotients truncated toward zero. -/
def divideResult (k : OpKind) (a b : Word) : Word :=
  match k with
  | .div => if b = 0 then (if a.toInt < 0 then 0x80000000 else 0x7FFFFFFF) else BitVec.ofInt 32 (a.toInt.tdiv b.toInt)
  | .divu => if b = 0 then 0xFFFFFFFF else a / b
  | .rem => if b = 0 then a else BitVec.ofInt 32 (a.toInt.tmod b.toInt)
  | _ => if b = 0 then a else a % b

/-- The ASTAT flags a division sets as it issues: DZ for a zero divisor, OV for 0x80000000 by −1 (R190). -/
def divideFlags (k : OpKind) (a b : Word) : Word :=
  if b = 0 then 2
  else if (k = .div ∨ k = .rem) ∧ a = 0x80000000 ∧ b = 0xFFFFFFFF then 1 else 0

/-! ### What the vector operations compute on one element (R212, R214) -/

/-- The vector operations that compute each active element from the same element of A and of B. -/
def elementKinds : List OpKind :=
  [.vadd, .vsub, .vmul, .vmulh, .vmin, .vmax, .vlog, .vshl, .vshr, .vadds, .vsubs, .vmulrh, .vsrr, .vbswap]

/-- An exact integer clamped to the unsigned range of w bits. -/
def clampUnsigned (w : Nat) (x : Int) : Int := max 0 (min (2 ^ w - 1 : Int) x)

/-- The exact value that a saturating operation clamps; `u` reads the elements as unsigned. -/
def exactElement (k : OpKind) (u : Bool) (fxrm : Nat) {w : Nat} (a b : BitVec w) : Int :=
  let x : Int := if u then a.toNat else a.toInt
  let y : Int := if u then b.toNat else b.toInt
  match k with
  | .vadds => x + y
  | .vsubs => x - y
  | _ => rshift fxrm (a.toInt * b.toInt) (w - 1)

/-- The result element of width w for sub-operation `sub` and rounding mode `fxrm`. -/
def elementResult (k : OpKind) (sub fxrm : Nat) {w : Nat} (a b : BitVec w) : BitVec w :=
  let sh := b.toNat % 64
  match k with
  | .vadd => a + b
  | .vsub => a - b
  | .vmul => a * b
  | .vmulh =>
    if sub = 0 then ((a.signExtend (2 * w) * b.signExtend (2 * w)) >>> w).truncate w
    else ((a.zeroExtend (2 * w) * b.zeroExtend (2 * w)) >>> w).truncate w
  | .vmin => if (if sub = 0 then decide (a.toInt ≤ b.toInt) else decide (a ≤ b)) then a else b
  | .vmax => if (if sub = 0 then decide (a.toInt ≤ b.toInt) else decide (a ≤ b)) then b else a
  | .vlog => if sub = 0 then a &&& b else if sub = 1 then a ||| b else if sub = 2 then a ^^^ b else a &&& ~~~b
  | .vshl => a <<< sh
  | .vshr => if sub = 0 then a >>> sh else a.sshiftRight sh
  | .vadds | .vsubs =>
    if sub = 0 then BitVec.ofInt w (clampTo w (exactElement k false fxrm a b))
    else BitVec.ofInt w (clampUnsigned w (exactElement k true fxrm a b))
  | .vmulrh => BitVec.ofInt w (clampTo w (exactElement k false fxrm a b))
  | .vsrr => BitVec.ofInt w (rshift fxrm (if sub = 0 then a.toInt else a.toNat) sh)
  | _ => BitVec.ofNat w (leNat ((leBytes (w / 8) a.toNat).reverse))

/-- Whether the element was clamped, which sets ASTAT.SAT. -/
def elementClamped (k : OpKind) (sub fxrm : Nat) {w : Nat} (a b : BitVec w) : Bool :=
  match k with
  | .vadds | .vsubs =>
    if sub = 0 then decide (clampTo w (exactElement k false fxrm a b) ≠ exactElement k false fxrm a b)
    else decide (clampUnsigned w (exactElement k true fxrm a b) ≠ exactElement k true fxrm a b)
  | .vmulrh => decide (clampTo w (exactElement k false fxrm a b) ≠ exactElement k false fxrm a b)
  | _ => false

/-- Element i of width w of V register n. -/
def elemOf (vt : Vent) (n w i : Nat) : BitVec w := (fget 0 vt.vec.v n).extractLsb' (i * w) w

/-- Operand B of a vector operation as element i: a V register's element, or one scalar or immediate for all (R204). -/
def elemB (vt : Vent) (e : OpEnc) (w i : Nat) : BitVec w :=
  if fBX e then (regOf vt (fB e)).signExtend w
  else if fBI e then (BitVec.ofNat 16 (fIMM e)).signExtend w
  else elemOf vt (fB e) w i

/-- The elements of width w under VL (R203). -/
def elemCount (vt : Vent) (w : Nat) : Nat := vt.vec.vl.toNat * 8 / w

/-- Whether element i of width w is active (R206). -/
def elemActive (vt : Vent) (e : OpEnc) (w i : Nat) : Prop := i < elemCount vt w ∧ (kReg vt (fKM e)).testBit i = true

/-- VL is at most VLENB at every vent (R203). -/
def State.VlOk (s : State) : Prop := ∀ v, (ventAt s v).vec.vl.toNat ≤ vlenb s

/-- The vent with V register n replaced. -/
def putVec (vt : Vent) (n : Nat) (x : BitVec 512) : Vent := { vt with vec := { vt.vec with v := fset n x vt.vec.v } }

/-- The vent with K register n replaced, or as it is where n is 0 (R202). -/
def putMask (vt : Vent) (n : Nat) (x : DWord) : Vent :=
  if n = 0 then vt else { vt with vec := { vt.vec with k := fset n x vt.vec.k } }

/-- The vent with FPFLAGS gaining flags. -/
def addFlags (vt : Vent) (f : Nat) : Vent :=
  { vt with vec := { vt.vec with fpflags := vt.vec.fpflags ||| BitVec.ofNat 32 f } }

/-! ### Refused accesses -/

/-- Region entry n is enabled and covers address a (R242). -/
def RgnCovers (vt : Vent) (n a : Nat) : Prop :=
  let x := (fget 0 vt.rgn n).toNat
  let size := x / 2 % 32
  let base := x / 2 ^ 44 * 4096 / 2 ^ size * 2 ^ size
  x % 2 = 1 ∧ 12 ≤ size ∧ base ≤ a ∧ a < base + 2 ^ size

/-- The region table refuses an access of kind k to address a at level lvl for the reason `why`: 6 where the lowest-numbered
entry that covers a denies it, 7 where below M none covers it (R242, R243). -/
def RgnRefused (vt : Vent) (lvl a : Nat) (k : Acc) (why : Nat) : Prop :=
  let bit := 6 + 3 * min lvl 2 + (match k with
    | .rd => 0
    | .wr => 1
    | .ex => 2)
  (why = 6 ∧ ∃ n < 16, RgnCovers vt n a ∧ (∀ m < n, ¬RgnCovers vt m a) ∧ (fget 0 vt.rgn n).getLsbD bit = false) ∨
  (why = 7 ∧ lvl ≠ 3 ∧ ∀ n < 16, ¬RgnCovers vt n a)

/-- A byte that a vent may not access even where the region table admits it: in a context cache area (R135), or, for a store,
in a write-protected range of its caldera memory (R332). -/
def KeptByte (c : Ctx) (k : Acc) (a : Nat) : Prop :=
  inCacheArea c.s (ventLoc c.vt c.v a) = true ∨
  k = .wr ∧ ∃ o, ventLoc c.vt c.v a = .cal o ∧ calProt c.s (c.v / 8) o = true

/-- A data access of n bytes at address a, aligned or not, is refused with this cause and FADDR: 5, then 7, then 6 (R184,
R232, R243). `own` admits the vent's palette and caldera memory alone (R161). -/
def AccRefused (c : Ctx) (k : Acc) (a n : Nat) (own : Bool) (cause faddr : Nat) : Prop :=
  let loc := ventLoc c.vt c.v a
  let miss := RgnRefused c.vt c.lvl a k 7
  let denied := RgnRefused c.vt c.lvl a k 6 ∨ loc = .none ∨ own = true ∧ loc.isLocal = false
  (a % n ≠ 0 ∧ cause = 5 ∧ faddr = a) ∨
  (a % n = 0 ∧ miss ∧ cause = 7 ∧ faddr = a) ∨
  (a % n = 0 ∧ ¬miss ∧ denied ∧ cause = 6 ∧ faddr = a) ∨
  (a % n = 0 ∧ ¬miss ∧ ¬denied ∧ cause = 6 ∧ ∃ i < n, KeptByte c k ((a + i) % 2 ^ 32) ∧
    (∀ j < i, ¬KeptByte c k ((a + j) % 2 ^ 32)) ∧ faddr = (a + i) % 2 ^ 32)

/-! ### Register writes -/

/-- Whether a master's register command reaches the register blocks: it can send requests, and of the host's functions
only the PF maps them (R282, R351). -/
def CanWrite (s : State) (m : Master) : Prop := masterReady s m = true ∧ ∀ f, m = .host f → f = 0

/-! ### Admin commands -/

/-- The MV accepts descriptor d of the PF from ring 0, which is x, at once: nothing earlier is in progress, and the
descriptor has OPCODE `op` of R300's table, a parameter block of `plen` bytes and a result buffer as a command that returns
`rlen` bytes needs, or none (R293, R299, R300, R371, R372). -/
structure Accepts (s : State) (x : Ring) (d : AdmDesc) (op plen rlen : Nat) : Prop where
  names : d.opcode = op ∧ admOpcode op = true
  ready : admReady s = true
  ring : ringAt s 0 = some x
  idle : ∀ c ∈ s.adm.cmds, c.status.isSome = true ∧ c.id ≠ s.adm.nextId
  owner : d.issuer = 0 ∧ d.rsv = false
  params : d.plen.toNat = plen ∧ d.paddr.toNat % 8 = 0 ∧ (plen = 0 → d.paddr = 0)
  results : d.raddr.toNat % 8 = 0 ∧ (if rlen = 0 then d.rlen = 0 ∧ d.raddr = 0 else rlen ≤ d.rlen.toNat)

/-- The state after descriptor d of ring 0 has been accepted: the part has read it from the host, the ring has moved on,
and the command stands last among the accepted ones, ended with `status` and `result`, or in progress. `reads` are the
buffers that the command reads from the host, each an address and a length. -/
def taken (s : State) (x : Ring) (d : AdmDesc) (status : Option Nat) (result : Nat) (objs : List AdmObj)
    (reads : List (Nat × Nat) := []) : State :=
  let next := (x.cons + 1) % 2 ^ x.log
  let ring : Ring := { x with
    cons := next
    entries := x.entries + 1 }
  { s with
    hb := { (admAsk s x d reads).hb with rings := fset 0 ring s.hb.rings }
    adm := { s.adm with
      nextId := s.adm.nextId + 1
      cmds := s.adm.cmds ++ [{
        id := s.adm.nextId
        tag := d.tag
        sqhead := next
        status := status
        result := result
        objs := objs }] } }

/-- n zero bytes. -/
def zeros (n : Nat) : List Byte := List.replicate n 0

end Sys2Proof.Machine
end

