-- ==== Sys2Proof/Certificates/Slice0/Obligations.lean ====
section
/-! DEFINITION. The statements for the provers (OBLIGATIONS.json). -/

open Sys2Proof Sys2Proof.Machine

/-- R26, R82, R83, R102, R117, R119, R301, R306, R308, R309, R310: the admin commands that write Sketch. Each accepted
command ends
with OK and writes its item into Sketch alone: a context's block, an exact-match or wildcard rule or its removal, a weight
profile, a Glaze profile or table pair, a sub-port's attributes; PORT_SET changes the maximum frame size at once, and a
breakout change takes the port down and waits. The commands that only write Sketch are BUSY while a swap is pending.
Rests on the model's choices of log entries 26 and 27. -/
def Obligations.sketchCommands : Prop :=
  ∀ (s : State) (x : Ring) (d : AdmDesc),
    let e := sketchE s
    let sk := setAt s e
    let blk := fun (c b : Nat) (t : State) => updCtx t c (fun r => setBlk r e (BitVec.ofNat 384 b))
    let ends := fun (i : Instr) (result : Nat) (g : State → State) =>
      ∃ objs, exec i s = .next (g (taken s x d (some 0) result objs))
    let busy := fun (c : AdmCmd) (reads : List (Nat × Nat)) =>
      let adm : Adm := { s.adm with
        stopped := true
        nextId := s.adm.nextId + 1
        cmds := s.adm.cmds ++ [c] }
      ({ admAsk s x d reads with adm := adm } : State)
    let busied := fun (i : Instr) (reads : List (Nat × Nat)) =>
      s.sets.pending = true → ∃ c, exec i s = .next (busy c reads) ∧ c.status = some 2 ∧ c.atAccept = true ∧ c.tag = d.tag
    let busies := fun (i : Instr) => busied i []
    let writes := fun (i : Instr) (result : Nat) (g : ConfigSet → ConfigSet) =>
      (s.sets.pending = false → ends i result (fun t => updSet t e g)) ∧
      busies i
    (Accepts s x d 0x01 56 0 → ∀ c < 65536, ∀ b < 2 ^ 384, pbBad b = false →
      let i := Instr.ctxCreate d (some (leBytes 2 c ++ zeros 6 ++ leBytes 48 b))
      (s.sets.pending = false → pbValid (blkOf (ctxAt s c) e) = false → ends i 0 (blk c (b / 2 * 2 + 1))) ∧ busies i) ∧
    (Accepts s x d 0x02 64 0 → ∀ c < 65536, ∀ mask < 2 ^ 48, ∀ bs : List Byte, bs.length = 48 →
      let old := leBytes 48 (blkOf (ctxAt s c) e)
      let b := leNat ((List.range 48).map (fun i => if mask.testBit i then bs.getD i 0 else old.getD i 0))
      let i := Instr.ctxUpdate d (some (leBytes 2 c ++ leBytes 6 mask ++ bs ++ zeros 8))
      (s.sets.pending = false → (pbValid b = false ∨ pbBad b = false) → ends i 0 (blk c b)) ∧ busies i) ∧
    (Accepts s x d 0x07 64 0 → ∀ (key : List Byte) (a c rd : Nat), key.length = 24 → a ≤ 4 → c < 65536 → rd < 65536 →
      let res : RuleRes := { action := a, ctx := c, rdata := rd }
      let tail := [BitVec.ofNat 8 a, 0] ++ leBytes 2 c ++ leBytes 2 rd ++ zeros 26
      let places := (List.range 8).map (fun i => Config.emPosition key i % 131072)
      (byteAt key 0 ≤ 32 → byteAt key 1 ≤ 3 → (∀ i, emKeyLen (byteAt key 1) ≤ i → byteAt key i = 0) →
        (∀ i, (emFind sk key = some i ∨ emFind sk key = none ∧ places.find? (fun i => !fhas sk.em i) = some i) →
          writes (.ruleWriteSet d (some (zeros 8 ++ key ++ tail))) i (fun k => { k with em := fset i { key := key, res := res } k.em })) ∧
        (∀ i, emFind sk key = some i →
          writes (.ruleWriteRemove d (some ([0, 1] ++ zeros 6 ++ key ++ zeros 32))) 0 (fun k => { k with em := fdel i k.em })) ∧
        (emFind sk key = none →
          writes (.ruleWriteRemove d (some ([0, 1] ++ zeros 6 ++ key ++ zeros 32))) 0xFFFFFFFF (fun k => k))) ∧
      (∀ i < 16384,
        writes (.ruleWriteSet d (some ([1, 0, 0, 0] ++ leBytes 4 i ++ key ++ tail))) 0
          (fun k => { k with wild := fset i { value := key.take 12, mask := key.drop 12, res := res } k.wild }) ∧
        (fhas sk.wild i = true → writes (.ruleWriteRemove d (some ([1, 1, 0, 0] ++ leBytes 4 i ++ key ++ zeros 32))) 0
          (fun k => { k with wild := fdel i k.wild })) ∧
        (fhas sk.wild i = false → writes (.ruleWriteRemove d (some ([1, 1, 0, 0] ++ leBytes 4 i ++ key ++ zeros 32))) 0xFFFFFFFF
          (fun k => k)))) ∧
    (Accepts s x d 0x09 16 0 → ∀ w < 4096, ∀ cls < 8, ∀ q, 256 ≤ q → q < 65536 →
      writes (.queueCreateWprof d (some ([1, 0, 0, 0] ++ leBytes 2 w ++ zeros 2 ++ leBytes 4 (cls + 8 * q) ++ zeros 4))) 0
        (fun k => { k with wprof := fset w (BitVec.ofNat 19 (cls + 8 * q)) k.wprof })) ∧
    (Accepts s x d 0x0C 72 0 → hasGlaze s = true → ∀ p < 4, ∀ g < 1024, ∀ y < 2 ^ 512,
      (∀ f ∈ profFields y, f.1 = false) → profCheck s p y = none →
        writes (.glazeProfileProfile d (some ([0, BitVec.ofNat 8 p] ++ leBytes 2 g ++ zeros 4 ++ leBytes 64 y))) 0
          (fun k => { k with gprof := fset (1024 * p + g) (BitVec.ofNat 512 y) k.gprof })) ∧
    (Accepts s x d 0x0C 24 0 → hasGlaze s = true → ∀ n < 32, ∀ a < 2 ^ 64, ∀ bs : List Byte, bs.length = 24576 → tableOk (tablePair bs) = true →
      (∀ k < 4096, (tablePair bs).sizes.getD k 0 = leNat (slice bs (2 * k) 2) ∧
        (tablePair bs).intervals.getD k 0 = leNat (slice bs (8192 + 4 * k) 4)) ∧
      (let i := Instr.glazeProfileTable d (some ([1, BitVec.ofNat 8 n] ++ zeros 6 ++ leBytes 8 a ++ zeros 8)) (some bs);
        (s.sets.pending = false → ∃ objs, exec i s = .next (updSet (taken s x d (some 0) 0 objs [(a, 24576)]) e
          (fun k => { k with tables := fset n (tablePair bs) k.tables }))) ∧ busied i [(a, 24576)]) ∧
      (let i := Instr.glazeProfileTable d (some ([1, BitVec.ofNat 8 n, 1] ++ zeros 5 ++ leBytes 8 a ++ zeros 8)) none;
        (spanLocked .mv a 24576 s = true → exec i s = .next s) ∧
        (spanLocked .mv a 24576 s = false → tableSrcOk s a = true → (matRead .mv a 24576 s).1 = .okay →
          (matRead .mv a 24576 s).2.1 = bs → writes i 0 (fun k => { k with tables := fset n (tablePair bs) k.tables })))) ∧
    (Accepts s x d 0x0B 16 0 → ∀ src < 32, subExists s src = true →
      (∀ m, m % 2 = 0 → 1518 ≤ m → m ≤ 9800 →
        ends (.portSet d (some ([BitVec.ofNat 8 src, 2] ++ zeros 2 ++ leBytes 2 m ++ zeros 10))) 0
          (fun t => { t with subs := fset src { subAt s src with maxframe := m } s.subs })) ∧
      (∀ (role miss check : Bool) (partner ring : Nat), ring < 65536 → partner ≠ src →
        (partner = 0xFF ∨ partner < 32 ∧ ((fget {} sk.sub partner).partner ≠ src ∨
          brkRate (portAt s (src / 8)).brkout = brkRate (portAt s (partner / 8)).brkout)) →
        let bit := fun (b : Bool) => (if b then 1 else 0 : Byte)
        writes (.portSet d (some ([BitVec.ofNat 8 src, 4, 0, 0, 0, 0, bit role, BitVec.ofNat 8 partner, bit miss, bit check] ++
            leBytes 2 ring ++ zeros 4))) 0
          (fun k =>
            let a : SubAttr := {
              cipher := role
              partner := partner
              missHost := miss
              check := check
              missq := ring }
            { k with sub := fset src a k.sub })) ∧
      (∀ b : BitVec 2, b ≠ (portAt s (src / 8)).brkout → src % 8 < brkCount b →
        portPaired s.sets.set0 (src / 8) = false → portPaired s.sets.set1 (src / 8) = false →
        ∃ objs, exec (.portSet d (some ([BitVec.ofNat 8 src, 1, BitVec.ofNat 8 b.toNat] ++ zeros 13))) s =
          .next (updPort (portDown (taken s x d none 0 objs) (src / 8) 4) (src / 8)
            (fun y => { y with newBrk := some (b, s.adm.nextId) }))))

/-- R59, R60, R66, R72, R73, R75, R78, R79, R80, R302 to R305, R314, R336: the admin commands on keys. The commands that load or
retire a slot come after the TXTAKE requests that reached the store before them (u). KEY_LOAD installs into a slot that
is EMPTY or SEALED, is BUSY for a LIVE transmit slot, and any other slot starts to drain, noting the frames that have
selected it; KEY_RETIRE does nothing to an EMPTY slot, else it starts the drain and lets a READY slot take over; work for
the sealed caldera joins the queue. Rests on the model's choices of log entries 26, 28, 29 and 50. -/
def Obligations.keyCommands : Prop :=
  ∀ (r : State) (x : Ring) (d : AdmDesc),
    (let s := txFlush r
    Accepts s x d 0x03 48 0 → ∀ (c k klen an tag init expiry limit a : Nat) (key salt : List Byte), c < 65536 → k < 6 → klen < 2 →
      key.length = (if klen = 0 then 16 else 32) → salt.length ∈ [0, 4, 12] → tag < 2 ^ 32 → init < 2 ^ 64 → expiry < 2 ^ 64 →
      limit < 2 ^ 56 → a < 2 ^ 64 → (if k < 2 then an < 4 ∧ init ≠ 0 else an = 0 ∧ ((winAt s c k).wok = true ∨ winFree s ≠ 0)) →
      let p := leBytes 2 c ++ [BitVec.ofNat 8 k, BitVec.ofNat 8 klen, BitVec.ofNat 8 salt.length, BitVec.ofNat 8 an, 0, 0] ++
        leBytes 4 tag ++ zeros 4 ++ leBytes 8 init ++ leBytes 8 expiry ++ leBytes 7 limit ++ [0] ++ leBytes 8 a
      let st := (slotAt s c k).state
      let new : KeySlot := {
        key := BitVec.ofNat 256 (leNat key)
        salt := BitVec.ofNat 96 (leNat salt)
        hsub := BitVec.ofNat 128 (leNat (aesHsub key))
        tagid := BitVec.ofNat 32 tag }
      let held : SlotMeta := {
        expiry := BitVec.ofNat 64 expiry
        limit := BitVec.ofNat 56 limit
        an := BitVec.ofNat 2 an
        klen := BitVec.ofNat 2 klen }
      let reads := [(a, key.length + salt.length)]
      let i := Instr.keyLoad d (some p) (some (key ++ salt))
      (st = .empty ∨ st = .slotSealed → ∃ t objs, exec i r = .next t ∧
        t = { taken s x d (some 0) 0 objs reads with
          store := t.store
          freeCtr := t.freeCtr } ∧
        keyAt t c k = new ∧ 6 * c + k ∉ t.store.ueKeys ∧
        slotAt t c k = { held with state := if k < 2 ∧ (slotAt s c (1 - k)).state = .live then .ready else .live } ∧
        (k < 2 → fget 0 (ctxAt t c).next k = BitVec.ofNat 64 init ∧ ((slotAt s c (1 - k)).state ≠ .live →
          (ctxAt t c).curTx = (k == 1) ∧ (ctxAt t c).noKeySent = false)) ∧
        (2 ≤ k → fget 0 (ctxAt t c).high k = BitVec.ofNat 64 init ∧ (winAt t c k).wok = true ∧
          winBits t (winAt t c k).handle = 0 ∧ ((winAt s c k).wok = true → (winAt t c k).handle = (winAt s c k).handle)) ∧
        ∀ c' k', k' < 6 → (c' ≠ c ∨ k' ≠ k) → keyAt t c' k' = keyAt s c' k' ∧ slotAt t c' k' = slotAt s c' k') ∧
      (k < 2 → st = .live → ∃ y, exec i r = .next { admAsk s x d reads with adm := { s.adm with
          stopped := true
          nextId := s.adm.nextId + 1
          cmds := s.adm.cmds ++ [y] } } ∧ y.status = some 2) ∧
      (st ≠ .empty → st ≠ .slotSealed → (k < 2 ∧ st ≠ .live ∨ 2 ≤ k ∧ (winAt s c k).wok = true) → ∃ objs,
        exec i r = .next (
          let t := updSlot (taken s x d none 0 objs reads) c k (fun m => { m with state := .draining })
          { t with store := { t.store with drains := t.store.drains ++ [{
            ctx := c
            slot := k
            load := some (new, held, BitVec.ofNat 64 init)
            cmd := s.adm.nextId
            frames := rxFrames (taken s x d none 0 objs reads) c k }] } }))) ∧
    (let s := txFlush r
    Accepts s x d 0x06 8 0 → ∀ c < 65536, ∀ k < 6,
      let i := Instr.keyRetire d (some (leBytes 2 c ++ [BitVec.ofNat 8 k] ++ zeros 5))
      let st := (slotAt s c k).state
      let o := 1 - k
      let rolls := k < 2 ∧ (ctxAt s c).curTx = (k == 1) ∧ (st = .live ∨ st = .spent) ∧ (slotAt s c o).state = .ready
      (st = .empty → ∃ objs, exec i r = .next (taken s x d (some 0) 0 objs)) ∧
      (st ≠ .empty → ∃ t objs, exec i r = .next t ∧
        t = { taken s x d none 0 objs with
          store := t.store
          hb := t.hb
          hostMem := t.hostMem } ∧
        slotAt t c k = { slotAt s c k with state := .draining } ∧ keyAt t c k = keyAt s c k ∧
        t.store.drains = s.store.drains ++ [{
          ctx := c
          slot := k
          load := none
          cmd := s.adm.nextId
          frames := rxFrames (taken s x d none 0 objs) c k }] ∧
        (rolls → slotAt t c o = { slotAt s c o with state := .live } ∧ (ctxAt t c).curTx = !(ctxAt s c).curTx) ∧
        (¬rolls → (∀ j, j ≠ k → slotAt t c j = slotAt s c j) ∧ (ctxAt t c).curTx = (ctxAt s c).curTx ∧
          t.hb = (taken s x d none 0 objs).hb ∧ t.hostMem = s.hostMem))) ∧
    let queues := fun (s : State) (i : Instr) (w : KeyWork) (reads : List (Nat × Nat)) => ∃ t objs, exec i r = .next t ∧
      t = { taken s x d none 0 objs reads with
        store := t.store
        freeCtr := t.freeCtr } ∧ t.store.kemQueue = s.store.kemQueue ++ [(s.adm.nextId, w)] ∧
      t.store.keys = s.store.keys ∧ ∀ c k, slotAt t c k = slotAt s c k
    (let s := r
    s.store.kemSealed = none →
      (∀ c < 65536, ∀ k < 6, (slotAt s c k).state = .empty ∨ (slotAt s c k).state = .slotSealed →
        (Accepts s x d 0x04 128 1568 →
          queues s (.keyDeriveKemGen d (some ([0, 0] ++ leBytes 2 c ++ [BitVec.ofNat 8 k] ++ zeros 123))) (.kemGen c k d.raddr) []) ∧
        (Accepts s x d 0x05 48 32 →
          queues s (.keyX25519Gen d (some ([0, 0] ++ leBytes 2 c ++ [BitVec.ofNat 8 k] ++ zeros 43))) (.xGen c k d.raddr) [])) ∧
      (∀ (c k sc sk : Nat) (peer : List Byte), c < 65536 → k < 6 → sc < 65536 → sk < 6 → peer.length = 32 →
        (slotAt s sc sk).state = .slotSealed → (slotAt s sc sk).klen = 3 →
        (∃ b ∈ x25519 (leBytes 32 (keyAt s sc sk).key.toNat) peer, b ≠ 0) →
        (Accepts s x d 0x05 48 32 →
          queues s (.keyX25519Agree d (some ([1] ++ zeros 7 ++ leBytes 2 sc ++ [BitVec.ofNat 8 sk] ++ zeros 5 ++ peer)))
            (.xAgree 0 0 (6 * sc + sk) false peer d.raddr) []) ∧
        (Accepts s x d 0x05 48 0 → (slotAt s c k).state = .empty ∨ (slotAt s c k).state = .slotSealed →
          queues s (.keyX25519Agree d (some ([1, 1] ++ leBytes 2 c ++ [BitVec.ofNat 8 k] ++ zeros 3 ++ leBytes 2 sc ++
            [BitVec.ofNat 8 sk] ++ zeros 5 ++ peer))) (.xAgree c k (6 * sc + sk) true peer d.raddr) [])) ∧
      (Accepts s x d 0x10 32 50176 → ∀ nonce : List Byte, nonce.length = 32 →
        queues s (.attest d (some nonce)) (.attest nonce d.raddr) [])) ∧
    (let s := txFlush r
    s.store.kemSealed = none →
      (Accepts s x d 0x04 128 0 → ∀ (c k klen salt an tag init expiry limit sc sk cls : Nat) (ct cs info : List Byte),
        c < 65536 → k < 6 → klen < 2 → salt ∈ [0, 4, 12] → sc < 65536 → sk < 6 → tag < 2 ^ 32 → init < 2 ^ 64 → expiry < 2 ^ 64 →
        limit < 2 ^ 56 → cls < 2 → ct.length = 1568 → cs.length = 32 → info.length ≤ 64 →
        (if k < 2 then an < 4 ∧ init ≠ 0 ∧ (slotAt s c k).state ≠ .live else an = 0 ∧ ((winAt s c k).wok = true ∨ winFree s ≠ 0)) →
        (slotAt s sc sk).state = .slotSealed → (slotAt s sc sk).klen = 2 →
        let p := [1, 0] ++ leBytes 2 c ++ [BitVec.ofNat 8 k, BitVec.ofNat 8 klen, BitVec.ofNat 8 salt, BitVec.ofNat 8 an] ++
          leBytes 2 sc ++ [BitVec.ofNat 8 sk, BitVec.ofNat 8 cls] ++ zeros 3 ++ [BitVec.ofNat 8 info.length] ++ leBytes 4 tag ++
          zeros 4 ++ leBytes 8 init ++ leBytes 8 expiry ++ leBytes 7 limit ++ zeros 17 ++ info ++ zeros (64 - info.length)
        let held : SlotMeta := {
          expiry := BitVec.ofNat 64 expiry
          limit := BitVec.ofNat 56 limit
          an := BitVec.ofNat 2 an
          klen := BitVec.ofNat 2 klen }
        queues s (.keyDeriveKemDecaps d (some p) (some ct) (some cs)) (.kemDecaps c k (6 * sc + sk) ct (if cls = 0 then [] else cs) info
          (held, salt, BitVec.ofNat 32 tag, BitVec.ofNat 64 init))
          ((0, 1568) :: (if cls = 1 then [(0, 32)] else []))))

/-- R58 to R61, R63, R66, R73, R75, R78: what KC does with slots. TXTAKE of a vent's port follows the requests that reached the
store before it (l, which lead from r to s); it takes the current slot's next number, rolls over to a READY slot, or finds
none, and a number taken is held for the vent's job. The scan runs once in each 10 ms and reports slots near their expiry
once; a drain that nothing delays ends in an EMPTY slot or in the new key; a sealed caldera does the queued work, and is
wiped and loaded again 1 ms after the last of it. Rests on the model's choices of log entries 3, 28, 29 and 50. -/
def Obligations.keyLifetimes : Prop :=
  ∀ r : State,
    (∀ v, v ∉ r.store.txQueue → exec (.txtake v) r = .next r) ∧
    (∀ (v c : Nat) (e : Bool) (tick : DWord) (l after : List Nat), c < 65536 → r.store.txQueue = l ++ v :: after → v ∉ l →
      let s := l.foldl txTakeOne { r with store := { r.store with txQueue := after } }
      fget 0 s.store.txReq v = BitVec.ofNat 128 (c + b2n e * 2 ^ 16 + tick.toNat * 2 ^ 64) → (ctxAt s c).ue = 0 →
      let k := if (ctxAt s c).curTx then 1 else 0
      let o := 1 - k
      let fresh := fun (j : Nat) => let m := slotAt s c j
        (m.expiry = 0 ∨ tick < m.expiry) ∧ (fget 0 (ctxAt s c).next j).toNat ≤ effLimit m (blkOf (ctxAt s c) e)
      let gives := fun (j : Nat) (t : State) =>
        let n := fget 0 (ctxAt s c).next j
        let r := fget 0 t.store.txRes v
        r.extractLsb' 0 64 = n ∧ r.extractLsb' 64 1 = BitVec.ofNat 1 j ∧ r.extractLsb' 65 2 = (slotAt s c j).an ∧
        r.extractLsb' 67 61 = 1 ∧ t.store.picks = s.store.picks ++ [(v, 6 * c + j)] ∧ fget 0 (ctxAt t c).next j = n + 1 ∧ (slotAt t c j).state = .live
      let frame := fun (t : State) => t = { s with
        store := { s.store with
          ctxs := t.store.ctxs
          picks := t.store.picks
          txRes := t.store.txRes }
        hb := t.hb
        hostMem := t.hostMem
        freeCtr := t.freeCtr }
      ∃ t, exec (.txtake v) r = .next t ∧ frame t ∧
        ((slotAt s c k).state = .live → fresh k → gives k t ∧ (ctxAt t c).curTx = (ctxAt s c).curTx ∧
          (slotAt t c o) = slotAt s c o) ∧
        ((slotAt s c k).state = .live → ¬fresh k → (slotAt t c k).state = .spent) ∧
        (((slotAt s c k).state = .live → ¬fresh k) → (slotAt s c o).state = .ready → fresh o →
          gives o t ∧ (ctxAt t c).curTx = !(ctxAt s c).curTx) ∧
        (((slotAt s c k).state = .live → ¬fresh k) → (slotAt s c o).state = .ready → ¬fresh o →
          (fget 0 t.store.txRes v).getLsbD 67 = false ∧ (slotAt t c o).state = .spent) ∧
        (((slotAt s c k).state = .live → ¬fresh k) → (slotAt s c k).state ≠ .ready → (slotAt s c o).state ≠ .ready →
          (slotAt s c o).state ≠ .live → (fget 0 t.store.txRes v).getLsbD 67 = false ∧ (ctxAt t c).noKeySent = true)) ∧
    (r.timebase.toNat / 10000000 ≤ r.store.scanned → exec .keyScan r = .next r) ∧
    (r.store.scanned < r.timebase.toNat / 10000000 →
      let s := txFlush { r with store := { r.store with scanned := r.timebase.toNat / 10000000 } }
      let near := fun (c k : Nat) => let m := slotAt s c k
        (m.state = .live ∨ m.state = .ready) ∧ m.expiry ≠ 0 ∧ m.softSent = false ∧
        m.expiry.toNat ≤ s.timebase.toNat + s.store.softTime.toNat
      ∃ t, exec .keyScan r = .next t ∧
        t = { s with
          store := { s.store with ctxs := t.store.ctxs }
          hb := t.hb
          hostMem := t.hostMem } ∧
        (∀ c k, k < 6 → (near c k → slotAt t c k = { slotAt s c k with softSent := true }) ∧ (¬near c k → slotAt t c k = slotAt s c k)) ∧
        ((∀ c k, k < 6 → ¬near c k) → t = s) ∧
        ∀ c k, k < 6 → near c k → (∀ c' k', k' < 6 → near c' k' → c' = c ∧ k' = k) → t.hb = (keyEvent s 2 c k).hb) ∧
    (∀ (c k : Nat) (w : DrainJob), r.store.drains.find? (fun w => w.ctx == c && w.slot == k) = some w →
      let s := txFlush r
      (slotBusy r w = true → exec (.drainComplete c k) r = .next r) ∧
      (slotBusy r w = false → ∃ t, exec (.drainComplete c k) r = .next t ∧
        t = { s with
          store := t.store
          adm := { s.adm with cmds := s.adm.cmds.map (fun y => if y.id = w.cmd then { y with
              status := some 0
              detail := 0
              result := 0 } else y) } } ∧
        t.store.drains = s.store.drains.filter (fun w => !(w.ctx == c && w.slot == k)) ∧
        (w.load = none → keyAt t c k = {} ∧ (slotAt t c k).state = .empty ∧ (winAt t c k).wok = false) ∧
        ∀ y m n, w.load = some (y, m, n) → keyAt t c k = y ∧
          (slotAt t c k).state = (if k < 2 ∧ (slotAt s c (1 - k)).state = .live then .ready else .live))) ∧
    (∀ (c id : Nat) (w : KeyWork), let s := r
      canSeal s c = true → s.store.kemQueue = [(id, w)] → (∀ n a, w ≠ .attest n a) →
      (workReturns w = true → funcLive s 0 = true) → ∃ u t, exec (.calderaSeal c) s = .next t ∧
        u = { s with
          vents := u.vents
          store := { s.store with
            kemSealed := some c
            kemIdleAt := s.timebase
            kemQueue := [] }
          easel := { s.easel with toSeal := none } } ∧ (∀ i < 8, (ventAt u (8 * c + i)).held = true) ∧
        (∀ v, (∀ i < 8, v ≠ 8 * c + i) → ventAt u v = ventAt s v) ∧
        t = { doWork u id w with store := { (doWork u id w).store with kemIdleAt := s.timebase } } ∧
        (∀ (j k : Nat) (a : DWord), w = .xGen j k a → ∃ r : List Byte, r.length = 32 ∧ (slotAt t j k).state = .slotSealed ∧
          (slotAt t j k).klen = 3 ∧ (keyAt t j k).key = BitVec.ofNat 256 (leNat (x25519Scalar r)) ∧
          t.hostMem = memPuts (addrBytes a.toNat (x25519 (x25519Scalar r) x25519Base)) s.hostMem) ∧
        (∀ (j k q : Nat) (peer : List Byte) (a : DWord), w = .xAgree j k q true peer a → (slotAt t j k).state = .slotSealed ∧
          (slotAt t j k).klen = 1 ∧
          (keyAt t j k).key = BitVec.ofNat 256 (leNat (x25519 (leBytes 32 (keyAt s (q / 6) (q % 6)).key.toNat) peer)))) ∧
    (∀ c, let s := r
      s.store.kemSealed = some c → s.store.kemQueue = [] →
      ((∃ w ∈ s.store.drains, w.kem = true) → exec .calderaUnseal s = .next s) ∧
      (s.timebase.toNat < s.store.kemIdleAt.toNat + 1000000 → exec .calderaUnseal s = .next s) ∧
      (matLocked .mv (calBase c) s = true → exec .calderaUnseal s = .next s) ∧
      (s.store.kemIdleAt.toNat + 1000000 ≤ s.timebase.toNat → s.adm.fw = none → (∀ w ∈ s.store.drains, w.kem = false) →
        matLocked .mv (calBase c) s = false →
        let t := loadSections (wipeCal s c) c
        exec .calderaUnseal s = .next { t with store := { t.store with kemSealed := none } } ∧
        (∀ v, v / 8 = c → ventAt t v = {
          upAt := (ventAt s v).upAt
          downAt := if (ventAt s v).held = true ∨ (ventAt s v).isolating = true then (ventAt s v).downAt else s.timebase }) ∧ (∀ v, v / 8 ≠ c → ventAt t v = ventAt s v) ∧
        (s.glob.sections = [] → (∀ a, calBase c ≤ a → a < calBase c + 0x400000 → memGet t.mem a = 0) ∧
          ∀ a, palBase (8 * c) ≤ a → a < palBase (8 * c + 8) → memGet t.mem a = 0)))

/-- R94, R95, R297, R310, R311: QUEUE_CREATE makes a queue that is VALID, empty and unspilled with DEFICIT 0, its owner and
the least of LIMIT and 16 as SPILLTH, and for DKIND 2 an empty ring with PHASE 1; OP RING makes a FROMHOST or EVENT ring.
QUEUE_DESTROY ends a queue, drops its frames in DROP_FLUSH, and ends the ring of its ID. Rests on the model's choices of
log entries 26 and 27. -/
def Obligations.queueCommands : Prop :=
  ∀ (s : State) (x : Ring) (d : AdmDesc),
    (Accepts s x d 0x09 64 0 → ∀ (q w lim : Nat), 2 ≤ q → q < 1048576 → (queueAt s q).valid = false → ringAt s q = none → w < 4096 →
      0 < lim → lim < 65536 →
      let made := fun (i : Instr) (y : Queue) (r : Option Ring) => ∃ t objs, exec i s = .next t ∧
        t = { taken s x d (some 0) 0 objs with
          qm := { s.qm with queues := fset q y s.qm.queues }
          hb := t.hb
          mem := t.mem
          hbm := t.hbm
          freeCtr := s.freeCtr + 1 } ∧
        t.hb = (match r with
          | some r => { (taken s x d (some 0) 0 objs).hb with rings := fset q r (taken s x d (some 0) 0 objs).hb.rings }
          | none => (taken s x d (some 0) 0 objs).hb) ∧
        (hbmMarked s (32 * q / 0x100000) = false → q ∉ s.hbm.poison →
          ∀ a, a < hbmBase + 32 * q ∨ hbmBase + 32 * q + 32 ≤ a → memGet t.mem a = memGet s.mem a)
      let y : Queue := {
        valid := true
        wprof := w
        limit := lim
        spillth := min lim 16 }
      (∀ src < 32, subExists s src = true →
        made (.queueCreateQueue d (some ([0, 0, BitVec.ofNat 8 src, 0] ++ leBytes 4 q ++ zeros 2 ++ leBytes 2 w ++ leBytes 2 lim ++
          zeros 50))) { y with subport := src } none) ∧
      (∀ src < 32, ∀ g < 1024, hasGlaze s = true →
        made (.queueCreateQueue d (some ([0, 1, BitVec.ofNat 8 src, 0] ++ leBytes 4 q ++ leBytes 2 g ++ leBytes 2 w ++ leBytes 2 lim ++
          zeros 50))) { y with
            dkind := 1
            subport := src
            gchan := g } none) ∧
      (∀ (rb bb log blog vec : Nat) (ns : Bool), q < 4096 → rb < 2 ^ 64 → rb % 4096 = 0 → bb < 2 ^ 64 → bb % 4096 = 0 → 6 ≤ log →
        log ≤ 16 → 11 ≤ blog → blog ≤ 14 → (vec < 2048 ∨ vec = 0xFFFF) →
        made (.queueCreateQueue d (some ([0, 2, 0, 0] ++ leBytes 4 q ++ zeros 2 ++ leBytes 2 w ++ leBytes 2 lim ++ zeros 2 ++
          leBytes 8 rb ++ leBytes 8 bb ++ [BitVec.ofNat 8 log, BitVec.ofNat 8 blog] ++ leBytes 2 vec ++
          [if ns then 1 else 0] ++ zeros 27))) { y with dkind := 2 } (some {
            kind := .tohost
            log := log
            rbase := BitVec.ofNat 64 rb
            bbase := BitVec.ofNat 64 bb
            blog := blog
            vec := if vec = 0xFFFF then none else some vec
            nosnoop := ns }))) ∧
    (Accepts s x d 0x09 64 0 → ∀ (q rb log vec : Nat) (ns ev : Bool), 2 ≤ q → q < 4096 → (queueAt s q).valid = false → ringAt s q = none →
      rb < 2 ^ 64 → rb % 4096 = 0 → 6 ≤ log → log ≤ 16 → (vec < 2048 ∨ vec = 0xFFFF) →
      (ev = true → eventRing s 0 = none ∧ (funcAt s 0).held = [] ∧ (funcAt s 0).lost = 0) → ∃ objs,
      exec (.queueCreateRing d (some ([2, if ev then 1 else 0, 0, 0] ++ leBytes 4 q ++ zeros 8 ++ leBytes 8 rb ++ zeros 8 ++
        [BitVec.ofNat 8 log, 0] ++ leBytes 2 vec ++ [if ns then 1 else 0] ++ zeros 27))) s =
        .next (setRing (taken s x d (some 0) 0 objs) q {
          kind := if ev then .event else .fromhost
          log := log
          rbase := BitVec.ofNat 64 rb
          vec := if vec = 0xFFFF then none else some vec
          nosnoop := ns })) ∧
    (Accepts s x d 0x0A 8 0 → ∀ q, 2 ≤ q → q < 1048576 →
      let i := Instr.queueDestroy d (some (leBytes 4 q ++ zeros 4))
      ((queueAt s q).valid = true → ∃ t objs, exec i s = .next t ∧
        t = { taken s x d (some 0) 0 objs with
          path := t.path
          qm := t.qm
          subs := t.subs
          glaze := t.glaze
          hb := t.hb
          mem := t.mem
          hbm := t.hbm
          freeCtr := s.freeCtr + 1 } ∧
        queueAt t q = {} ∧ ringAt t q = none ∧ (∀ k, k ≠ q → queueAt t k = queueAt s k) ∧
        (∀ k, k ≠ q → k ≠ 0 → ringAt t k = ringAt s k) ∧
        (∀ n ∈ queueFrames (queueAt s q), ffind t.path.frames n = none) ∧
        (∀ n, n ∉ queueFrames (queueAt s q) → frameAt t n = frameAt s n) ∧
        (queueFrames (queueAt s q) = [] → t.path = s.path) ∧
        ∀ n, queueFrames (queueAt s q) = [n] → carriedOf s n = none →
          let key := 64 * (frameAt s n).src + 32
          t.path.drops = fset key (fget 0 s.path.drops key + 1) s.path.drops) ∧
      ((queueAt s q).valid = false → ∀ r, ringAt s q = some r → ∃ objs, exec i s = .next (
        let t := delRing (taken s x d (some 0) 0 objs) q
        if r.kind = .event then updFunc t r.func (fun f => { f with held := [] }) else t)) ∧
      ((queueAt s q).valid = false → ringAt s q = none → ∃ y, exec i s = .next { admAsk s x d with adm := { s.adm with
        stopped := true
        nextId := s.adm.nextId + 1
        cmds := s.adm.cmds ++ [y] } } ∧ y.status = some 1 ∧ y.detail = 0))

/-- R143, R294, R299, R312, R313, R315: STATS_READ writes the records it names and, with CLEAR, restarts their counters;
EASEL_SNAP writes the placement; DIAG drives one transfer of an enabled management master and ends as the bus lets it, or
with DEVERR. A completion is written to ring 1 in order; a failed one halts ring 0. Rests on the model's choices of log
entries 3, 32 and 34. -/
def Obligations.reportCommands : Prop :=
  ∀ (s : State) (x : Ring) (d : AdmDesc),
    let sends := fun (f addr : Nat) (ns : Bool) (bs : List Byte) (t : State) => ({ hostAsk t f ns true addr bs.length with
      hostMem := memPuts (addrBytes addr bs) s.hostMem } : State)
    let gives := fun (i : Instr) (bs : List Byte) (g : State → State) => ∃ objs, exec i s = .next (
      sends 0 d.raddr.toNat x.nosnoop bs (g (taken s x d (some 0) bs.length objs)))
    let block := fun (what clear first count : Nat) =>
      [BitVec.ofNat 8 what, BitVec.ofNat 8 clear, 0, 0] ++ leBytes 4 first ++ leBytes 4 count ++ zeros 4
    (∀ a n clear, 0 < n → a + n ≤ 33 → clear < 2 → Accepts s x d 0x0F 16 (512 * n) →
      gives (.statsReadDrops d (some (block 0 clear a n)))
        ((List.range (64 * n)).flatMap (fun i => leBytes 8 (fget 0 s.path.drops (64 * a + i)).toNat))
        (fun t => if clear = 1 then { t with path := { s.path with
          drops := s.path.drops.filter (fun q => decide (q.1 < 64 * a) || decide (64 * (a + n) ≤ q.1)) } } else t)) ∧
    (∀ a n, 0 < n → a + n ≤ 1048576 → Accepts s x d 0x0F 16 (32 * n) → ∃ bs : List Byte, bs.length = 32 * n ∧
      gives (.statsReadQueues d (some (block 1 0 a n))) bs (fun t => { t with freeCtr := s.freeCtr + n }) ∧
      ∀ i < n, let k := queueAt s (a + i)
        let w := leNat (slice bs (32 * i) 32)
        (k.valid = false → slice bs (32 * i) 32 = memBytes s.mem (hbmBase + 32 * (a + i)) 32) ∧
        (k.valid = true → w.testBit 0 = true ∧ (k.dkind < 4 → k.subport < 32 → k.gchan < 1024 → k.wprof < 4096 → k.tenant < 64 →
          nbits w 2 1 = k.dkind ∧ nbits w 7 3 = k.subport ∧ nbits w 17 8 = k.gchan ∧ nbits w 29 18 = k.wprof ∧
          nbits w 35 30 = k.tenant ∧ w.testBit 36 = k.spilled))) ∧
    (∀ a n clear, 0 < n → a + n ≤ 4096 → clear < 2 → Accepts s x d 0x0F 16 (32 * n) → ∃ objs bs, bs.length = 32 * n ∧
      exec (.statsReadRings d (some (block 2 clear a n))) s = .next (
        let t := sends 0 d.raddr.toNat x.nosnoop bs (taken s x d (some 0) (32 * n) objs)
        if clear = 1 then { t with hb := { t.hb with rings := t.hb.rings.map (fun q =>
          if a ≤ q.1 ∧ q.1 < a + n then (q.1, { q.2 with
            entries := 0
            bytes := 0
            halts := 0 }) else q) } } else t) ∧
      ∀ i < n, a + i ≠ 0 → ∀ r, ringAt s (a + i) = some r →
        slice bs (32 * i) 20 = leBytes 8 r.entries.toNat ++ leBytes 8 r.bytes.toNat ++ leBytes 4 r.halts.toNat) ∧
    (∀ clear, clear < 2 → Accepts s x d 0x0F 16 64 →
      gives (.statsReadGlaze d (some (block 3 clear 0 0)))
        ((List.range 4).flatMap (fun p => leBytes 8 (fget 0 s.glaze.late p).toNat) ++
          (List.range 4).flatMap (fun p => leBytes 8 (fget 0 s.glaze.dummy p).toNat))
        (fun t => if clear = 1 then { t with glaze := { s.glaze with
          late := []
          dummy := [] } } else t)) ∧
    (∀ sect, 0 < sect → sect < 16 →
      let len := 64 + (if sect.testBit 0 then 81920 else 0) + (if sect.testBit 1 then 128 else 0) +
        (if sect.testBit 2 then 192 else 0) + (if sect.testBit 3 then 128 else 0)
      Accepts s x d 0x0E 8 len → ∃ bs : List Byte, bs.length = len ∧
        gives (.easelSnap d (some (BitVec.ofNat 8 sect :: zeros 7))) bs (fun t => t) ∧
        leNat (bs.take 8) = s.timebase.toNat ∧ leNat (slice bs 16 4) = len ∧
        (sect.testBit 0 = true → ∀ i < 5 * 4096, ∀ e, steerAt s (i / 4096) (i % 4096) = e → e.mig = false → e.vent < 128 → e.spread < 8 →
          leNat (slice bs (64 + 4 * i) 4) = e.vent + e.spread * 2 ^ 7 + (if e.valid then 2048 else 0))) ∧
    (let failed := fun (t : State) (detail : Nat) (objs : List AdmObj) =>
        ({ t with adm := { t.adm with
            stopped := true
            cmds := s.adm.cmds ++ [{
              id := s.adm.nextId
              tag := d.tag
              sqhead := (x.cons + 1) % 2 ^ x.log
              status := some 9
              detail := detail
              objs := objs }] } } : State)
      let drives := fun (o : MgmtXfer) (t : State) => ({ t with mgmt := { t.mgmt with out := some o } } : State)
      (∀ bus < 4, ∀ dev < 128, ∀ (wide : Bool) (reg : Nat), reg < (if wide then 65536 else 256) →
        let o : MgmtXfer := { bus := bus, dev := dev, wide := wide, reg := reg }
        let head := fun (op n : Nat) => [BitVec.ofNat 8 op, BitVec.ofNat 8 bus, BitVec.ofNat 8 dev, if wide then 1 else 0] ++
          leBytes 2 reg ++ zeros 2 ++ leBytes 2 n ++ zeros 6
        (∀ (n : Nat) (rx : List Byte), 0 < n → n ≤ 256 → rx.length = n → Accepts s x d 0x12 32 n →
          let i := fun e => Instr.diagI2cRead d (some (head 0 n ++ zeros 16)) e rx
          (s.mgmt.i2cEn.getLsbD bus = true → gives (i .done) rx (drives o) ∧
            (∃ objs, exec (i .nak) s = .next (failed (drives o (taken s x d none 0 objs)) 1 objs)) ∧
            (∃ objs, exec (i .lostArb) s = .next (failed (drives o (taken s x d none 0 objs)) 2 objs)) ∧
            (∃ objs, exec (i (.stuck true)) s = .next (failed (mgmtEvent (drives o (taken s x d none 0 objs)) bus false) 2 objs)) ∧
            (∃ objs, exec (i (.stuck false)) s = .next (failed (i2cDisable (drives o (taken s x d none 0 objs)) bus) 2 objs))) ∧
          (s.mgmt.i2cEn.getLsbD bus = false → ∀ e, ∃ objs, exec (i e) s = .next (failed (taken s x d none 0 objs) 3 objs))) ∧
        (∀ bs : List Byte, bs ≠ [] → bs.length ≤ 16 → Accepts s x d 0x12 32 0 → s.mgmt.i2cEn.getLsbD bus = true → ∃ objs,
          exec (.diagI2cWrite d (some (head 1 bs.length ++ bs ++ zeros (16 - bs.length))) .done) s =
            .next (drives { o with data := some bs } (taken s x d (some 0) 0 objs)))) ∧
      (∀ bus < 2, ∀ port < 32, ∀ dev < 32, ∀ reg < 65536,
        let o : MgmtXfer := { mdio := true, bus := bus, dev := port, reg := reg, devad := dev }
        let head := fun (op : Nat) => [BitVec.ofNat 8 op, BitVec.ofNat 8 bus, BitVec.ofNat 8 port, 0] ++ leBytes 2 reg ++
          [BitVec.ofNat 8 dev] ++ zeros 9
        (∀ rx : BitVec 16, Accepts s x d 0x12 32 2 →
          let i := Instr.diagMdioRead d (some (head 2 ++ zeros 16)) rx
          (s.mgmt.mdioEn.getLsbD bus = true → gives i (leBytes 2 rx.toNat) (drives o)) ∧
          (s.mgmt.mdioEn.getLsbD bus = false → ∃ objs, exec i s = .next (failed (taken s x d none 0 objs) 3 objs))) ∧
        (∀ v < 65536, Accepts s x d 0x12 32 0 → s.mgmt.mdioEn.getLsbD bus = true → ∃ objs,
          exec (.diagMdioWrite d (some (head 3 ++ leBytes 2 v ++ zeros 14))) s =
            .next (drives { o with data := some (leBytes 2 v) } (taken s x d (some 0) 0 objs))))) ∧
    (∀ (c : AdmCmd) (rest : List AdmCmd) (y : Ring) (st : Nat), s.adm.cmds = c :: rest → ringAt s 1 = some y →
      (c.status = none → exec .admcqCompletion s = .next s) ∧
      (c.status = some st → c.discard = false → ringRoom y = true → funcLive s 0 = true → s.adm.closing = false →
        st < 256 → c.sqhead < 65536 → c.detail < 65536 → c.result < 2 ^ 32 →
        let e := c.tag.toNat + st * 2 ^ 16 + c.sqhead * 2 ^ 32 + c.detail * 2 ^ 48 + c.result * 2 ^ 64 +
          (if y.phase then 2 ^ 127 else 0)
        let next := (y.prod + 1) % 2 ^ y.log
        let z : Ring := { y with
          prod := next
          phase := if next = 0 then !y.phase else y.phase
          entries := y.entries + 1 }
        let u := sends y.func (y.rbase.toNat + 16 * y.prod) y.nosnoop (leBytes 16 e) { s with
          adm := { s.adm with cmds := rest }
          hb := { s.hb with rings := fset 1 z s.hb.rings } }
        let t := match y.vec with
          | some v => msixCount u y.func v
          | none => u
        (st = 0 ∨ st = 7 → exec .admcqCompletion s = .next t) ∧
        (st ≠ 0 → st ≠ 7 → ∀ r, ringAt s 0 = some r →
          let q : Ring := { r with
            halted := true
            late := !c.atAccept
            hstat := BitVec.ofNat 8 st
            halts := r.halts + 1 }
          exec .admcqCompletion s = .next (postEvent { t with hb := { t.hb with rings := fset 0 q t.hb.rings } } r.func 4 1
            (st * 2 ^ 20 + if c.atAccept then 0 else 2 ^ 28)))))

/-- R136 to R139, R312, R334, R335: EASEL_CONSTRAIN and FW_STAGE. PBCAP sets or removes a cap; EXCLUDE replaces the excluded set
and ends at once when it excludes nothing new; RESERVE records the reservation and fills its bank once its calderas are
free of bank 0; RELEASE starts to switch its sources back. CHECK verifies an image and changes nothing; APPLY puts its
sections in force and starts to replace calderas one by one; RAISE_SVN burns fuses up to RUNSVN. Rests on the model's
choices of log entries 32 and 33. -/
def Obligations.placementCommands : Prop :=
  ∀ (s : State) (x : Ring) (d : AdmDesc),
    let busy := fun (i : Instr) (status detail : Nat) => ∃ y, exec i s = .next (
      let adm : Adm := { s.adm with
        stopped := true
        nextId := s.adm.nextId + 1
        cmds := s.adm.cmds ++ [y] }
      { admAsk s x d with adm := adm }) ∧ y.status = some status ∧ y.detail = detail
    (Accepts s x d 0x0D 16 0 →
      (∀ f < 64, ∀ cap, cap ≤ 196608 →
        let i := Instr.easelConstrainPbcap d (some ([2, 0, BitVec.ofNat 8 f] ++ zeros 9 ++ leBytes 4 cap))
        (s.easel.constrain ≠ none → busy i 2 0) ∧
        (s.easel.constrain = none → exec i s = .next { taken s x d (some 0) 0 [] with
          qm := { s.qm with caps := if cap = 0 then fdel f s.qm.caps else fset f cap s.qm.caps } })) ∧
      (∀ m < 2 ^ nCals s,
        let i := Instr.easelConstrainExclude d (some ([3, 0, 0, 0] ++ leBytes 2 m ++ zeros 10))
        let new := BitVec.ofNat 12 m
        let more := new &&& ~~~s.easel.excl
        (leavesOne s m (reserveMasks s) = false → busy i 1 4) ∧
        (leavesOne s m (reserveMasks s) = true → s.easel.constrain = none → ∃ t, exec i s = .next t ∧
          t = { taken s x d (if more = 0 then some 0 else none) 0 [] with
            vents := t.vents
            easel := { s.easel with
              excl := new
              constrain := if more = 0 then none else some {
                cmd := s.adm.nextId
                op := .exclude
                cals := more } } } ∧
          ∀ v < 96, ventAt t v = if (new ^^^ s.easel.excl).getLsbD (v / 8) then
            { ventAt s v with evt := { (ventAt s v).evt with pend := (ventAt s v).evt.pend ||| 8 } } else ventAt s v)) ∧
      (∀ g f m srcs, 1 ≤ g → g ≤ 4 → f < 64 → m < 2 ^ nCals s → srcs < 2 ^ 32 →
        let i := Instr.easelConstrainReserve d (some ([0, BitVec.ofNat 8 g, BitVec.ofNat 8 f, 0] ++ leBytes 2 m ++ zeros 2 ++
          leBytes 4 srcs ++ zeros 4))
        let r : Reserve := { func := f, cals := BitVec.ofNat 12 m, srcs := BitVec.ofNat 32 srcs }
        (fhas s.easel.reserves g = true → busy i 1 1) ∧
        (fhas s.easel.reserves g = false → m &&& reservedMask s = 0 → (∃ p ∈ s.easel.reserves, p.2.func = f) → busy i 1 2) ∧
        (fhas s.easel.reserves g = false → m &&& reservedMask s = 0 →
          (∀ p ∈ s.easel.reserves, p.2.func ≠ f ∧ p.2.srcs.toNat &&& srcs = 0) →
          leavesOne s s.easel.excl.toNat (m :: reserveMasks s) = true →
          (∃ k < 32, srcs.testBit k = true ∧ srcPaired s k = true) → busy i 2 0) ∧
        (fhas s.easel.reserves g = false → m &&& reservedMask s = 0 →
          (∀ p ∈ s.easel.reserves, p.2.func ≠ f ∧ p.2.srcs.toNat &&& srcs = 0) →
          leavesOne s s.easel.excl.toNat (m :: reserveMasks s) = true → s.easel.constrain = none →
          (∀ k < 32, srcs.testBit k = true → srcPaired s k = false) →
          let job : Constraint := { cmd := s.adm.nextId, op := .reserve, group := g }
          let easel : Easel := { s.easel with
            reserves := fset g r s.easel.reserves
            constrain := some job }
          let vents := freshVents { s with easel := easel } g
          (bank0Off s r.cals = false ∨ vents = [] → exec i s = .next { taken s x d none 0 [] with easel := easel }) ∧
          (bank0Off s r.cals = true → vents ≠ [] → ∃ t, exec i s = .next t ∧
            t = { taken s x d none 0 [] with
              freeCtr := s.freeCtr + 4096
              easel := { easel with
                constrain := some { job with filled := true }
                switching := (bitList 32 srcs ++ [32 + f]).map (fun k => (k, g))
                steer := t.easel.steer } } ∧
            (∀ b < 4096, let e := steerAt t g b
              e.valid = true ∧ e.mig = false ∧ ∀ u < 2 ^ e.spread, e.vent + u ∈ vents) ∧
            ∀ j b, j ≠ g → b < 4096 → steerAt t j b = steerAt s j b))) ∧
      (∀ g, 1 ≤ g → g ≤ 4 → s.easel.constrain = none →
        let r := fget {} s.easel.reserves g
        let i := Instr.easelConstrainRelease d (some ([1, BitVec.ofNat 8 g] ++ zeros 14))
        (∀ k < 32, r.srcs.getLsbD k = true → srcPaired s k = false) →
        (fhas s.easel.reserves g = false → exec i s = .next (taken s x d (some 0) 0 [])) ∧
        (fhas s.easel.reserves g = true → exec i s = .next { taken s x d none 0 [] with easel := { s.easel with
          constrain := some { cmd := s.adm.nextId, op := .release, group := g }
          switching := (bitList 32 r.srcs.toNat ++ [32 + r.func]).map (fun k => (k, 0)) } }))) ∧
    (Accepts s x d 0x11 24 0 →
      let failed := fun (status detail : Nat) =>
        let t := taken s x d (some status) 0 []
        let cmds := s.adm.cmds ++ [{
          id := s.adm.nextId
          tag := d.tag
          sqhead := (x.cons + 1) % 2 ^ x.log
          status := some status
          detail := detail }]
        ({ t with adm := { t.adm with
          stopped := true
          cmds := cmds } } : State)
      (∀ a n, a % 4096 = 0 → hbmBase ≤ a → a + n ≤ hbmBase + hbmSize s → a < hbmBase + hbmSize s → n < 2 ^ 32 →
        (matRead .mv a n (taken s x d none 0 [])).1 = .okay →
        let block := fun (op : Byte) => [op] ++ zeros 7 ++ leBytes 8 a ++ leBytes 4 n ++ zeros 4
        (spanLocked .mv a n s = true → exec (.fwStageCheck d (some (block 0))) s = .next s ∧
          exec (.fwStageApply d (some (block 1))) s = .next s) ∧
        (spanLocked .mv a n s = false →
        let image := imageAt s a
        (∀ k, stageRefusal s a = some k → exec (.fwStageCheck d (some (block 0))) s = .next (failed 8 k)) ∧
        (stageRefusal s a = none → exec (.fwStageCheck d (some (block 0))) s = .next (taken s x d (some 0) 0 [])) ∧
        (s.easel.constrain ≠ none ∨ reserveThin s = true → busy (.fwStageApply d (some (block 1))) 2 0) ∧
        (s.easel.constrain = none → reserveThin s = false →
          (∀ k, stageRefusal s a = some k → exec (.fwStageApply d (some (block 1))) s = .next (failed 8 k)) ∧
          (stageRefusal s a = none → mvDigests s image ≠ s.glob.mvDigs →
            exec (.fwStageApply d (some (block 1))) s = .next (failed 8 16)) ∧
          (stageRefusal s a = none → mvDigests s image = s.glob.mvDigs → s.store.kemSealed = none →
            exec (.fwStageApply d (some (block 1))) s = .next (
              let t := taken s x d none 0 []
              let fw : FwJob := { cmd := s.adm.nextId, addr := a, len := n, svn := image.svn, dig := imageDigest s image }
              { t with
                adm := { t.adm with fw := some fw }
                glob := { s.glob with sections := calSections s image }
                easel := { s.easel with draining := 1 } }))))) ∧
      ∃ f, exec (.fwStageRaiseSvn d (some (2 :: zeros 23))) s = .next { taken s x d (some 0) 0 [] with
          fuses := { s.fuses with svn := f } } ∧
        popCount 64 f.toNat = max (popCount 64 s.fuses.svn.toNat) (min 64 s.glob.runSvn.toNat) ∧ f &&& s.fuses.svn = s.fuses.svn) ∧
    (∀ (f : FwJob) (c : Nat), s.adm.fw = some f → s.store.kemSealed = none →
      (List.range (nCals s)).find? (fun c => !f.done.contains c) = some c →
      let g := { f with done := f.done ++ [c] }
      let fits := (calAt s c).power = .on ∧ drained s c = true ∧ matLocked .mv (calBase c) s = false
      let was := fun (n : Nat) => n / 16 == c && dmaBusy (dmaAt s n)
      (¬fits → (calAt s c).power ≠ .off → exec (.calderaReplace c) s = .next s) ∧
      (fits ∨ (calAt s c).power = .off → ∃ u t, exec (.calderaReplace c) s = .next t ∧
        ((calAt s c).power = .off → u = s) ∧
        (fits → u = { s with
            mem := u.mem
            vents := u.vents
            cals := fset c { calAt s c with prot := s.glob.sections.map (fun p => (p.1, p.2.length)) } s.cals
            easel := { s.easel with
              migs := u.easel.migs
              err := u.easel.err }
            store := { s.store with picks := u.store.picks }
            hb := u.hb
            hostMem := u.hostMem
            mx := { s.mx with
              dma := u.mx.dma
              waiting := s.mx.waiting.filter (fun n => !was n) }
            hbm := { s.hbm with badWords := u.hbm.badWords } } ∧
          ((∀ v, v / 8 = c → ∀ m ∈ s.easel.migs, ackLate s v m = false) →
            u.easel.err = s.easel.err ∧ u.hb = s.hb ∧ u.hostMem = s.hostMem) ∧
          (∀ n, n / 16 = c → dmaBusy (dmaAt s n) = true → (dmaAt u n).state = .halted ∧ (dmaAt u n).cause = 11) ∧
          (∀ n, n / 16 ≠ c ∨ dmaBusy (dmaAt s n) = false → dmaAt u n = dmaAt s n) ∧
          (∀ v, v / 8 = c → (ventAt u v).held = false ∧ (ventAt u v).pc = (ventAt s v).evt.boot ∧ (ventAt u v).r = []) ∧
          (∀ v, v / 8 ≠ c → ventAt u v = ventAt s v) ∧
          (s.glob.sections.Pairwise (fun p q => p.1 + p.2.length ≤ q.1 ∨ q.1 + q.2.length ≤ p.1) →
            ∀ p ∈ s.glob.sections, ∀ i < p.2.length, memGet u.mem (calBase c + p.1 + i) = p.2.getD i 0)) ∧
        (∀ k, (List.range (nCals s)).find? (fun c => !g.done.contains c) = some k → g.done.length ≠ nCals s →
          t = { u with
            adm := { u.adm with fw := some g }
            easel := { u.easel with draining := 1 <<< k } }) ∧
        (g.done.length = nCals s → t = { u with
          adm := { u.adm with
            fw := none
            cmds := s.adm.cmds.map (fun y => if y.id = f.cmd then { y with
              status := some 0
              detail := 0
              result := 0 } else y) }
          easel := { u.easel with draining := 0 }
          glob := { s.glob with
            applied := true
            appSvn := BitVec.ofNat 7 f.svn
            appImg := f.dig } })))

/-- R123, R126 to R134, R137, R139, R362: Easel. A plan moves each caldera's clock by its temperature and takes its decisions;
a migration rewrites the entry and marks every old vent; acknowledgements end it, with the bucket state copied; a late
acknowledgement is reported; a source is switched when none of its frames is busy; an EXCLUDE ends when its calderas are
drained. Rests on the model's choices of log entries 3, 30 and 31. -/
def Obligations.easelPlacement : Prop :=
  ∀ s : State,
    (s.glob.phase = .primed → s.easel.planned < s.timebase.toNat / 100000 → s.easel.constrain = none →
      let planned := fun (t : State) => t.easel.planned = s.timebase.toNat / 100000
      let hottest := fun (x : Cal) => fget 0 x.hot (s.timebase.toNat / 100000 - 1)
      let clock := fun (x : Cal) =>
        if hottest x = 0 ∨ x.power ≠ .on then x.clk
        else if s.power.throttle.toNat + 64 ≤ (hottest x).toNat then (if 600 < x.clk then max 600 (x.clk - 100) else x.clk)
        else if (hottest x).toNat + 5 ≤ s.power.throttle.toNat + 64 ∧ s.power.shut = false ∧ x.clk < s.power.vclk.toNat then
          min s.power.vclk.toNat (x.clk + 100)
        else x.clk
      let warm := fun (x : Cal) =>
        if hottest x = 0 then x.warm
        else decide (s.power.throttle.toNat + 64 ≤ (hottest x).toNat) ||
          (x.warm && decide (s.power.throttle.toNat + 64 < (hottest x).toNat + 5))
      (∃ t, exec (.easelPlan []) s = .next t ∧ planned t ∧
        t = { s with
          easel := { s.easel with
            planned := t.easel.planned
            todo := [] }
          cals := t.cals
          power := { s.power with err := t.power.err }
          vents := t.vents
          hb := t.hb
          hostMem := t.hostMem } ∧
        (∀ c < nCals s, calAt t c = { calAt s c with
          temp := hottest (calAt s c)
          warm := warm (calAt s c)
          hot := (calAt s c).hot.filter (fun p => decide (s.timebase.toNat / 100000 ≤ p.1))
          clk := clock (calAt s c) }) ∧
        ∀ c < nCals s, (clock (calAt s c) = (calAt s c).clk → ∀ i < 8, ventAt t (8 * c + i) = ventAt s (8 * c + i)) ∧
          (clock (calAt s c) ≠ (calAt s c).clk → ∀ i < 8, (ventAt t (8 * c + i)).evt.pend = (ventAt s (8 * c + i)).evt.pend ||| 8)) ∧
      ((∀ c < nCals s, hottest (calAt s c) = 0) →
        let frame := fun (t u : State) => t = { u with
          easel := { u.easel with
            planned := s.timebase.toNat / 100000
            todo := t.easel.todo }
          cals := t.cals }
        (∀ v l, v < 8 * nCals s → l < nLces s → ∃ t, exec (.easelPlan [.lceMap v l]) s = .next t ∧
          (reported s v = true → frame t { s with easel := { s.easel with lceMap := fset v l s.easel.lceMap } }) ∧
          (reported s v = false → frame t s)) ∧
        (∀ q th, (queueAt s q).valid = true → 1 ≤ th → th ≤ (queueAt s q).limit → ∃ t, exec (.easelPlan [.spillTh q th]) s = .next t ∧
          let u : State := { s with qm := { s.qm with queues := fset q { queueAt s q with spillth := th } s.qm.queues } }
          (q ∈ s.qm.cache → frame t u) ∧
          (q ∉ s.qm.cache → ∃ y, frame t { u with
              mem := t.mem
              hbm := t.hbm
              freeCtr := s.freeCtr + 1 } ∧
            memBytes t.mem (hbmBase + 32 * q) 32 = leBytes 32 (queueWord u q y))) ∧
        (∀ c k w, (winAt s c k).wok = true → w < 131072 → w / 8192 ≠ (winAt s c k).handle / 8192 → fhas s.store.winOwner w = false →
          ∃ t, exec (.easelPlan [.moveWindow c k w]) s = .next t ∧ frame t { s with store := t.store } ∧
            winAt t c k = { winAt s c k with handle := w } ∧ winBits t w = winBits s (winAt s c k).handle ∧
            fget 0 (ctxAt t c).high k = fget 0 (ctxAt s c).high k) ∧
        (∀ c o, c < nCals s → (calAt s c).power = .on → ∃ t, exec (.easelPlan [.telemetry c o]) s = .next t ∧ frame t s ∧
          calAt t c = { calAt s c with occ := o }) ∧
        (∀ c l, c < nCals s → (calAt s c).power = .on → (∃ i < 8, reported s (8 * c + i) = true) → l.length ≤ copyCap s → l.Nodup → ∃ t,
          exec (.easelPlan [.copies c l]) s = .next t ∧
          frame t { s with easel := { s.easel with ctxCache := fset c l s.easel.ctxCache } }) ∧
        (∀ c, c < nCals s → (calAt s c).power = .on → (reservedMask s).testBit c = false → ∃ t, exec (.easelPlan [.sealNext c]) s = .next t ∧
          frame t { s with easel := { s.easel with toSeal := some c } }) ∧
        (∀ j b v w, j < 5 → b < 4096 → w ≤ 5 → v % 2 ^ w = 0 →
          let e := steerAt s j b
          let n := s.easel.migno + 1
          e.valid = true → e.vent ≠ v ∨ e.spread ≠ w →
          (∀ k, e.ended = some k → k.toNat + 1000000 ≤ s.timebase.toNat) ∧
              (∀ u, e.vent ≤ u → u < e.vent + 2 ^ e.spread → reported s u = true) ∨
            moveServes s j (ventSet e.vent e.spread) (ventSet v w) = true →
          (∀ u, v ≤ u → u < v + 2 ^ w → u ∈ freshVents s j) →
          (e.mig = true → ∃ t, exec (.easelPlan [.migrate j b v w]) s = .next t ∧ t.easel.migs = s.easel.migs ∧
            steerAt t j b = e) ∧
          (e.mig = false → s.easel.migs.length < 8 → ∃ t, exec (.easelPlan [.migrate j b v w]) s = .next t ∧
            t = { s with
              easel := { s.easel with
                planned := s.timebase.toNat / 100000
                todo := []
                steer := t.easel.steer
                migno := n
                migs := s.easel.migs ++ [{
                  migno := n
                  bank := j
                  bucket := b
                  fromV := e.vent
                  toV := v
                  start := s.timebase
                  unacked := (List.range (2 ^ e.spread)).map (fun i => e.vent + i)
                  lastTicket := fget 0 s.path.dealtTo (4096 * j + b) }] }
              cals := t.cals
              vents := t.vents } ∧
            steerAt t j b = { e with
              vent := v
              spread := w
              mig := true
              fromV := e.vent
              fromSpr := e.spread } ∧
            (∀ i k, k < 4096 → (i ≠ j ∨ k ≠ b) → steerAt t i k = steerAt s i k) ∧
            ∀ u, ventAt t u = if e.vent ≤ u ∧ u < e.vent + 2 ^ e.spread then { ventAt s u with
              inp := { (ventAt s u).inp with items := (ventAt s u).inp.items ++ [.marker n.toNat] } } else ventAt s u) ∧
          (e.mig = false → s.easel.migs.length = 8 → ∃ t, exec (.easelPlan [.migrate j b v w]) s = .next t ∧
            t.easel.migs = s.easel.migs ∧ t.easel.todo = [(j, b, v, w)])))) ∧
    (∀ (v : Nat) (n : Word), CanWrite s (.vent v) → s.glob.phase = .primed →
      let late := s.easel.migs.filter (ackLate s v)
      let u := marksLate s v
      exec (.easelMarkack v n) s = .next (dmaSettle { u with
        easel := { u.easel with migs := u.easel.migs.map (fun m =>
          if m.migno = n ∧ fhas m.arrived v = true then { m with unacked := m.unacked.filter (· != v) } else m) } }) ∧
      (∀ m, ackLate s v m = true ↔ v ∈ m.unacked ∧ v ∉ m.late ∧ ∃ k, ffind m.arrived v = some k ∧ k.toNat + 50000 ≤ s.timebase.toNat) ∧
      (late = [] → u = s) ∧ ∀ m, late = [m] → u = markLate s v m) ∧
    (∀ (n : Word) (m : Migration), migAt s n = some m →
      let waits := m.fromV / 8 ≠ m.toV / 8 ∧ slotBytes s ≠ 0 ∧
        (matLocked .intake (calBase (m.fromV / 8)) s = true ∨ matLocked .intake (calBase (m.toV / 8)) s = true)
      (m.unacked ≠ [] ∨ waits → exec (.migrationRelease n) s = .next s) ∧
      (let src := calBase (m.fromV / 8) + slotOff s m.bucket
       let dst := calBase (m.toV / 8) + slotOff s m.bucket
       let n := slotBytes s
       let u := copySlot s m
       (m.fromV / 8 = m.toV / 8 ∨ n = 0 → u = s) ∧
        (m.fromV / 8 ≠ m.toV / 8 → n ≠ 0 →
          (∀ i < n, matLoc .intake (src + i) s = .cal (m.fromV / 8) (slotOff s m.bucket + i) ∧
            matLoc .intake (dst + i) s = .cal (m.toV / 8) (slotOff s m.bucket + i) ∧
            locAnswer .intake false (matLoc .intake (src + i) s) s = .okay) →
          dmaDue s = [] →
          (badIn s src n = false → (∀ i < n, locAnswer .intake true (matLoc .intake (dst + i) s) s = .okay) →
            memBytes u.mem dst n = memBytes s.mem src n ∧ ∀ a, a < dst ∨ dst + n ≤ a → memGet u.mem a = memGet s.mem a) ∧
          (badIn s src n = true ∨ (∃ i < n, locAnswer .intake true (matLoc .intake (dst + i) s) s ≠ .okay) → u = s))) ∧
      (m.unacked = [] → ¬waits → s.easel.constrain = none → s.easel.todo = [] → m.held = [] → m.bucket < 4096 →
        let u := copySlot s m
        u.easel = s.easel → u.timebase = s.timebase →
        ∃ t, exec (.migrationRelease n) s = .next t ∧
          t = { u with
            easel := { s.easel with
              steer := t.easel.steer
              migs := s.easel.migs.filter (fun x => x.migno != n) } } ∧
          steerAt t m.bank m.bucket = { steerAt s m.bank m.bucket with
            mig := false
            fromV := 0
            fromSpr := 0
            ended := some s.timebase }) ∧
      (m.unacked = [] → ¬waits → s.easel.constrain = none → s.easel.todo = [] → ∀ f, m.held = [.frame f] →
        let u := copySlot s m
        u.easel = s.easel → frameDealt u (frameAt u f) = false →
        ∃ t, exec (.migrationRelease n) s = .next t ∧
          let v := (steerAt s m.bank m.bucket).vent
          (frameAt t f).stage = .waiting v ∧ (ventAt t v).inp.items = (ventAt u v).inp.items ++ [.frame f]) ∧
      (∀ v k, ffind m.arrived v = some k →
        let t : State := { s with easel := { s.easel with
          err := s.easel.err ||| 1
          migs := s.easel.migs.map (fun x => if x.migno = n then { x with late := v :: x.late } else x) } }
        (v ∈ m.unacked → v ∉ m.late → k.toNat + 50000 ≤ s.timebase.toNat → exec (.marklate n v) s =
          .next (postEvent t 0 3 1 (m.bucket * 2 ^ 8 + m.bank * 2 ^ 20 + v * 2 ^ 23 + n.toNat * 2 ^ 32))) ∧
        (v ∉ m.unacked ∨ v ∈ m.late ∨ s.timebase.toNat < k.toNat + 50000 → exec (.marklate n v) s = .next s))) ∧
    (∀ src j, s.easel.switching.find? (fun p => p.1 == src) = some (src, j) →
      (srcBusy s src = true → exec (.sourceBankSwitch src) s = .next s) ∧
      (srcBusy s src = false → srcHeld s src = [] → (slotsHeld s src).1 = [] → s.easel.constrain = none → ∃ t, exec (.sourceBankSwitch src) s = .next t ∧
        t = { s with easel := { s.easel with
          srcBank := t.easel.srcBank
          switching := s.easel.switching.filter (fun q => q.1 != src)
          heldSlots := (slotsHeld s src).2 } } ∧
        ∀ k, bankOf t k = if k = src then j else bankOf s k) ∧
      (∀ n, srcBusy s src = false → srcHeld s src = [n] → (slotsHeld s src).1 = [] → s.easel.constrain = none →
        frameDealt s (frameAt s n) = false →
        let e := steerAt s j (frameAt s n).bucket
        e.mig = false → ∃ t, exec (.sourceBankSwitch src) s = .next t ∧ (frameAt t n).stage = .waiting e.vent ∧
          (ventAt t e.vent).inp.items = (ventAt s e.vent).inp.items ++ [.frame n])) ∧
    (∀ x : Constraint, s.easel.constrain = some x → x.op = .exclude →
      ((∃ c < 12, x.cals.getLsbD c = true ∧ drained s c = false) → exec .calderaDrained s = .next s) ∧
      ((∀ c < 12, x.cals.getLsbD c = true → drained s c = true) → exec .calderaDrained s = .next { s with
        easel := { s.easel with constrain := none }
        adm := { s.adm with cmds := s.adm.cmds.map (fun y => if y.id = x.cmd then { y with
          status := some 0
          detail := 0
          result := 0 } else y) } }))

/-- R85: SET_SWAP. It is BUSY while a swap is pending and INVALID, with SET_ISSUES as its result, while Sketch has issues; it
sets PENDING; each source flips once, and the last one changes the epoch and ends the command; the copy waits for the last
old frame; when it ends, both sets and both blocks of every context are equal, PENDING clears and SWAPS counts. Rests on
the model's choices of log entry 3. -/
def Obligations.configurationSwap : Prop :=
  ∀ s : State,
    (∀ (x : Ring) (d : AdmDesc), Accepts s x d 0x08 0 0 →
      let refused := fun (status detail result : Nat) => ∃ y, exec (.setSwap d none) s = .next (
        let adm : Adm := { s.adm with
          stopped := true
          nextId := s.adm.nextId + 1
          cmds := s.adm.cmds ++ [y] }
        { admAsk s x d with adm := adm }) ∧ y.status = some status ∧ y.detail = detail ∧ y.result = result
      (s.sets.pending = true → refused 2 0 0) ∧
      (s.sets.pending = false → setIssues s ≠ 0 → refused 1 0xFFFE (setIssues s)) ∧
      (s.sets.pending = false → setIssues s = 0 → exec (.setSwap d none) s = .next { taken s x d none 0 [] with
        sets := { s.sets with
          pending := true
          flipping := true
          flipped := []
          cmd := s.adm.nextId } })) ∧
    (∀ src : Nat,
      (s.sets.flipping = false ∨ src ∈ s.sets.flipped ∨ 32 < src → exec (.epochFlip src) s = .next s) ∧
      (s.sets.flipping = true → src ∉ s.sets.flipped → src ≤ 32 →
        (s.sets.flipped.length ≠ 32 → exec (.epochFlip src) s = .next { s with
          sets := { s.sets with flipped := src :: s.sets.flipped } } ) ∧
        (s.sets.flipped.length = 32 → ∃ t, exec (.epochFlip src) s = .next t ∧
          t = { s with
            sets := { s.sets with
              epoch := !s.sets.epoch
              flipping := false
              flipped := [] }
            glaze := t.glaze
            freeCtr := t.freeCtr
            adm := { s.adm with cmds := s.adm.cmds.map (fun y => if y.id = s.sets.cmd then { y with
              status := some 0
              detail := 0
              result := 0 } else y) } } ∧
          (∀ k, (chanFrames s (k / 1024) (k % 1024)).any (fun n => (frameAt s n).epoch == s.sets.epoch) = true →
              fget {} t.glaze.chans k = fget {} s.glaze.chans k) ∧
          ∀ k ∈ knownChans s, let c := fget {} s.glaze.chans k
            let u := fget {} t.glaze.chans k
            chanFrames s (k / 1024) (k % 1024) = [] → c.running = false → c.turn = none →
            pMode (gprofOf s (!s.sets.epoch) (k / 1024) (k % 1024)) = 1 →
            u.running = true ∧ u.epoch = (!s.sets.epoch) ∧ u.start = 64 * s.timebase.toNat ∧ u.slotNo = 0))) ∧
    (s.sets.pending = true → s.sets.flipping = false → s.sets.copying = false →
      (oldFrames s (!s.sets.epoch) ≠ 0 → exec .swapCopy s = .next s) ∧
      (oldFrames s (!s.sets.epoch) = 0 → ∃ t, exec .swapCopy s = .next t ∧
        t = { s with
          sets := { s.sets with copying := true }
          glaze := t.glaze
          freeCtr := t.freeCtr } ∧
        ∀ k, let c := fget {} s.glaze.chans k
          (∀ d, ffind t.glaze.chans k = some d → d.slotEp = s.sets.epoch) ∧
          (c.epoch = s.sets.epoch → c.running = true ∨ pMode (gprofOf s s.sets.epoch (k / 1024) (k % 1024)) = 0 →
            fget {} t.glaze.chans k = { c with
              slotEp := s.sets.epoch
              stale := c.stale || c.slotEp != s.sets.epoch }))) ∧
    (s.sets.copying = true → s.store.kemSealed = none →
      ∃ u, exec .swapDone s = .next (postEvent u 0 1 6 ((s.sets.swaps + 1).toNat * 256)) ∧
        u = { s with
          sets := { s.sets with
            set0 := setAt s s.sets.epoch
            set1 := setAt s s.sets.epoch
            pending := false
            copying := false
            swaps := s.sets.swaps + 1 }
          glaze := u.glaze
          freeCtr := u.freeCtr
          store := { s.store with ctxs := u.store.ctxs } } ∧
        (∀ k c, ffind s.glaze.chans k = some c →
          let d := fget {} u.glaze.chans k
          d.epoch = s.sets.epoch ∧ d.slotEp = s.sets.epoch ∧ d.turn = none ∧
          (c.epoch = s.sets.epoch ∨ c.running = true → d = { c with
            epoch := s.sets.epoch
            slotEp := s.sets.epoch
            turn := none
            seed := d.seed
            draws := d.draws }) ∧
          (c.epoch = s.sets.epoch ∨ pMode (gprofOf s s.sets.epoch (k / 1024) (k % 1024)) = 1 → d.seed = c.seed ∧ d.draws = c.draws) ∧
          (c.epoch ≠ s.sets.epoch → pMode (gprofOf s s.sets.epoch (k / 1024) (k % 1024)) = 2 → c.running = true → d.draws = 0)) ∧
        ∀ c, (ctxAt u c).blk0 = (if s.sets.epoch then (ctxAt s c).blk1 else (ctxAt s c).blk0) ∧
          (ctxAt u c).blk1 = (if s.sets.epoch then (ctxAt s c).blk1 else (ctxAt s c).blk0))

/-- R251, R261, R264, R270 to R272, R275, R276, R279: DMA channels. START fetches the descriptor at DCH_DESC, once no
lock holds its
port and the channel's own has room; it is refused with the cause of the first check that fails, or gives the channel its
addresses and length, and the fill of its
pacing source; ABORT halts; an empty descriptor completes with its notice or goes on to NEXT; a bus error of the fetch, the
read or the write waits for its retries and then halts with the cause of the last response and the address that failed;
pacing runs at HI and waits at LO. An unpaced last descriptor without swaps or circular blocks, whose source and destination
are disjoint ranges of the packet buffer with no uncorrectable word, moves every byte of the source to the destination
and no other, and leaves the channel DONE with nothing left. Rests on the model's choices of log entries 3 and 16. -/
def Obligations.dmaChannels : Prop :=
  (∀ (s : State) (n : Nat), n < 256 → dmaDue s = [] → s.mx.waiting = [] →
    let x := dmaAt s n
    let put := fun (y : Dma) => ({ s with mx := { s.mx with dma := fset n y s.mx.dma } } : State)
    let starts := fun (w : List Nat) (y : Dma) =>
      ({ s with mx := { s.mx with
        dma := fset n y s.mx.dma
        waiting := w } } : State)
    let usable := n < 192 → n / 16 < nCals s ∧ (calAt s (n / 16)).power = .on ∧ s.store.kemSealed ≠ some (n / 16)
    let halted := fun (t : State) (y : Dma) (cause : Nat) => t = { s with
        mx := t.mx
        vents := t.vents } ∧ dmaAt t n = { y with
          state := .halted
          cause := cause
          failed := none
          evt := true } ∧ ∀ k, k ≠ n → dmaAt t k = dmaAt s k
    let busy := x.state = .run ∨ x.state = .wait
    let why := fun (c : RespCode) => if c = .domainOff then 8 else if c = .ue then 9 else 7
    (∀ m : Master, CanWrite s m → s.glob.phase = .primed → usable →
      (busy → exec (.dchCtlStart m n) s = .next s ∧ ∃ t, exec (.dchCtlAbort m n) s = .next t ∧ halted t x 10) ∧
      (¬busy → exec (.dchCtlAbort m n) s = .next s ∧
        let y : Dma := { x with
          state := .run
          cause := 0
          retries := 0
          failed := none
          cur := none
          left := 0 }
        (dmaHeld s n x.desc.toNat = true → exec (.dchCtlStart m n) s = .next (starts [n] y)) ∧
        ∀ (bs : List Byte), matRead0 (.dma n) x.desc.toNat 32 (starts [] y) = (.okay, bs, starts [] y) →
          let d := leNat bs
          let e := nbits d 50 48
          let len := nbits d 159 128
          let circ := fun (c : Nat) => 1 ≤ c ∧ c ≤ 3 ∨ 29 ≤ c
          let cause := if 3 < e ∨ nbits d 47 0 % 2 ^ e ≠ 0 ∨ nbits d 111 64 % 2 ^ e ≠ 0 ∨ len % 2 ^ e ≠ 0 then 1
            else if nbit d 51 = true ∧ e = 0 ∨ nbit d 52 = true ∧ e < 2 then 2
            else if circ (nbits d 60 56) ∨ circ (nbits d 116 112) then 3
            else if nbits d 55 53 ≠ 0 ∨ nbits d 63 61 ≠ 0 ∨ nbits d 119 117 ≠ 0 ∨ nbit d 123 = true ∨ nbit d 127 = true ∨
              nbits d 191 160 ≠ 0 ∨ nbits d 255 235 ≠ 0 then 6 else 0
          let z : Dma := { y with
            cur := some (BitVec.ofNat 256 d)
            before := { src := x.src, dst := x.dst, left := 0, fill := x.fill } }
          dmaHeld s n x.desc.toNat = false →
          (cause ≠ 0 → ∃ t, exec (.dchCtlStart m n) s = .next t ∧ halted t z cause) ∧
          let g : Dma := { z with
            src := BitVec.ofNat 64 (nbits d 47 0)
            dst := BitVec.ofNat 64 (nbits d 111 64)
            left := BitVec.ofNat 32 len }
          (cause = 0 → nbit d 120 = false → exec (.dchCtlStart m n) s = .next (starts [] g)) ∧
          (cause = 0 → nbit d 120 = true →
            let source := x.pace.toNat % 4
            let lo := x.level.toNat % 2 ^ 16
            let hi := x.level.toNat / 2 ^ 16
            (source = 0 ∨ source = 3 ∨ hi ≤ lo → ∃ t, exec (.dchCtlStart m n) s = .next t ∧ halted t g 4) ∧
            (source = 1 ∨ source = 2 → lo < hi →
              (paceFill s x.pace = none → ∃ t, exec (.dchCtlStart m n) s = .next t ∧ halted t g 5) ∧
              ∀ f, paceFill s x.pace = some f → exec (.dchCtlStart m n) s = .next (starts [] { g with
                fill := BitVec.ofNat 16 f
                state := if hi ≤ f then .run else .wait }))))) ∧
    (∀ d : BitVec 256, x.state = .run → x.failed = none → x.cur = some d → d.getLsbD 120 = false → x.left = 0 →
      (d.getLsbD 122 = true → ∃ t, exec (.descriptorComplete n) s = .next t ∧
        t = { s with
          mx := t.mx
          vents := t.vents } ∧
        dmaAt t n = { x with
          state := .done
          evt := true } ∧ (∀ k, k ≠ n → dmaAt t k = dmaAt s k) ∧
        (n < 192 → t.vents = fset (8 * (n / 16) + nbits d.toNat 126 124)
          { ventAt s (8 * (n / 16) + nbits d.toNat 126 124) with evt := (ventAt t (8 * (n / 16) + nbits d.toNat 126 124)).evt } s.vents ∧
          (ventAt t (8 * (n / 16) + nbits d.toNat 126 124)).evt.pend.getLsbD 0 = true) ∧
        (192 ≤ n → t.vents = s.vents ∧ t.mx.mvNotice = s.mx.mvNotice + 1)) ∧
      (d.getLsbD 122 = false → d.getLsbD 121 = false → exec (.descriptorComplete n) s = .next (dmaSettle (put { x with
        cur := none
        desc := BitVec.ofNat 64 (nbits d.toNat 234 192 * 32) })))) ∧
    (∀ code : RespCode,
      let fails := fun (i : Instr) (y : Dma) (addr : Nat) =>
        (s.mx.dmaRetry ≠ 0 → exec i s = .next (put { y with
          failed := some code
          failAddr := addr
          failTick := s.timebase.toNat
          retries := 0
          limit := s.mx.dmaRetry.toNat })) ∧
        (s.mx.dmaRetry = 0 → ∃ t, exec i s = .next t ∧ halted t { y with
          errAddr := BitVec.ofNat 64 addr
          retries := 0 } (why code))
      (∀ (d : BitVec 256) (bs : List Byte), x.state = .run → x.failed = none → x.cur = some d → 0 < x.left.toNat →
        dmaBlocked s n = false → matRead0 (.dma n) x.src.toNat (burstLen x d.toNat) s = (.okay, bs, s) →
        fails (.busError n (.readAt x.left.toNat) code) x x.src.toNat ∧
        fails (.busError n (.writeAt x.left.toNat) code) x x.dst.toNat) ∧
      (∀ d : BitVec 256, busy → x.failed = none → x.cur = some d → dmaFresh x = true →
        fails (.busError n .fetch code) { x with
          cur := none
          src := x.before.src
          dst := x.before.dst
          left := x.before.left
          fill := x.before.fill
          state := .run } x.desc.toNat) ∧
      (busy → x.failed = none → x.cur = none → fails (.busError n .fetch code) x x.desc.toNat)) ∧
    (∀ ok last, s.timebase.toNat < x.failTick + 1000 → exec (.dmaRetry n ok last) s = .next s) ∧
    (∀ code : RespCode, busy → x.failed = some code → x.failTick + 1000 ≤ s.timebase.toNat →
      (∀ last : Option RespCode,
        let code := if last = none ∨ last = some .okay then code else last.getD code
        (x.retries + 1 < x.limit → exec (.dmaRetry n false last) s = .next (put { x with
          failed := some code
          failTick := s.timebase.toNat
          retries := x.retries + 1 })) ∧
        (x.limit ≤ x.retries + 1 → ∃ t, exec (.dmaRetry n false last) s = .next t ∧
          halted t { x with
            errAddr := BitVec.ofNat 64 x.failAddr
            retries := x.retries + 1 } (why code))) ∧
      ∀ d : BitVec 256, x.cur = some d →
        (dmaBlocked s n = true → exec (.dmaRetry n true) s = .next { s with mx := { s.mx with waiting := [n] } }) ∧
        (dmaBlocked s n = false → (dmaBurst s n).1 = .okay → ∃ t, exec (.dmaRetry n true) s = .next (dmaSettle t) ∧
          t = { (dmaBurst s n).2.2 with mx := t.mx } ∧ (dmaAt t n).failed = none ∧ (dmaAt t n).retries = 0)) ∧
    (∀ d : BitVec 256, busy → x.cur = some d → d.getLsbD 120 = true →
      let lo := x.level.toNat % 2 ^ 16
      let hi := x.level.toNat / 2 ^ 16
      (paceFill s x.pace = none → ∃ t, exec (.pacingFillChange n) s = .next t ∧ halted t x 5) ∧
      ∀ f, paceFill s x.pace = some f → exec (.pacingFillChange n) s = .next (put { x with
        fill := BitVec.ofNat 16 f
        state := if x.state = .wait then (if hi ≤ f then .run else .wait) else if f ≤ lo then .wait else .run }))) ∧
  (∀ (s : State) (n : Nat) (d : BitVec 256), n < 256 →
    dmaDue s = [] → s.mx.waiting = [] → (n < 192 → portLoad s (dmaPort n) < 64) →
    let x := dmaAt s n
    let a := x.src.toNat
    let b := x.dst.toNat
    let k := x.left.toNat
    x.state = .run → x.failed = none → x.cur = some d → d.getLsbD 120 = false → d.getLsbD 122 = true →
    (∀ l ∈ s.mx.locks, l.ended = true) → nbits d.toNat 60 51 = 0 → nbits d.toNat 116 112 = 0 → nbits d.toNat 50 48 ≤ 3 →
    s.hbm.badWords = [] → 0x60000000 ≤ a → a + k ≤ 0x63000000 → 0x60000000 ≤ b → b + k ≤ 0x63000000 → a + k ≤ b ∨ b + k ≤ a →
    ∃ t, exec (.descriptorComplete n) s = .next t ∧
      t = { s with
        mem := t.mem
        mx := t.mx
        vents := t.vents } ∧
      (∀ i < k, memGet t.mem (b + i) = memGet s.mem (a + i)) ∧
      (∀ y, y < b ∨ b + k ≤ y → memGet t.mem y = memGet s.mem y) ∧
      dmaAt t n = { x with
        state := .done
        evt := true
        src := BitVec.ofNat 64 (a + k)
        dst := BitVec.ofNat 64 (b + k)
        left := 0 })

/-- R277, R332, R364: gating and power. What remains in flight after 10 µs is ended with MX_ERR.DOMOFF; a gated caldera's
memory, palettes, vents and channels are lost, and nobody else's; one that powers up holds the sections in force,
write-protected, at the clock ceiling, and is ON. Each change of power posts CALPOWER. Rests on the model's choices of
log entries 3, 39, 40 and 52. -/
def Obligations.calderaPower : Prop :=
  ∀ (s : State) (c : Nat), c < 12 →
    let inside := fun (a : Nat) => calBase c ≤ a ∧ a < calBase c + 0x400000 ∨ palBase (8 * c) ≤ a ∧ a < palBase (8 * c + 8)
    let x := calAt s c
    (x.power = .gating → x.gateTick + 10000 ≤ s.timebase → calInFlight s c = true → ∃ t, exec (.domainOffTimeout c) s = .next (dmaSettle t) ∧
      t = { s with
        vents := t.vents
        mx := { s.mx with
          err := s.mx.err ||| 2
          errInfo := BitVec.ofNat 12 (2 * c + 128 * c)
          locks := s.mx.locks.map (fun l => if l.target / 2 = c ∧ l.target < 24 then { l with ended := true } else l) } } ∧
      (∀ v, ventAt t v = if v / 8 = c then { ventAt s v with fl := { (ventAt s v).fl with
        far := []
        farWrites := [] } } else if v ≤ mvNum then markAccepted c false (ventAt s v) else ventAt s v) ∧ calInFlight t c = false) ∧
    (x.power = .gating → calInFlight s c = false → ∃ u, exec (.calderaGated c) s = .next (postEvent u 0 6 4 (c * 256 + 2 ^ 12)) ∧
      u = { s with
        mem := u.mem
        vents := u.vents
        cals := fset c { x with
          power := if s.power.calgate.getLsbD c then .off else .powering
          clk := 0
          prot := [] } s.cals
        mx := { s.mx with dma := u.mx.dma }
        hbm := { s.hbm with badWords := u.hbm.badWords }
        easel := { s.easel with ctxCache := fdel c s.easel.ctxCache } } ∧
      (∀ a, inside a → memGet u.mem a = 0) ∧ (∀ a, ¬inside a → memGet u.mem a = memGet s.mem a) ∧
      (∀ v, ventAt u v = if v / 8 = c then {
          upAt := (ventAt s v).upAt
          downAt := if (ventAt s v).held = true ∨ (ventAt s v).isolating = true then (ventAt s v).downAt else s.timebase }
        else ventAt s v) ∧ ∀ n, dmaAt u n = if n / 16 = c then {} else dmaAt s n) ∧
    (x.power = .powering → ∃ u, exec (.calderaPowerUp c) s = .next (postEvent u 0 6 4 (c * 256)) ∧
      u = { s with
        mem := u.mem
        hbm := { s.hbm with badWords := u.hbm.badWords }
        cals := fset c { x with
          power := .on
          clk := if s.power.shut then 600 else s.power.vclk.toNat
          prot := s.glob.sections.map (fun p => (p.1, p.2.length)) } s.cals } ∧
      (s.glob.sections.Pairwise (fun p q => p.1 + p.2.length ≤ q.1 ∨ q.1 + q.2.length ≤ p.1) →
        ∀ p ∈ s.glob.sections, ∀ i < p.2.length, memGet u.mem (calBase c + p.1 + i) = p.2.getD i 0) ∧
      ∀ a, (∀ p ∈ s.glob.sections, a < calBase c + p.1 ∨ calBase c + p.1 + p.2.length ≤ a) → memGet u.mem a = memGet s.mem a)

/-- R53, R149, R239, R257, R266, R268, R269: memory. What a master writes to the packet buffer it reads back, and no other byte
changes;
key, salt and hash key bytes of the store read as zeros, and a write of them in a slot that is not EMPTY, or of what KC
keeps in a context record, is discarded and recorded; a marked region of HBM reads as zeros and is zeroed once, in
address order; an error that arises stands in its word until a read or scrub meets it; scrub counts correctable errors,
poisons and records uncorrectable ones, and leaves marked regions alone; a register-file cell keeps its error, and fetch
finds no I-cache line that has a parity error. Rests on the model's choices of log entry 40. -/
def Obligations.memoryStores : Prop :=
  ∀ s : State,
    (∀ (m : Master) (a : Nat) (bs : List Byte), bs ≠ [] → 0x60000000 ≤ a → a + bs.length ≤ 0x63000000 → s.hbm.badWords = [] →
      let w := matWrite0 m (addrBytes a bs) s
      w.1 = .okay ∧ matRead0 m a bs.length w.2 = (.okay, bs, w.2) ∧
      w.2 = { s with mem := w.2.mem } ∧ ∀ y, y < a ∨ a + bs.length ≤ y → memGet w.2.mem y = memGet s.mem y) ∧
    (∀ o n : Nat, (∀ i < n, ∃ k j, storeLoc (o + i) = .key k j ∧ j < 60) → storeRead s o n = (.okay, zeros n, s)) ∧
    (∀ (o k j : Nat) (b : Byte), storeLoc o = .key k j → j < 60 → (slotAt s (k / 6) (k % 6)).state ≠ .empty →
      storeWrite s [(o, b)] = (.okay, ctxErr s 0)) ∧
    (∀ (o c j : Nat) (b : Byte), storeLoc o = .ctx c j → 0x60 ≤ j → storeWrite s [(o, b)] = (.okay, ctxErr s 1)) ∧
    (∀ r, hbmMarked s r = true → ∀ (o n : Nat), r * 0x100000 ≤ o → o + n ≤ (r + 1) * 0x100000 →
      (hbmReadBytes s o n) = (.okay, List.replicate n 0, s)) ∧
    (∀ r, r = s.hbm.zeroNext → hbmMarked s r = true → ∃ t, exec .hbmZeroing s = .next t ∧
      t = { s with
        mem := t.mem
        hbm := { s.hbm with
          zeroNext := t.hbm.zeroNext
          zeroed := t.hbm.zeroed
          poison := s.hbm.poison.filter (fun k => k / 0x8000 != r)
          latent := s.hbm.latent.filter (fun p => p.1 / 0x8000 != r) } } ∧
      (∀ k, hbmMarked t k = (hbmMarked s k && k != r)) ∧
      ∀ a, memGet t.mem a = if hbmBase + r * 0x100000 ≤ a ∧ a < hbmBase + (r + 1) * 0x100000 then 0 else memGet s.mem a) ∧
    (s.glob.phase = .primed → ∀ o < hbmSize s, s.hbm.trained.getLsbD (hbmStack s o) = true →
      let stood := ffind s.hbm.latent (o / 32)
      let scrub := fun (f : ScrubFound) => exec (.patrolScrub (hbmBase + o) f) s
      let passed := fun (h : Hbm) =>
        let g := { h with latent := fdel (o / 32) h.latent }
        ({ s with hbm := if o / 32 = hbmSize s / 32 - 1 then { g with scrubPass := g.scrubPass + 1 } else g } : State)
      let corrected := passed { s.hbm with
        err := s.hbm.err ||| 1
        ceCount := if s.hbm.ceCount = 0xFFFFFFFF then 0xFFFFFFFF else s.hbm.ceCount + 1 }
      let found := passed { s.hbm with
        err := s.hbm.err ||| 4
        errAddr := BitVec.ofNat 64 ((hbmBase + o) / 32 * 32)
        poison := if o / 32 ∈ s.hbm.poison then s.hbm.poison else o / 32 :: s.hbm.poison }
      (hbmMarked s (o / 0x100000) = true → (∀ u, scrub (.arises u) = .next s) ∧
        ∀ f ∈ [ScrubFound.clean, .correctable, .uncorrectable], scrub f = .next (passed s.hbm)) ∧
      (hbmMarked s (o / 0x100000) = false →
        (∀ u, scrub (.arises u) = .next { s with hbm := { s.hbm with latent := fset (o / 32) u s.hbm.latent } }) ∧
        (stood = none → scrub .clean = .next (passed s.hbm)) ∧ (stood = some false → scrub .clean = .next corrected) ∧
        (stood ≠ some true → scrub .correctable = .next corrected ∧ scrub .uncorrectable = .next found) ∧
        (stood = some true → ∀ f ∈ [ScrubFound.clean, .correctable, .uncorrectable], scrub f = .next found))) ∧
    (s.glob.phase = .primed → ∀ (a v b : Nat), ventFitted s v = true → ∃ t, exec (.patrolScrub a (.codeLine v b)) s = .next t ∧
      let x := ventAt s v
      t = setVent s v { x with fl := { x.fl with icache := (ventAt t v).fl.icache } } ∧
      (ventAt t v).fl.icache = x.fl.icache.map (fun l => if l.block = b then { l with bad := true } else l) ∧
      codeLine (ventAt t v) b = x.fl.lbuf.find? (fun l => l.block == b)) ∧
    (s.glob.phase = .primed → ∀ (a v x : Nat), ventFitted s v = true →
      exec (.patrolScrub a (.register v x)) s = .next (setVent s v { ventAt s v with
        badRegs := if x ∈ (ventAt s v).badRegs then (ventAt s v).badRegs else x :: (ventAt s v).badRegs })) ∧
    (s.glob.phase = .primed → ∀ o < 0x3000000, ∃ t, exec (.patrolScrub (0x60000000 + o) .correctable) s = .next t ∧
      t = { s with
        vents := t.vents
        qm := { s.qm with err := s.qm.err ||| 8 } }) ∧
    (s.glob.phase = .primed → ∀ o < 0x3000000, ∃ t, exec (.patrolScrub (0x60000000 + o) .uncorrectable) s = .next t ∧
      t = { s with
        vents := t.vents
        qm := { s.qm with
          err := s.qm.err ||| 16
          errAddr := o / 256 }
        hbm := { s.hbm with badWords := t.hbm.badWords } } ∧ (0x60000000 + o) / 4 ∈ t.hbm.badWords)

/-- R321, R343, R349 to R351, R363: PORESET_N, or a rail below 90 % of nominal for more than 1 µs, puts the whole part at
its reset
values but for the fuses, the balls, the TAP and the host's own memory; RSTSRC says which, VDD_IO counting as PORESET_N.
Priming starts at stage A when the ball and the rails release the islands and no thermal trip holds them. The TAP: each
instruction is selected by its opcode, any other opcode acts as BYPASS; IDCODE gives the part's identification; EXTEST,
CLAMP, HIGHZ and the two pulse instructions take the balls from the logic, so that every link goes down, and drive what the
boundary-scan cells hold, HIGHZ nothing; the debug access port halts and steps a running caldera's vents (how, log entry 42)
and masters the matrix; the others leave everything but the TAP. Rests on the model's choices of log entries 5, 39, 41
and 42. -/
def Obligations.resetsAndTap : Prop :=
  (∀ s : State,
    let fresh : State := { State.reset with
      pending := s.pending
      freeCtr := s.freeCtr
      balls := s.balls
      fuses := s.fuses
      hostMem := s.hostMem
      jtag := s.jtag }
    let begins := fun (t : State) => ({ t with glob := { t.glob with phase := .stageA } } : State)
    exec .poresetNAssert s = .next { fresh with
      balls := { s.balls with poresetN := false }
      jtag := { s.jtag with taken := false }
      power := { railLow := s.power.railLow } } ∧
    (∀ k < 5, exec (.railLowReset k) s = .next { fresh with
      power := { rstsrc := 1, railLow := true, tripped := s.power.tripped } }) ∧
    exec (.railLowReset 5) s = .next { fresh with power := { rstsrc := 0, railLow := true, tripped := s.power.tripped } } ∧
    (let up : State := { s with balls := { s.balls with poresetN := true } }
     (s.glob.phase = .reset → s.power.railLow = false → s.power.tripped = false →
       exec .poresetNRelease s = .next (begins up)) ∧
     (s.glob.phase ≠ .reset ∨ s.power.railLow = true ∨ s.power.tripped = true → exec .poresetNRelease s = .next up)) ∧
    (let up : State := { s with power := { s.power with railLow := false } }
     (s.glob.phase = .reset → s.balls.poresetN = true → s.power.tripped = false →
       exec .railsRecovered s = .next (begins up)) ∧
     (s.glob.phase ≠ .reset ∨ s.balls.poresetN = false ∨ s.power.tripped = true → exec .railsRecovered s = .next up))) ∧
  (∀ s : State,
    let shows := fun (op : Byte) (sel : TapReg) (dr : Word) => { s.jtag with
      ir := op
      sel := sel
      dr := dr
      bypassBit := false }
    let select := fun (j : Jtag) => ({ s with jtag := j } : State)
    let takes := fun (c : Instr) (j : Jtag) (drives : Option (List Bool)) => ∃ t, exec c s = .next t ∧ tapDrive t = drives ∧
      t = { s with
        jtag := { j with taken := true }
        ports := t.ports
        hb := t.hb
        hostMem := t.hostMem } ∧
      t.hb.linkup = false ∧ (∀ src, subUp t src = false) ∧ ∀ p, portAt t p = { portAt s p with link := (portAt t p).link }
    let chip : Nat := match s.fuses.variant with
      | .sz1600A => 0x01011600
      | .sz1600X => 0x01021600
      | .sz1200A => 0x01011200
      | .sz0800A => 0x01010800
    exec .jtagTrstN s = .next (select (shows 1 .ident 0)) ∧
    exec .idcode s = .next (select (shows 1 .ident (BitVec.ofNat 32
      (1 + 2 * Config.jedecCode.toNat + chip % 2 ^ 16 * 2 ^ 12 + chip / 2 ^ 24 % 16 * 2 ^ 28)))) ∧
    (∀ caught shifted : List Bool,
      exec (.samplePreload caught shifted) s = .next (select { shows 2 .boundary 0 with
        caught := caught
        cells := shifted }) ∧
      ∀ p ∈ [(Instr.extest caught shifted, (0 : Byte)), (.extestPulse caught shifted, 8), (.extestTrain caught shifted, 9)],
        takes p.1 { shows p.2 .boundary 0 with
          caught := caught
          cells := shifted } (some shifted)) ∧
    takes .clamp (shows 4 .bypass 0) (some s.jtag.cells) ∧ takes .highz (shows 5 .bypass 0) none ∧
    (∀ op : Byte,
      (op ∉ [0, 1, 2, 4, 5, 8, 9, 0x10] → exec (.bypass op) s = .next (select (shows op .bypass 0))) ∧
      (op ∈ [0, 1, 2, 4, 5, 8, 9, 0x10] → exec (.bypass op) s = .next s)) ∧
    exec (.dap .select) s = .next (select (shows 0x10 .debug 0)) ∧
    (s.jtag.ir = 0x10 → s.glob.phase ≠ .reset →
      (∀ v < 96, v / 8 < nCals s → (calAt s (v / 8)).power = .on → s.store.kemSealed ≠ some (v / 8) →
        let put := fun (halted single : Bool) => setVent s v { ventAt s v with
          halted := halted
          single := single }
        exec (.dap (.halt v)) s = .next (put true false) ∧ exec (.dap (.go v)) s = .next (put false false) ∧
        exec (.dap (.single v)) s = .next (put true true)) ∧
      (∀ a acc, matLocked .jtag a s = true → exec (.dap (.access a acc)) s = .next s) ∧
      (∀ a n, matLocked .jtag a s = false →
        let r := matRead .jtag a n s
        exec (.dap (.access a (.read n))) s = .next { r.2.2 with jtag := { r.2.2.jtag with
          dapData := r.2.1
          dapCode := r.1 } }) ∧
      ∀ a bs, matLocked .jtag a s = false →
        let w := matWrite .jtag (addrBytes a bs) s
        exec (.dap (.access a (.write bs))) s = .next { w.2 with jtag := { w.2.jtag with dapCode := w.1 } }))

/-- R322 to R326, R328, R331: Priming. Stage A ends in HOSTWAIT with every on-die store zero, or with FAIL 9, 10 or 11; GO
starts verification from HOSTWAIT or after FAIL 1 to 8, counts the attempt, and is otherwise recorded as ignored;
verification ends with the FAIL code and detail of the first check that fails, or starts stage B with what the board
description's records and the image say; stage B ends with FAIL 12 to 14, or PRIMED with HBM trained, zero and marked,
no VALID parameter block, every fitted caldera on, and the MV at MVENTRY. Rests on the model's choices of log entries 3,
8, 16, 33 and 39. -/
def Obligations.priming : Prop :=
  ∀ s : State,
    let fails := fun (c : Instr) (code detail : Nat) => ∃ t, exec c s = .next t ∧ t = { s with
      glob := { s.glob with
        phase := .failed
        stagingShut := s.glob.stagingShut && !(decide (1 ≤ code) && decide (code ≤ 8))
        fail := BitVec.ofNat 8 code
        failDetail := BitVec.ofNat 8 detail }
      hb := t.hb }
    let refused := s.fuses.testLock && s.balls.testEn
    (s.glob.phase = .stageA →
      (refused = false → exec (.hostwait .ok) s = .next { s with
        mem := []
        store := {}
        glob := { s.glob with
          phase := .hostWait
          cfgReady := true } }) ∧
      (refused = true → fails (.hostwait .ok) 9 0 ∧ fails (.hostwait .sram) 9 0) ∧
      (refused = false → fails (.hostwait .sram) 11 0) ∧ ∀ b, fails (.hostwait (.fuse b)) 10 b.toNat) ∧
    (∀ (m : Master) (w : Word), CanWrite s m → w.getLsbD 0 = true →
      let ready := s.glob.phase = .hostWait ∨ (s.glob.phase = .failed ∧ 1 ≤ s.glob.fail.toNat ∧ s.glob.fail.toNat ≤ 8)
      (ready → exec (.primeCtlGo m w) s = .next (dmaSettle { s with glob := { s.glob with
        phase := .verify
        stagingShut := true
        fail := 0
        failDetail := 0
        attempts := s.glob.attempts + 1 } })) ∧
      (¬ready → exec (.primeCtlGo m w) s = .next (dmaSettle { s with glob := { s.glob with goIgn := true } }))) ∧
    (s.glob.phase = .verify →
      (∀ c d, bdCheck s = .inl (c, d) → fails .stageb c d) ∧
      (∀ rs, bdCheck s = .inr rs →
        let i := imageAt s mvBase
        let bad := imageCheck s i (decide (i.len ≤ 1572864))
        (∀ c d, bad = some (c, d) → fails .stageb c d) ∧
        (bad = none → ∃ t, exec .stageb s = .next t ∧
          t = { s with
            ports := t.ports
            power := { s.power with
              throttle := t.power.throttle
              shutdown := t.power.shutdown }
            mgmt := t.mgmt
            glob := { s.glob with
              phase := .stageB
              runSvn := BitVec.ofNat 7 i.svn
              sections := calSections s i
              primImg := shake256 (signedBytes s i) 32
              mvDigs := t.glob.mvDigs
              bdDig := t.glob.bdDig
              mvEntry := i.entry } } ∧
          ∀ r ∈ rs, (r.1 = 2 → (portAt t (byteAt r.2 0)).refb = (byteAt r.2 1 == 1)) ∧
            (r.1 = 4 → (portAt t (byteAt r.2 0)).fallPerm = BitVec.ofNat 3 (byteAt r.2 1)) ∧
            (r.1 = 5 → t.power.throttle = BitVec.ofNat 8 (byteAt r.2 0) ∧ t.power.shutdown = BitVec.ofNat 8 (byteAt r.2 1)) ∧
            (r.1 = 6 → ∀ n < 4, fget 0 t.mgmt.i2cSpeed n = byteAt r.2 n ∧
              (t.mgmt.i2cEn.getLsbD n = true ↔ byteAt r.2 n ≠ 0))))) ∧
    (s.glob.phase = .stageB →
      (∀ k, fails (.primed (.hbmTrain k)) 12 k.toNat) ∧ (∀ u, fails (.primed (.selfTest u)) 13 u.toNat) ∧
      (∀ c, fails (.primed (.caldera c)) 14 c.toNat) ∧
      ∃ t, exec (.primed .ok) s = .next t ∧
        t = { s with
          glob := { s.glob with
            phase := .primed
            idpk := identityKey s }
          hbm := { s.hbm with
            trained := BitVec.ofNat 4 (2 ^ nStacks s - 1)
            zeroing := true
            zeroNext := 0
            zeroed := []
            poison := []
            latent := []
            badWords := t.hbm.badWords }
          mem := t.mem
          cals := t.cals
          hb := t.hb
          store := { s.store with ctxs := t.store.ctxs }
          vents := fset mvNum { ventAt s mvNum with
            held := false
            pc := BitVec.ofNat 32 (mvBase + s.glob.mvEntry) } s.vents } ∧
        (∀ c, ctxAt t c = { ctxAt s c with
          blk0 := (ctxAt s c).blk0 &&& ~~~1
          blk1 := (ctxAt s c).blk1 &&& ~~~1 }) ∧
        (∀ c < nCals s, (calAt t c).power = .on ∧ (calAt t c).clk = s.power.vclk.toNat ∧
          (calAt t c).prot = s.glob.sections.map (fun p => (p.1, p.2.length))) ∧
        ((∀ p ∈ s.glob.sections, p.1 + p.2.length ≤ 0x380000) → ∀ o < hbmSize s, memGet t.mem (hbmBase + o) = 0))

/-- R341, R343, R357, R358, R361 to R363: rails, sensors and references. A rail outside its tolerance raises POWER_ERR.RAIL
and an event. A reading of 125 °C trips the part, which keeps TIMEBASE; one at the shutdown threshold shuts
down a part whose Priming is over (every link down, running calderas at 600 MHz) and fails Priming otherwise. Losing
SYSCLK or a reference
takes the ports down, and a restored one posts its event. Rests on the model's choices of log entries 3, 38 and 39. -/
def Obligations.railsAndTemperatures : Prop :=
  ∀ s : State,
    let raise := fun (b : Nat) (t : State) => ({ t with power := { t.power with err := t.power.err ||| (1 <<< b) } } : State)
    (∀ (k : Nat) (mv : BitVec 12), k < 6 → s.glob.phase ≠ .reset →
      let nominal := [750, 800, 900, 1200, 1100, 1800].getD k 0
      let percent := if k = 5 then 5 else 3
      let t : State := { s with power := { s.power with vmon := fset k mv s.power.vmon } }
      let off : Prop := (100 * mv.toNat < nominal * (100 - percent) ∨ nominal * (100 + percent) < 100 * mv.toNat) ∧
        90 * nominal ≤ 100 * mv.toNat
      (off → exec (.rail k mv) s = .next (raise 1 (postEvent t 0 6 5 (k * 256)))) ∧ (¬off → exec (.rail k mv) s = .next t)) ∧
    let shuts := s.glob.phase == .primed ||
      s.glob.phase == .failed && !(decide (1 ≤ s.glob.fail.toNat) && decide (s.glob.fail.toNat ≤ 8))
    (∀ rs : List (Nat × Byte), s.glob.phase ≠ .reset → s.glob.phase ≠ .stageA → (rs.map Prod.fst).Nodup →
      (∀ p ∈ rs, sensorFitted s p.1 = true) →
      ((∃ p ∈ rs, 189 ≤ p.2.toNat) → exec (.thermalSample rs) s = .next { State.reset with
        pending := s.pending
        freeCtr := s.freeCtr
        timebase := s.timebase
        balls := s.balls
        fuses := s.fuses
        hostMem := s.hostMem
        jtag := s.jtag
        power := { rstsrc := 2, railLow := s.power.railLow, tripped := true, shut := s.power.shut || shuts } }) ∧
      ((∀ p ∈ rs, p.2.toNat < 189) → ∃ t, exec (.thermalSample rs) s = .next t ∧
        (∀ p ∈ rs, fget 0 t.power.temp p.1 = BitVec.ofNat 9 (256 + p.2.toNat) ∧
          (p.1 < 12 → let k := s.timebase.toNat / 100000
            let old := fget 0 (calAt s p.1).hot k
            fget 0 (calAt t p.1).hot k = (if old < p.2 then p.2 else old) ∧
            (0 < k → fget 0 (calAt t p.1).hot (k - 1) = fget 0 (calAt s p.1).hot (k - 1)))) ∧
        (∀ n, n ∉ rs.map Prod.fst → fget 0 t.power.temp n = fget 0 s.power.temp n ∧ (calAt t n).hot = (calAt s n).hot) ∧
        ((∀ p ∈ rs, p.2.toNat < s.power.shutdown.toNat + 64) ∨ s.power.shut = true ∧ shuts = true →
          t = { s with
            power := { s.power with temp := t.power.temp }
            cals := t.cals } ∧ ∀ c, (calAt t c).clk = (calAt s c).clk ∧ (calAt t c).power = (calAt s c).power) ∧
        ((∃ p ∈ rs, s.power.shutdown.toNat + 64 ≤ p.2.toNat) →
          (shuts = true → s.power.shut = false →
            t = { s with
              power := { s.power with
                temp := t.power.temp
                shut := true }
              cals := t.cals
              ports := t.ports
              hb := t.hb
              hostMem := t.hostMem } ∧ (∀ src, subUp t src = false) ∧
            ∀ c < 12, (calAt t c).power = (calAt s c).power ∧
              (calAt t c).clk = if (calAt s c).clk = 0 then 0 else 600) ∧
          (shuts = false →
            t.glob = { s.glob with
              phase := .failed
              fail := 15
              failDetail := 0 })))) ∧
    (s.glob.phase ≠ .reset → s.power.syslost = false → ∃ t, exec .sysclkLost s = .next t ∧
      t = { s with
        power := { s.power with
          syslost := true
          tbdrift := true
          err := s.power.err ||| 4 }
        ports := t.ports
        hb := t.hb
        hostMem := t.hostMem } ∧ (∀ src, subUp t src = false) ∧ ∀ p, portAt t p = { portAt s p with link := (portAt t p).link }) ∧
    (s.power.syslost = true → exec .sysclkRestored s = .next
      (postEvent { s with power := { s.power with syslost := false } } 0 6 3 0)) ∧
    (∀ p < 4, (s.glob.phase ≠ .reset → (portAt s p).reflost = false → ∃ t, exec (.reflost p) s = .next t ∧
        t = { s with
          power := { s.power with err := s.power.err ||| 4 }
          ports := t.ports
          hb := t.hb
          hostMem := t.hostMem } ∧
        (∀ q, portAt t q = { portAt s q with
          link := (portAt t q).link
          reflost := (portAt s q).reflost || q == p }) ∧
        ∀ src, src < 32 → subUp t src = (subUp s src && src / 8 != p)) ∧
      ((portAt s p).reflost = true → exec (.referenceRestored p) s = .next (postEvent { s with
        ports := fset p { portAt s p with reflost := false } s.ports } 0 5 5 (p * 256))))

/-- R354 to R356, R359, R360: lanes. An open or shorted lane is recorded with POWER_ERR.LANEFAULT and its event, and the
sub-port that uses the lane goes down; a lane whose signal returns counts 100 ms and then serves again, and PORT_LANECLR
enables shorted lanes; a fallen-back sub-port whose lanes are all clear goes down to train at its configured width. An
eye below EYEMIN is recorded, and a port's sub-ports enter and leave the degraded condition with an event each. Rests on
the model's choices of log entries 3 and 38. -/
def Obligations.laneFaults : Prop :=
  ∀ (s : State) (p n : Nat), s.glob.phase = .primed → p < 4 → n < 8 →
    let x := portAt s p
    let bit : Byte := (1 : Byte) <<< n
    let put := fun (y : Port) => ({ s with ports := fset p y s.ports } : State)
    let raise := fun (b : Nat) (t : State) => ({ t with power := { t.power with err := t.power.err ||| (1 <<< b) } } : State)
    let faulty := fun (y : Port) (short : Bool) =>
      let t := raise 3 (postEvent (put y) 0 5 3 (p * 256 + n * 2 ^ 10 + b2n short * 2 ^ 13))
      let k := n * 2 ^ x.brkout.toNat / 8
      if (usedLanes x k).testBit n = true then subDown t (8 * p + k) (if short then 2 else 1) else t
    let retrained := fun (u t : State) => t = { u with
        ports := t.ports
        hb := t.hb
        hostMem := t.hostMem } ∧ (∀ q, portAt t q = { portAt u q with link := (portAt t q).link }) ∧
      ∀ src < 32, subUp t src = (subUp u src && !(src / 8 == p && usedLanes (portAt u p) (src % 8) != brkLanes x.brkout (src % 8) &&
        faultLanes (portAt u p) &&& brkLanes x.brkout (src % 8) == 0))
    let back := x.losPend.getLsbD n = true ∧ fget 0 x.losTick n + 100000000 ≤ s.timebase
    (x.los.getLsbD n = false → ¬back → exec (.lossOfSignal p n) s = .next (faulty { x with
      los := x.los ||| bit
      losPend := x.losPend &&& ~~~bit
      signal := x.signal &&& ~~~bit } false)) ∧
    (x.los.getLsbD n = false → back → ∃ u, exec (.losClear p n) s = .next u ∧ exec (.lossOfSignal p n) s = exec (.lossOfSignal p n) u) ∧
    (x.txfault.getLsbD n = false → exec (.transmitShort p n) s = .next (faulty { x with txfault := x.txfault ||| bit } true)) ∧
    (x.los.getLsbD n = true → exec (.signalRestored p n) s = .next (put { x with
      los := x.los &&& ~~~bit
      losPend := x.losPend ||| bit
      losTick := fset n s.timebase x.losTick
      signal := x.signal ||| bit })) ∧
    (x.losPend.getLsbD n = true → fget 0 x.losTick n + 100000000 ≤ s.timebase → ∃ t, exec (.losClear p n) s = .next t ∧
      retrained (put { x with
        losPend := x.losPend &&& ~~~bit
        losTick := fdel n x.losTick }) t) ∧
    (∀ (m : Master) (w : Word), CanWrite s m → ∃ t, exec (.portLaneclr m p w) s = .next (dmaSettle t) ∧
      retrained (put { x with txfault := x.txfault &&& ~~~(w.truncate 8 : Byte) }) t) ∧
    (∀ h : Byte,
      let e := fget 0x0C00 x.eye n
      exec (.immediateAdaptation p n h) s = .next (put { x with
        eye := fset n ((e &&& 0xFF00) ||| h.setWidth 16) x.eye
        eyelow := if h.toNat < e.toNat / 256 then x.eyelow ||| bit else x.eyelow &&& ~~~bit })) ∧
    (∀ met : Byte, ∃ t, exec (.fecdegWindow p met) s = .next t ∧
      t = { put { x with fecdeg := met } with
        hb := t.hb
        hostMem := t.hostMem } ∧
      ∀ k < 8, (∀ j < 8, met.getLsbD j = (x.fecdeg.getLsbD j ^^ j == k)) →
        t = postEvent (put { x with fecdeg := met }) 0 5 6 ((8 * p + k) * 256 + b2n (met.getLsbD k) * 2 ^ 14))

/-- R353 to R355, R366, R367: links, breakout changes and the line checks. A sub-port that trains takes the first run of
lanes that holds no fault, records lanes and polarity, and posts FALLBACK where it uses fewer lanes than its breakout and
LINK_UP; its
partner's loss takes it down. A port that has reconfigured takes its new breakout and ends its PORT_SET. A stuck line
disables an I²C master, until I2CRETRY enables it and checks again. Rests on the model's choices of log entries 3, 34 and
38. -/
def Obligations.linksAndBuses : Prop :=
  ∀ s : State,
    (∀ (src st w : Nat) (pol : Byte), canLink s src = true → subUp s src = false → subRun s src = some (st, w) →
      let p := src / 8
      let k := src % 8
      let x := portAt s p
      let group : Byte := BitVec.ofNat 8 (brkLanes x.brkout k)
      let used : Byte := BitVec.ofNat 8 (runMask st w)
      let up : State := { s with
        ports := fset p { x with
          link := x.link ||| ((1 : Byte) <<< k)
          lanes := fset k used x.lanes
          signal := x.signal ||| (group &&& ~~~x.los)
          polinv := (x.polinv &&& ~~~group) ||| (pol &&& group) } s.ports }
      exec (.linkUp src pol) s = .next (postEvent (if used = group then up else postEvent up 0 5 4 (src * 256 + w * 2 ^ 14))
        0 5 1 (src * 256)) ∧ used.toNat &&& faultLanes x = 0 ∧ used &&& group = used) ∧
    (∀ src, subUp s src = true → exec (.linkDown src) s = .next (postEvent { s with
      ports := fset (src / 8) { portAt s (src / 8) with
        link := (portAt s (src / 8)).link &&& ~~~((1 : Byte) <<< (src % 8)) } s.ports } 0 5 2 (src * 256))) ∧
    (∀ (p id : Nat) (b : BitVec 2), (portAt s p).newBrk = some (b, id) →
      exec (.breakoutReconfigured p) s = .next (admEnd { s with
        ports := fset p { portAt s p with
          brkout := b
          newBrk := none
          lanes := [] } s.ports } id 0 0 0)) ∧
    (∀ n < 4,
      let told := fun (t : State) (off : Bool) =>
        let u := postEvent t 0 5 7 (n * 2 ^ 9 + b2n off * 2 ^ 11)
        ({ u with power := { u.power with err := u.power.err ||| 16 } } : State)
      let off := fun (t : State) => told { t with mgmt := { t.mgmt with
        i2cEn := t.mgmt.i2cEn &&& ~~~((1 : BitVec 4) <<< n)
        i2cStuck := t.mgmt.i2cStuck ||| ((1 : BitVec 4) <<< n) } } true
      (s.mgmt.i2cEn.getLsbD n = true → exec (.i2cLineCheck n .free) s = .next s ∧ exec (.i2cLineCheck n .sclLow) s = .next (off s) ∧
        exec (.i2cLineCheck n (.sdaLow true)) s = .next (told s false) ∧ exec (.i2cLineCheck n (.sdaLow false)) s = .next (off s)) ∧
      ∀ m : Master, CanWrite s m → s.glob.phase = .primed → fget 0 s.mgmt.i2cSpeed n ≠ 0 →
        let on := dmaSettle { s with mgmt := { s.mgmt with
          i2cEn := s.mgmt.i2cEn ||| ((1 : BitVec 4) <<< n)
          i2cStuck := s.mgmt.i2cStuck &&& ~~~((1 : BitVec 4) <<< n) } }
        (∀ os, obsOf os n = .free → exec (.mgmtCtlI2cretry m (BitVec.ofNat 32 (2 ^ n)) os) s = .next on) ∧
        (∀ os, obsOf os n = .sclLow → exec (.mgmtCtlI2cretry m (BitVec.ofNat 32 (2 ^ n)) os) s = .next (off on)) ∧
        ∀ k < 4, k ≠ n → fget 0 s.mgmt.i2cSpeed k ≠ 0 → ∀ os, obsOf os n = .sclLow → obsOf os k = .free →
          let b : BitVec 4 := (1 <<< n) ||| (1 <<< k)
          exec (.mgmtCtlI2cretry m (BitVec.ofNat 32 (2 ^ n + 2 ^ k)) os) s = .next (off (dmaSettle { s with mgmt := { s.mgmt with
            i2cEn := s.mgmt.i2cEn ||| b
            i2cStuck := s.mgmt.i2cStuck &&& ~~~b } })))

/-- The block's step, in place of a processor's fetch (the queue is the model's own form, log entry 7): it takes the
command at the front of the queue, and what the command does is done on the state with the queue's rest. With nothing
waiting one tick of TIMEBASE passes (R12), in which the token bucket gains RATE × 100 bits and holds at most 2,097,152
(R23); while the part is in reset nothing moves but TIMEBASE after a thermal trip, which leaves the always-on island
running (R363). Rests on the model's choices of log entries 1 and 7. -/
def Obligations.stepRuns : Prop :=
  (∀ (c : Instr) (s : State) (r : List Instr), s.pending = r → step { s with pending := c :: r } = exec c s) ∧
  (∀ s : State, s.pending = [] →
    (s.glob.phase ≠ .reset → step s = .next { s with
      timebase := s.timebase + 1
      path := { s.path with tokens := min 2097152 (s.path.tokens + 100 * capRate s) } }) ∧
    (s.glob.phase = .reset → step s = .next (if s.power.tripped then { s with timebase := s.timebase + 1 } else s)))

/-- What State.reset holds where the spec gives a reset value: the part is in reset with nothing commanded, TIMEBASE 0, the
registers of GLOBAL, HB, QM, INTAKE, EASEL, GLAZE, CTX, MATRIX, DMA, PORTS, HBM and POWER below at their reset values, every
vent held in reset at VBOOT, 0x0010_0000, every store empty or zero, and every port's default sub-port attributes; both
memories are in canonical form and no VL is above VLENB. (The values of registers for which the spec gives none are the
model's choice, log entry 5, and are not here.) Rests on the model's choices of log entry 6. -/
def Obligations.resetState : Prop :=
  let s := State.reset
  s.pending = [] ∧ s.glob.phase = .reset ∧ s.timebase = 0 ∧ s.mem = [] ∧ (∀ a, memGet s.mem a = 0) ∧
  (s.glob.errStat = 0 ∧ s.glob.swap = false ∧ s.glob.fail = 0 ∧ s.glob.attempts = 0 ∧ s.glob.applied = false) ∧
  (∀ v, (ventAt s v).stat = 7 ∧ (ventAt s v).astat = 0 ∧ (ventAt s v).deleg = 0 ∧ (ventAt s v).pred.getLsbD 0 = true ∧
    (ventAt s v).hold.max = 0x200 ∧ (ventAt s v).hold.budget = 0x200 ∧ (ventAt s v).hold.count = 0 ∧
    (ventAt s v).evt.boot = 0x00100000 ∧ (ventAt s v).pc = 0x00100000 ∧ (ventAt s v).evt.timecmp = BitVec.allOnes 64 ∧
    (ventAt s v).vec.vl = 0 ∧ (ventAt s v).evt.en = 0 ∧ (ventAt s v).held = true) ∧
  (s.power.throttle = 100 ∧ s.power.shutdown = 110 ∧ s.power.calgate = 0 ∧ s.power.vclk = 1500 ∧ s.power.err = 0) ∧
  (∀ n, (fget {} s.subs n).maxframe = 1518) ∧
  (s.store.softTime = 0x3B9ACA00 ∧ s.store.err = 0 ∧ s.store.ctxs = [] ∧ s.store.keys = [] ∧ s.store.windows = []) ∧
  (∀ n, (fget {} s.sets.set0.sub n).cipher = false ∧ (fget {} s.sets.set0.sub n).partner = 0xFF ∧
    (fget {} s.sets.set0.sub n).missHost = false ∧ (fget {} s.sets.set0.sub n).check = true) ∧
  (s.sets.epoch = false ∧ s.sets.pending = false ∧ s.sets.swaps = 0) ∧
  (s.qm.spillBase = 0x00100200 ∧ s.qm.spillSegs = 0x100000 ∧ s.qm.err = 0 ∧ ∀ q, (fget {} s.qm.queues q).valid = false) ∧
  (s.glaze.err = 0 ∧ s.easel.cfg = 0x00800000 ∧ s.easel.err = 0 ∧ s.easel.excl = 0 ∧ s.easel.migs = []) ∧
  (s.hb.linkup = false ∧ s.hb.numvf = 0 ∧ s.hb.err = 0 ∧ s.hb.cfg = 0 ∧ s.hb.stagebase = 0x01000000 ∧ s.hb.rings = [] ∧
    ∀ n, (fget {} s.hb.vecs n).mask = true) ∧
  (s.mx.err = 0 ∧ s.mx.locks = [] ∧ s.mx.dmaRetry = 3 ∧ ∀ n, (dmaAt s n).state = .idle) ∧
  (s.path.alarmP = 0 ∧ s.path.alarmC = 0 ∧ s.path.alarmAlert = false ∧ ∀ k, fget 0 s.path.drops k = 0) ∧
  (∀ p, portsRead s (0x1000 * p) = .word 0 ∧ portsRead s (0x1000 * p + 0x10) = .word 0 ∧ portsRead s (0x1000 * p + 0x18) = .word 0 ∧
    ∀ n < 8, p < 4 → portsRead s (0x1000 * p + 0x40 + 4 * n) = .word 0x0C00) ∧
  portsRead s 0x8000 = .word 0 ∧
  (s.hbm.err = 0 ∧ s.hbm.trained = 0 ∧ s.hbm.ceCount = 0) ∧ s.MemOk ∧ s.VlOk

/-- What every step keeps, whatever the command: both memories stay in their canonical form (the model's form of a memory,
log entry 6), VL of every vent stays at or below VLENB (R203), and the fuses keep their contents across every command,
resets included (R321, R333), but for SVN fuses, which are only ever burnt and never cleared (R334). Rests on the model's
choices of log entry 6. -/
def Obligations.everyStepKeeps : Prop :=
  ∀ s t : State, s.MemOk → s.VlOk → step s = .next t →
    t.MemOk ∧ t.VlOk ∧
    t.fuses = { s.fuses with svn := t.fuses.svn } ∧
    ∀ i < 64, s.fuses.svn.getLsbD i = true → t.fuses.svn.getLsbD i = true

/-- How every command ends. Every command other than an operation of a vent answers a next state, and so does every
operation whose header spells it (R175, R187); the queue is never a command's to change. An operation whose header names
another one is refused. R175, R185: an operation that its guard disables completes with no effect of its own, whatever it
is; an operation without LAST joins the bundle under assembly; an operation handed to a vent that is not running is lost.
R149, R174: fetching a bundle writes no memory; from the vent's own caldera memory it changes the vent's line buffer and
I-cache alone, and the MV's fetch changes nothing. R178, R200, R201: a bundle of two operations of one class, or of an
operation that must stand
alone with another, raises cause 2 at its second operation, whatever the guards, with nothing of it done. (That a bundle is
handed over operation by operation is the model's form, log entry 3.) Rests on the model's choices of log entries 3, 45
and 53. -/
def Obligations.commandOutcomes : Prop :=
  (∀ (i : Instr) (s : State), opKindOf i = none → ∃ t, exec i s = .next t ∧ t.pending = s.pending) ∧
  (∀ (i : Instr) (k : OpKind) (v : Nat) (e : OpEnc) (s : State), opKindOf i = some (k, v, e) →
    (opSpelt k e = true → ∃ t, exec i s = .next t ∧ t.pending = s.pending) ∧
    (opSpelt k e = false → ∃ name, exec i s = .refused (.noSuchEncoding name)) ∧
    (Lone s v k e → guardOn (s.fresh v e) e = false → issueWaits (s.found v e) (s.fresh v e) [] = false →
      exec i s = .next (s.after v e (wentOn (s.fresh v e) (opWords e)))) ∧
    (opSpelt k e = true → ventRuns s v = false → exec i s = .next s) ∧
    (opSpelt k e = true → ventRuns s v = true → e.last = false →
      (((ventAt s v).fl.bundle.map (fun x => opWords x.2.1)).sum + opWords e < 8) →
      exec i s = .next (setVent s v { ventAt s v with fl := { (ventAt s v).fl with
        bundle := (ventAt s v).fl.bundle ++ [(k, e, stopOf i)] } }))) ∧
  (∀ (s : State) (v n : Nat),
    let pc := (s.early v).pc.toNat
    (s.foundN v n).mem = s.mem ∧
    (v = mvNum → s.foundN v n = setVent s v (s.early v)) ∧
    (v ≠ mvNum → n ≤ 8 → 0x100000 ≤ pc → pc + 128 ≤ 0x500000 → ∃ ic lb : List ILine,
      s.foundN v n = setVent s v { s.early v with fl := { (s.early v).fl with
        icache := ic
        lbuf := lb } })) ∧
  ∀ (i : Instr) (k1 k2 : OpKind) (v : Nat) (e1 e2 : OpEnc) (s : State), opKindOf i = some (k2, v, e2) →
    Pair s v k1 e1 k2 e2 → e1.cls = e2.cls ∨ opAlone k1 = true ∨ opAlone k2 = true →
    let s1 := s.foundN v (opWords e1 + opWords e2)
    HandlerReady s1 v 2 →
    exec i s = .next (raisedIn s1 v e2.cls.toNat 1 2 (((s.early v).pc.toNat + 4 * opWords e1) % 2 ^ 32))

/-- R291, R297, R298: an event of a function. Its entry holds SRC, CODE, ARG and TICK; it is written, PHASE in bit 127,
where the
function's event ring has room, and the producer index advances; it is held, up to 256, while there is no ring or the
function is not live, and is lost and counted beyond that. MSI-X: what waits in a vector's PBA bit is sent once when its
Mask bit, its function's Function Mask or MSI-X Enable unmasks it; a vector whose time is over sends, or sets its PBA bit
while it is masked or its function is not live. Rests on the model's choices of log entries 3, 35 and 48. -/
def Obligations.eventsAndMessages : Prop :=
  (∀ (s : State) (f src code arg : Nat),
    let e := eventWord src code arg s.timebase
    let fn := funcAt s f
    let t := postEvent s f src code arg
    t = { s with
      hb := t.hb
      hostMem := t.hostMem } ∧
    (src < 16 → code < 16 → nbits e.toNat 3 0 = src ∧ nbits e.toNat 7 4 = code ∧
      nbits e.toNat 63 8 = arg / 256 % 2 ^ 56 ∧ nbits e.toNat 126 64 = s.timebase.toNat % 2 ^ 63) ∧
    (eventRing s f = none ∨ funcLive s f = false →
      t.hostMem = s.hostMem ∧ t.hb.rings = s.hb.rings ∧
      (fn.held.length < 256 → funcAt t f = { fn with
        held := fn.held ++ [{
          lost := fn.lost
          lostTick := fn.lostTick
          word := e }]
        lost := 0 } ∧ t.hb.err = s.hb.err) ∧
      (256 ≤ fn.held.length → funcAt t f = { fn with
        lost := fn.lost + 1
        lostTick := s.timebase } ∧ t.hb.err = s.hb.err ||| 16)) ∧
    (∀ (r : Nat) (x : Ring), eventRing s f = some r → ringAt s r = some x → funcLive s f = true → fn.held = [] → fn.lost = 0 →
      ringRoom x = true →
      t.hostMem = memPuts (addrBytes (x.rbase.toNat + 16 * x.prod) (leBytes 16 (nput e.toNat 127 127 (b2n x.phase)))) s.hostMem ∧
      ringAt t r = some { x with
        prod := (x.prod + 1) % 2 ^ x.log
        phase := if (x.prod + 1) % 2 ^ x.log = 0 then !x.phase else x.phase
        entries := x.entries + 1 } ∧
      funcAt t f = fn ∧ t.hb.err = s.hb.err) ∧
    (∀ (r : Nat) (x : Ring), eventRing s f = some r → ringAt s r = some x → funcLive s f = true → fn.held = [] → 0 < fn.lost →
      ringFill x + 2 < 2 ^ x.log → x.prod < 2 ^ x.log → x.cons < 2 ^ x.log →
      let wrote := fun (k : Nat) (phase : Bool) (w : BitVec 128) =>
        memPuts (addrBytes (x.rbase.toNat + 16 * k) (leBytes 16 (nput w.toNat 127 127 (b2n phase))))
      let k := (x.prod + 1) % 2 ^ x.log
      t.hostMem = wrote k (if k = 0 then !x.phase else x.phase) e (wrote x.prod x.phase (evLost fn.lost fn.lostTick) s.hostMem) ∧
      (funcAt t f).held = [] ∧ (funcAt t f).lost = 0)) ∧
  (∀ (s : State) (f v : Nat), s.glob.phase ≠ .reset → s.glob.cfgReady = true → f ≤ s.hb.numvf → v < (if f = 0 then 2048 else 64) →
    let x := vecAt s f v
    let fn := funcAt s f
    let vec := fun (y : MsixVec) => ({ s.hb with vecs := fset (2048 * f + v) y s.hb.vecs } : Hb)
    let sends := fun (y : MsixVec) => ({ y with
      sent := y.sent + 1
      n := 0
      pba := false } : MsixVec)
    exec (.msixUnmask f v .vectorMask) s = .next { s with
      hb := vec (if x.pba && !fn.msixMask && fn.msixEn && s.hb.linkup && fn.bme && !fn.d3hot then sends { x with mask := false }
        else { x with mask := false }) } ∧
    (∀ how ∈ [Unmask.functionMask, .enable], ∃ t, exec (.msixUnmask f v how) s = .next t ∧
      t = { s with hb := { s.hb with
        funcs := t.hb.funcs
        vecs := t.hb.vecs } } ∧
      (let gn := if how = .enable then { fn with msixEn := true } else { fn with msixMask := false }
       (∀ g, funcAt t g = if g = f then gn else funcAt s g) ∧
       vecAt t f v = if x.pba && !x.mask && !gn.msixMask && gn.msixEn && s.hb.linkup && gn.bme && !gn.d3hot then sends x else x) ∧
      ∀ g u, g ≠ f → u < 2048 → vecAt t g u = vecAt s g u) ∧
    (x.n ≠ 0 → x.time ≠ 0 → x.t0.toNat + 1000 * x.time.toNat ≤ s.timebase.toNat →
      exec (.msixTimeout f v) s = .next { s with
        hb := vec (if x.mask || fn.msixMask || !fn.msixEn || !s.hb.linkup || !fn.bme || fn.d3hot then { x with pba := true } else sends x) }))

/-- R280, R318 to R320, R346: the PCIe link and the functions. A function reset ends the function's rings, clears its Bus
Master Enable and MSI-X state, and masks every vector; a PF reset, a hot reset or PCIE_PERST_N resets every function,
ends the admin
queue, and returns NUMVF, STAGEBASE and the host windows to their reset values. Link, Bus Master Enable and
power state changes stop or resume what waits. Rests on the model's choices of log entry 35. -/
def Obligations.functionsAndResets : Prop :=
  ∀ s : State,
    let cleared := fun (t : State) (f : Nat) =>
      (∀ r x, ringAt t r = some x → x.func ≠ f) ∧
      funcAt t f = { funcAt t f with
        bme := false
        d3hot := false
        msixEn := false
        msixMask := false } ∧ ∀ v < 2048, vecAt t f v = {}
    let idle := s.store.kemSealed = none ∨ s.store.kemQueue = []
    let quiet := (∀ f, (funcAt s f).held = [] ∧ (funcAt s f).lost = 0) ∧ (∀ p ∈ s.hb.vecs, p.2.pba = false) ∧
      (∀ p ∈ s.hb.rings, p.2.skip = none) ∧ idle
    let open_ := s.glob.phase ≠ .reset ∧ s.glob.cfgReady = true
    (open_ → ∀ n ≤ 63, (n ≤ 7 ∨ s.hb.ari = true → exec (.vfEnable n) s = .next { s with hb := { s.hb with numvf := n } }) ∧
      (7 < n → s.hb.ari = false → exec (.vfEnable n) s = .next s)) ∧
    (¬open_ → (∀ n f v how on, exec (.vfEnable n) s = .next s ∧ exec (.vfFlr f) s = .next s ∧
      (∀ d3, exec (.busMasterEnable f on d3) s = .next s) ∧ exec (.msixUnmask f v how) s = .next s) ∧ exec (.pfFlr false) s = .next s) ∧
    (s.glob.phase = .reset → exec (.pfFlr true) s = .next s) ∧
    exec .pcieLinkDown s = .next { s with hb := { s.hb with linkup := false } } ∧
    (∀ (speed width : Nat) (flit ari : Bool), s.glob.phase ≠ .reset → s.jtag.taken = false → (flit = true ∨ speed ≠ 6) → 1 ≤ speed → speed ≤ 6 →
      width ∈ [1, 2, 4, 8, 16] →
      let up : State := { s with hb := { s.hb with
        linkup := true
        speed := BitVec.ofNat 3 speed
        width := BitVec.ofNat 5 width
        flit := flit
        ari := ari } }
      (s.balls.perstN = false → exec (.pcieLinkUp speed width flit ari) s = .next s) ∧
      (s.balls.perstN = true → ∃ t, exec (.pcieLinkUp speed width flit ari) s = .next t ∧ t.hb.linkup = true ∧ (quiet → t = up) ∧
        t = { s with
          hb := t.hb
          hostMem := t.hostMem
          store := t.store
          adm := t.adm
          freeCtr := t.freeCtr })) ∧
    (open_ → ∀ f, 1 ≤ f → f ≤ s.hb.numvf → ∃ t, exec (.vfFlr f) s = .next t ∧ cleared t f ∧
      (∀ r, (∀ p ∈ s.hb.rings, p.1 = r → p.2.func ≠ f) → ringAt t r = ringAt s r) ∧
      (∀ g, g ≠ f → (∀ v < 2048, vecAt t g v = vecAt s g v) ∧
        ((∀ p ∈ s.hb.rings, ∀ q ∈ s.hb.rings, p.2.func = g → q.2.func = f → p.1 ≠ q.1) → funcAt t g = funcAt s g)) ∧
      t = { s with
        freeCtr := t.freeCtr
        mem := t.mem
        subs := t.subs
        path := t.path
        qm := t.qm
        glaze := t.glaze
        hbm := t.hbm
        hb := t.hb }) ∧
    exec (.pciePerstN false) s = .next { s with balls := { s.balls with perstN := true } } ∧
    (s.glob.phase ≠ .reset → ∀ c ∈ [Instr.pfFlr false, .pfFlr true, .pciePerstN true], (c = .pfFlr false → open_) → ∃ t,
      exec c s = .next (dmaSettle t) ∧
      (∀ f < 64, cleared t f) ∧ t.hb.numvf = 0 ∧ t.hb.stagebase = 0x01000000 ∧ t.hb.hwin = [] ∧ t.hb.cfg.getLsbD 11 = false ∧
      t.mx = { s.mx with locks := [] } ∧ (∀ k ∈ t.adm.cmds, k.discard = true) ∧ t.adm.stopped = false ∧
      t.hb.linkup = (s.hb.linkup && c != .pciePerstN true) ∧
      t = { s with
        balls := { s.balls with perstN := s.balls.perstN && c != .pciePerstN true }
        freeCtr := t.freeCtr
        mem := t.mem
        subs := t.subs
        path := t.path
        qm := t.qm
        glaze := t.glaze
        hbm := t.hbm
        hb := t.hb
        mx := t.mx
        adm := t.adm }) ∧
    (open_ → ∀ f ≤ s.hb.numvf,
      (∀ on d3, on = false ∨ d3 = true → idle ∨ f ≠ 0 → exec (.busMasterEnable f on d3) s = .next { s with hb := { s.hb with
        funcs := fset f { funcAt s f with
          bme := on
          d3hot := d3 } s.hb.funcs } }) ∧
      ∃ t, exec (.busMasterEnable f true false) s = .next t ∧ funcLive t f = s.hb.linkup ∧
        t = { s with
          hb := t.hb
          hostMem := t.hostMem
          store := t.store
          adm := t.adm
          freeCtr := t.freeCtr } ∧
        (quiet →
          let fn : Func := { funcAt s f with
            bme := true
            d3hot := false }
          t.hb = { s.hb with funcs := fset f fn s.hb.funcs }))

/-- R264, R280, R283 to R285, R289: the host's requests and the part's. The part reads and writes its memory by requests of at
most 4,096 and 512 bytes; a read that fails is recorded. A doorbell of 8 aligned bytes moves the index that the host
owns, within
what the other side allows, and is otherwise recorded in HB_ERR; BAR4 reaches the matrix at STAGEBASE, with the
completion the response gives; an AtomicOp outside BAR4 is an Unsupported Request and changes nothing, and one in a
lockable region returns the old value and stores the new one under a lock; a lock past its time is ended and counted.
Rests on the model's choices of log entries 36 and 37. -/
def Obligations.hostRequests : Prop :=
  ∀ s : State,
    let err := fun (b : Nat) (t : State) => ({ t with hb := { t.hb with err := t.hb.err ||| (1 <<< b) } } : State)
    let cpl := fun (c : Cpl) (t : State) => ({ t with hb := { t.hb with
      cpl := c
      aer := if c = .abort then t.hb.aer ||| 0x8000 else if c = .unsupported then t.hb.aer ||| 0x100000 else t.hb.aer } } : State)
    let answer := fun (r : RespCode) (data : List Byte) (t : State) =>
      if r = .okay then cpl (.ok data) t else if r = .ue then cpl .poisoned t else cpl .abort (err 3 t)
    (∀ (a : DWord) (window : Bool), exec (.hostReadTimeout a window) s = .next { s with hb := { s.hb with
      err := s.hb.err ||| 4
      aer := s.hb.aer ||| 0x4000
      errAddr := a
      failing := if window then some a.toNat else s.hb.failing } }) ∧
    (∀ (f a n : Nat) (ns wr : Bool), ∃ ps : List HostReq,
      let lim := if wr then 512 else 4096
      hostAsk s f ns wr a n = { s with hb := { s.hb with req := (ps.reverse ++ s.hb.req).take 8 } } ∧
      ps.flatMap (fun p => (List.range p.len).map (fun i => p.addr + i)) = (List.range n).map (fun i => a + i) ∧
      ∀ p ∈ ps, p.func = f ∧ p.nosnoop = ns ∧ p.write = wr ∧ 0 < p.len ∧ p.addr % lim + p.len ≤ lim) ∧
    (∀ (a : Nat), ∃ aer, hostReadBad s a = { s with hb := { s.hb with
      err := s.hb.err ||| 4
      errAddr := BitVec.ofNat 64 a
      aer := aer } } ∧ (aer = s.hb.aer ∨ aer = s.hb.aer ||| 0x1000)) ∧
    (∀ (f off : Nat) (bytes : List Byte), masterReady s (.host f) = true → off < 0x10000 →
      let r := off / 8
      let n := leNat bytes
      (bytes.length ≠ 8 ∨ off % 8 ≠ 0 → exec (.doorbell f off bytes) s = .next (err 1 s)) ∧
      (bytes.length = 8 → off % 8 = 0 →
        (ringAt s r = none → exec (.doorbell f off bytes) s = .next (err 0 s)) ∧
        ∀ x, ringAt s r = some x →
          let size := 2 ^ x.log
          let fill := (x.prod + size - x.cons) % size
          let d := (n + size - x.cons) % size
          let host := x.kind = .admsq ∨ x.kind = .fromhost
          let good := off < 0x8000 ∧ x.func = f ∧ n < size ∧ (host → fill ≤ d) ∧ (¬host → d ≤ fill)
          (¬good → exec (.doorbell f off bytes) s = .next (err 0 s)) ∧
          (good → host → exec (.doorbell f off bytes) s = .next { s with hb := { s.hb with
            rings := fset r { x with prod := n } s.hb.rings } }) ∧
          (good → ¬host →
            let t : State := { s with hb := { s.hb with rings := fset r { x with cons := n } s.hb.rings } }
            exec (.doorbell f off bytes) s = .next (if x.kind = .event then flushEvents t f else t)))) ∧
    (∀ off : Nat, masterReady s (.host 0) = true →
      let a := s.hb.stagebase.toNat + off
      (∀ n, off + n ≤ 0x1000000 →
        let r := matRead (.host 0) a n s
        exec (.bar4Access off (.read n)) s = .next (answer r.1 r.2.1 r.2.2)) ∧
      (∀ bs : List Byte, off + bs.length ≤ 0x1000000 →
        let r := matWrite (.host 0) (addrBytes a bs) s
        exec (.bar4Access off (.write bs)) s = .next (if r.1 = .okay then r.2 else err 3 r.2))) ∧
    (∀ (bar off size : Nat) (op : AtomOp), masterReady s (.host 0) = true →
      let a := s.hb.stagebase.toNat + off
      let loc := matLoc (.host 0) a s
      (bar ≠ 4 ∨ size ≠ 4 ∧ size ≠ 8 ∨ off % size ≠ 0 → ∀ ph, exec (.atomicop bar off size op ph) s = .next (cpl .unsupported s)) ∧
      (bar = 4 → size = 4 ∨ size = 8 → off % size = 0 → off + size ≤ 0x1000000 → s.mx.locks = [] →
        (atomRegion loc = false → exec (.atomicop bar off size op .whole) s = .next (cpl .abort (err 3 s))) ∧
        (∀ ph ≠ AtomPhase.holderWrite, atomRegion loc = true → let r := matRead (.host 0) a size s
          r.1 ≠ .okay → exec (.atomicop bar off size op ph) s = .next (answer r.1 r.2.1 r.2.2)) ∧
        (∀ (old : List Byte) (t : State), atomRegion loc = true → matRead (.host 0) a size s = (.okay, old, t) →
          let x := leNat old
          let new : Option Nat := match op with
            | .fetchAdd y => some ((x + y.toNat) % 2 ^ (8 * size))
            | .swap y => some (y.toNat % 2 ^ (8 * size))
            | .cas c y => if x = c.toNat % 2 ^ (8 * size) then some (y.toNat % 2 ^ (8 * size)) else none
          (new = none → ∀ ph ≠ AtomPhase.holderWrite, exec (.atomicop bar off size op ph) s = .next (cpl (.ok old) t)) ∧
          ∀ y, new = some y →
            let l : Lock := { target := targetPort s loc, addr := a, bytes := leBytes size y, old := old, start := s.timebase }
            exec (.atomicop bar off size op .lockedRead) s = .next { t with mx := { t.mx with locks := [l] } } ∧
            ∃ u, exec (.atomicop bar off size op .whole) s = .next u ∧ u.mx.locks = [] ∧
              ((matWrite (.host 0) (addrBytes a (leBytes size y)) { t with mx := { t.mx with locks := [] } }).1 = .okay →
                u.hb.cpl = .ok old)))) ∧
    (∀ (p : Nat) (l : Lock), s.mx.locks = [l] → l.target = p → l.ended = false → l.start.toNat + 213 ≤ s.timebase.toNat →
      let t : State := { s with mx := { s.mx with locks := [{ l with ended := true }] } }
      (p < 24 → (calAt s (p / 2)).power ≠ .on → exec (.lockTimeout p) s = .next (dmaSettle t)) ∧
      (24 ≤ p ∨ (calAt s (p / 2)).power = .on → exec (.lockTimeout p) s = .next (dmaSettle { t with mx := { t.mx with
        lockTo := t.mx.lockTo + 1
        err := t.mx.err ||| 1
        errInfo := BitVec.ofNat 12 (44 + 64 * p) } }))) ∧
    (∀ (off size : Nat) (op : AtomOp) (l : Lock), masterReady s (.host 0) = true → size = 4 ∨ size = 8 → off % size = 0 →
      off + size ≤ 0x1000000 → s.mx.locks = [l] → l.addr = s.hb.stagebase.toNat + off → l.bytes.length = size →
      let free : State := { s with mx := { s.mx with locks := [] } }
      (l.ended = true → exec (.atomicop 4 off size op .holderWrite) s = .next (cpl .abort (err 3 free))) ∧
      (l.ended = false → l.start.toNat + 213 ≤ s.timebase.toNat → ∃ u, exec (.lockTimeout l.target) s = .next u ∧
        exec (.atomicop 4 off size op .holderWrite) s = .next (cpl .abort (err 3 { u with mx := { u.mx with
          locks := u.mx.locks.filter (fun k => k != { l with ended := true }) } }))) ∧
      (l.ended = false → s.timebase.toNat < l.start.toNat + 213 →
        let r := matWrite (.host 0) (addrBytes l.addr l.bytes) free
        exec (.atomicop 4 off size op .holderWrite) s = .next (answer r.1 l.old r.2)))

/-- R23, R30, R33, R34, R40, R45, R85, R90, R125: a frame that a sub-port receives. The first step of R30 that drops it counts
it under that step's code and no other; a frame that passes takes its cells and the next ticket of its bucket, is
recorded with what the classifier found, opens its ticket in the rack, and waits for the vent its steering entry names,
or is held by a migration or a switch of its source. Rests on the model's choices of log entries 17, 18 and 20. -/
def Obligations.frameIntake : Prop :=
  ∀ (s : State) (src : Nat) (frame : List Byte) (ok : Bool) (cells : List Nat), subUp s src = true →
    let len := frame.length
    let most := (subAt s src).maxframe
    let n := max 1 ((len + 255) / 256)
    let cost := 8 * (len + 24)
    let count := fun (c : Nat) (t : State) =>
      let drops := fset (64 * src + c) (fget 0 t.path.drops (64 * src + c) + 1) t.path.drops
      ({ t with path := { t.path with drops := drops } } : State)
    let gives := fun (t : State) => exec (.frameReceive src frame ok cells) s = .next t
    let full := 524288 < portFill s (src / 8) + most
    (full → gives (count 4 s)) ∧
    (¬full → ok = false → gives (count 1 s)) ∧
    (¬full → ok = true → len + 4 < 64 → gives (count 2 s)) ∧
    (¬full → ok = true → 64 ≤ len + 4 → most < len + 4 → gives (count 3 s)) ∧
    (¬full → ok = true → 64 ≤ len + 4 → len + 4 ≤ most → s.path.tokens < cost → gives (count 6 s)) ∧
    (¬full → ok = true → 64 ≤ len + 4 → len + 4 ≤ most → cost ≤ s.path.tokens →
      let paid : State := { s with path := { s.path with tokens := s.path.tokens - cost } }
      (pbFree s < n + 4096 → gives (count 5 paid)) ∧
      (n + 4096 ≤ pbFree s → cellsOk s cells n = true →
        let u := writeCells paid cells frame
        let x := parseFrame frame
        let f := frameRecord u src 0 len cells (fit frame 128) x
        let a := fget {} (setAt s f.epoch).sub src
        let drop : Option Nat :=
          if f.hit = false ∧ f.action = 0 then some 12
          else if ¬(a.partner < 32 ∧ (fget {} (setAt s f.epoch).sub a.partner).partner = src) ∧ f.action ≠ 4 ∧ src < 32 then some 8
          else if f.action ≠ 1 ∧ f.role = true ∧ f.kind ≤ 2 ∧ src < 32 then some 10
          else if f.action ≠ 1 ∧ f.role = false ∧ a.check = true ∧ 3 ≤ f.kind ∧ f.kind ≤ 7 ∧ src < 32 then some 9
          else if f.frag = true ∧ f.action ≠ 4 then some 11 else none
        let id := s.path.nextFid
        let ticket := fget 0 s.path.lastTicket f.bucket + 1
        let e := steerAt s (bankOf s src) f.bucket
        (x.kind = 11 → gives (count 7 u)) ∧
        (x.kind ≠ 11 → ∀ c, drop = some c → ∃ t, gives t ∧
          t = { count c u with
            path := { (count c u).path with
              alarmP := t.path.alarmP
              alarmC := t.path.alarmC }
            hb := t.hb
            hostMem := t.hostMem } ∧
          t.path.alarmP = (if c = 9 then s.path.alarmP ||| ((1 : Word) <<< src) else s.path.alarmP) ∧
          t.path.alarmC = (if c = 10 then s.path.alarmC ||| ((1 : Word) <<< src) else s.path.alarmC)) ∧
        (x.kind ≠ 11 → drop = none → ∃ t, gives t ∧
          t = { s with
            mem := t.mem
            hbm := { s.hbm with badWords := t.hbm.badWords }
            path := { s.path with
              tokens := s.path.tokens - cost
              lastTicket := fset f.bucket ticket s.path.lastTicket
              opens := s.path.opens ++ [{ bucket := f.bucket, ticket := ticket, tick := s.timebase }]
              nextFid := id + 1
              frames := t.path.frames
              deal := t.path.deal
              dealtTo := t.path.dealtTo }
            vents := t.vents
            easel := { s.easel with migs := t.easel.migs } } ∧
          frameAt t id = { f with
            ticket := ticket
            stage := (frameAt t id).stage } ∧ f.cells = cells ∧ f.len = len ∧ f.src = src ∧ f.tick = s.timebase ∧ f.bucket < 4096 ∧
          (∀ k, k ≠ id → frameAt t k = frameAt s k) ∧ frameBytes t (frameAt t id) = frame ∧
          (s.easel.switching.any (fun p => p.1 == src) = true → (frameAt t id).stage = .heldSrc ∧ t.vents = s.vents) ∧
          (s.easel.switching.any (fun p => p.1 == src) = false →
            (e.mig = true → (frameAt t id).stage = .heldMig (bankOf s src) f.bucket ∧ t.vents = s.vents ∧
              ∀ m ∈ s.easel.migs, m.bank = bankOf s src → m.bucket = f.bucket →
                { m with held := m.held ++ [Item.frame id] } ∈ t.easel.migs) ∧
            (e.mig = false → ∃ v, e.vent ≤ v ∧ v < e.vent + 2 ^ e.spread ∧ (frameAt t id).stage = .waiting v ∧
              (f.action ≠ 3 ∨ f.win < 64 → v = e.vent) ∧
              t.vents = (let inp := { (ventAt s v).inp with items := (ventAt s v).inp.items ++ [.frame id] }
                fset v { ventAt s v with inp := inp } s.vents))))))

/-- R31, R154, R155, R288, R295, R296, R316: frames to and from the host and the vents. A FROMHOST descriptor that R295
refuses, or
that cannot be read, halts its ring; a read one enters Intake as source 32, and its place is passed and written back. A
delivered frame fills its ring's buffer and entry and leaves its queue. An item's entry, kind byte and producer count are
written to the input ring's next place. Rests on the model's choices of log entries 3 and 19. -/
def Obligations.framesToVentsAndHost : Prop :=
  ∀ s : State,
    (∀ (r : Nat) (x : Ring) (desc : List Byte) (cells : List Nat), ringAt s r = some x → desc.length = 32 → s.glob.phase = .primed →
      2 ≤ r → x.kind = .fromhost → x.halted = false → x.prod ≠ x.cons → funcLive s x.func = true →
      s.easel.switching.any (fun p => p.1 == 32 + x.func) = false →
      let d := leNat desc
      let n0 := nbits d 77 64
      let n1 := nbits d 93 80
      let bad := nbits d 79 78 ≠ 0 ∨ nbits d 127 94 ≠ 0 ∨ nbits d 255 192 ≠ 0 ∨ n0 = 0 ∨ n0 + n1 < 60 ∨ 9796 < n0 + n1
      let halts := fun (status : Nat) (t : State) =>
        let y : Ring := { x with
          halted := true
          late := false
          hstat := BitVec.ofNat 8 status
          halts := x.halts + 1 }
        postEvent { t with hb := { t.hb with rings := fset r y t.hb.rings } } x.func 4 1 (r * 256 + status * 2 ^ 20)
      let first := (x.rbase.toNat + 32 * x.cons, 32)
      let bufs := (nbits d 63 0, n0) :: (if n1 = 0 then [] else [(nbits d 191 128, n1)])
      let asked := fun (reads : List (Nat × Nat)) => reads.foldl (fun t p => hostAsk t x.func x.nosnoop false p.1 p.2) s
      let read := asked (first :: bufs)
      (bad → ∀ frame, exec (.fromhostDescriptor r desc frame cells) s = .next (halts 1 (asked [first]))) ∧
      (¬bad → ∃ a : Nat, (a = nbits d 63 0 ∨ n1 ≠ 0 ∧ a = nbits d 191 128) ∧
        let bad : State := { read with
          freeCtr := s.freeCtr + 1
          hb := { read.hb with
            err := s.hb.err ||| 4
            errAddr := BitVec.ofNat 64 a
            aer := if Config.poisonedTlp a s.timebase.toNat then s.hb.aer ||| (1 <<< 12) else s.hb.aer } }
        exec (.fromhostDescriptor r desc none cells) s = .next (halts 6 bad)) ∧
      (¬bad → ∀ (bs : List Byte) (t : State), bs.length = n0 + n1 → intakeFrame read 32 x.func bs cells = some t → ringAt t r = some x →
        let k := (x.cons + 1) % 2 ^ x.log
        ∃ u, exec (.fromhostDescriptor r desc (some bs) cells) s = .next u ∧
          u = { t with
            hb := u.hb
            hostMem := memPuts (addrBytes (x.rbase.toNat + 32 * 2 ^ x.log) (leBytes 4 k)) t.hostMem } ∧
          ringAt u r = some { x with
            cons := k
            entries := x.entries + 1
            bytes := x.bytes + BitVec.ofNat 64 bs.length })) ∧
    (∀ (r n : Nat) (rest : List Nat) (x : Ring), ringAt s r = some x → (queueAt s r).ondie = n :: rest → x.kind = .tohost →
      (queueAt s r).dkind = 2 → ringRoom x = true → funcLive s x.func = true → badCell s (frameAt s n) = none →
      let f := frameAt s n
      let size := 2 ^ x.blog
      let entry := nput (f.tick.toNat + f.len * 2 ^ 64 + b2n (decide (size < f.len)) * 2 ^ 78 + f.src * 2 ^ 80 + f.kind * 2 ^ 86 +
        b2n f.epoch * 2 ^ 90 + b2n f.hit * 2 ^ 91 + f.ctx * 2 ^ 92 + f.rdata % 2 ^ 16 * 2 ^ 108) 127 127 (b2n x.phase)
      ∃ t, exec (.tohostDelivery r) s = .next t ∧
        (entry < 2 ^ 128 → t.hostMem = memPuts (addrBytes (x.rbase.toNat + 16 * x.prod) (leBytes 16 entry))
          (memPuts (addrBytes (x.bbase.toNat + x.prod * size) ((frameBytes s f).take size)) s.hostMem)) ∧
        ringAt t r = some { x with
          prod := (x.prod + 1) % 2 ^ x.log
          phase := if (x.prod + 1) % 2 ^ x.log = 0 then !x.phase else x.phase
          entries := x.entries + 1
          bytes := x.bytes + BitVec.ofNat 64 f.len } ∧
        t.path = { s.path with frames := fdel n s.path.frames } ∧
        (queueAt t r).ondie = rest.filter (· != n) ∧
        t = { s with
          hostMem := t.hostMem
          hb := t.hb
          path := t.path
          qm := t.qm }) ∧
    (∀ (v : Nat) (it : Item) (rest : List Item), (ventAt s v).inp.items = it :: rest → ventFitted s v = true →
      let x := (ventAt s v).inp
      let depth := nbits x.cfg.toNat 22 12
      let base := palBase v + nbits x.cfg.toNat 11 0 * 64
      let i := x.count % depth
      x.cfg.getLsbD 24 = true → (x.prod - x.cons).toNat < depth → (calAt s (v / 8)).power = .on →
      (matLocked .intake (palBase v) s = true → exec (.inputEntryDelivery v) s = .next s) ∧
      ∀ (entry : List Byte) (kind : Byte), itemEntry s it = some (entry, kind) → entry.length = 160 →
        matLocked .intake (palBase v) s = false →
        (∀ p g n, it = .slot p g n → badCell s { frameAt s n with cells := (frameAt s n).cells.take 1 } = none) →
        ∃ t, exec (.inputEntryDelivery v) s = .next t ∧
          memBytes t.mem (base + 160 * i) 160 = entry ∧ memGet t.mem (base + 160 * depth + 16 + i) = kind ∧
          memBytes t.mem (base + 160 * depth) 4 = leBytes 4 (x.prod + 1).toNat ∧
          (∀ a, a < base + 160 * i ∨ base + 160 * i + 160 ≤ a → a ≠ base + 160 * depth + 16 + i →
            a < base + 160 * depth ∨ base + 160 * depth + 4 ≤ a → memGet t.mem a = memGet s.mem a) ∧
          t.vents = (let inp : VentIn := { x with
              prod := x.prod + 1
              count := x.count + 1
              items := rest }
            fset v { ventAt s v with inp := inp } s.vents) ∧
          t = { s with
            mem := t.mem
            hbm := { s.hbm with badWords := t.hbm.badWords }
            vents := t.vents
            path := t.path
            easel := t.easel } ∧
          (∀ n, it = .frame n → (frameAt t n).stage = .atVent v ∧ kind = 1 ∧ t.easel = s.easel ∧
            let f := frameAt s n
            entry = leBytes 32 (frameDesc f) ++ fit (frameBytes s f) 128 ∧
            (pbhOf f < 2 ^ 20 → f.src < 64 → f.len < 2 ^ 14 → f.bucket < 2 ^ 12 → f.kind < 16 → f.l3off < 256 → f.l4off < 256 →
              f.secoff < 256 → f.nvlan < 256 → f.rule < 2 ^ 17 → f.action < 2 ^ 13 → f.ctx < 2 ^ 16 → f.rdata < 2 ^ 16 →
              let d := frameDesc f
              nbits d 63 0 = f.tick.toNat ∧ nbits d 83 64 = pbhOf f ∧ nbits d 84 84 = b2n f.epoch ∧ nbits d 85 85 = b2n f.role ∧
              nbits d 91 86 = f.src ∧ nbits d 109 96 = f.len ∧ nbits d 121 110 = f.bucket ∧ nbits d 125 122 = f.kind ∧
              nbits d 159 128 = f.ticket.toNat ∧ nbits d 167 160 = f.l3off ∧ nbits d 210 210 = b2n f.hit ∧
              nbits d 223 211 = f.action ∧ nbits d 239 224 = f.ctx ∧ nbits d 255 240 = f.rdata)))

/-- R18 to R20, R40, R43, R45, R64, R96, R98, R99, R106: QM's entrance. A vent's drop counts under its code, or under the code
that the frame's action calls for in its pair; a frame whose tick has reached the expiry of its receive slot makes that
slot SPENT; a frame of a ticket that is retired, or 100 µs old, is dropped in DROP_ORDER and one behind an earlier open
ticket waits;
the guard (which refuses a queue that is not its pair's, and a relayed frame not decrypted and encrypted again, too: log
entry 20), an invalid queue and a full queue drop it under their
codes; otherwise it joins the on-die part of its queue, SPILLED beyond the threshold, or the HBM part of a SPILLED one. A
ticket open for 100 µs is retired with its waiting frame. Rests on the model's choices of log entries 3 and 20. -/
def Obligations.queueEntrance : Prop :=
  ∀ (s : State) (pbh n : Nat) (cells : List Nat), frameOf s pbh = some n →
    let f := frameAt s n
    let retired := fun (b : Nat) (k : Word) (t : State) =>
      let opens := t.path.opens.filter (fun o => !(o.bucket == b && o.ticket == k))
      ({ t with path := { t.path with opens := opens } } : State)
    let dropped := fun (c : Nat) (t : State) =>
      let key := 64 * f.src + c
      let path : Path := { (retired f.bucket f.ticket t).path with
        drops := fset key (fget 0 t.path.drops key + 1) t.path.drops
        pieces := t.path.pieces.filter (fun o => o.frame != n)
        frames := fdel n t.path.frames }
      ({ retired f.bucket f.ticket t with path := path } : State)
    let inTime := fun (o : OpenTicket) => s.timebase.toNat < o.tick.toNat + 100000
    let first := s.path.opens.find? (fun o => o.bucket == f.bucket && decide (inTime o))
    let isOpen := ∃ o ∈ s.path.opens, o.bucket = f.bucket ∧ o.ticket = f.ticket ∧ inTime o
    let code := fun (c : Nat) =>
      if nbits f.desc.toNat 86 84 = 4 then 23
      else if f.action = 4 ∧ c = 14 then 13
      else if c ∈ [13, 14, 16, 17, 18, 22, 23] then c else 13
    let enters := fun (q : Nat) (t u : State) =>
      let x := queueAt s q
      let strays := x.dkind = 0 ∧ f.src < 32 ∧ pairOf (setAt s f.epoch) f.src ≠ some x.subport
      let lacks := if (fget {} (setAt s f.epoch).sub x.subport).cipher = f.role then
          f.role = true ∧ f.action = 3 ∧ (f.decDone = false ∨ f.encDone = false)
        else (if f.role then f.decDone else f.encDone) = false
      let crosses := x.valid = true ∧ x.dkind ≠ 1 ∧ (f.stagedJob = true ∨ strays ∨ x.dkind = 0 ∧ f.action ≠ 1 ∧ lacks)
      let held := framesLen s (queueFrames x)
      (crosses → f.stagedJob = false → u = dropped 26 t) ∧
      (¬crosses → x.valid = false → u = dropped 32 t) ∧
      (¬crosses → x.valid = true → x.limit * 4096 < held + f.len → u = dropped (if x.dkind = 2 then 15 else 27) t) ∧
      (¬crosses → x.valid = true → held + f.len ≤ x.limit * 4096 → (queueFrames x).length < 1048575 → x.dkind ≠ 1 →
        x.spilled = false → s.qm.cache.length < 262144 → fget 0 s.qm.caps x.tenant = 0 →
        (frameAt u n).stage = .queued q ∧ (queueAt u q).ondie = x.ondie ++ [n] ∧ (queueAt u q).hbm = x.hbm ∧
        (queueAt u q).spilled = decide (x.spillth * 4096 < framesLen u (x.ondie ++ [n])) ∧ q ∈ u.qm.cache ∧
        u.path.opens = (retired f.bucket f.ticket s).path.opens ∧ u.path.drops = s.path.drops ∧
        u = { s with
          path := u.path
          qm := u.qm
          subs := u.subs }) ∧
      (¬crosses → x.valid = true → held + f.len ≤ x.limit * 4096 → (queueFrames x).length < 1048575 → x.dkind ≠ 1 →
        x.spilled = true → s.qm.cache.length < 262144 → badCell s f = none → s.hbm.zeroing = false → s.hbm.latent = [] →
        s.hbm.poison = [] → ∀ l k ms, x.segs = l ++ [(k, ms)] → x.tailUsed + f.len ≤ 65536 →
        let a := s.qm.spillBase * 2 ^ 16 + k * 65536 + x.tailUsed
        hbmBase ≤ a → a + f.len ≤ hbmBase + hbmSize s →
        (frameAt u n).stage = .spilled q ∧ (frameAt u n).spillAt = a ∧ (frameAt u n).cells = [] ∧
        (queueAt u q).hbm = x.hbm ++ [n] ∧ (queueAt u q).ondie = x.ondie ∧ (queueAt u q).tailUsed = x.tailUsed + f.len ∧
        u.path.drops = s.path.drops ∧ ∀ y, memGet u.mem y =
          if a ≤ y ∧ y < a + (frameBytes s f).length then (frameBytes s f).getD (y - a) 0 else memGet s.mem y)
    let named := fun (q : Nat) => ({ s with path := { s.path with frames := fset n { f with queue := q } s.path.frames } } : State)
    let released := fun (c : Instr) (q : Nat) (t : State) =>
      (¬isOpen → exec c s = .next (dropped 30 t)) ∧
      (isOpen → (∀ o, first = some o → o.ticket ≠ f.ticket) → exec c s = .next t) ∧
      ((∃ o, first = some o ∧ o.ticket = f.ticket) → ∃ u, exec c s = .next u ∧ enters q t u)
    let refused := ventRefuses s f
    let b := blkOf (ctxAt s f.ctx) f.epoch
    let esp := decide (pbProto b = 2)
    let badTag : Bool := decide (f.action = 3) && (if esp then decide (f.sec.espLen < 8 + 8 + 16 + 2)
      else f.sec.tci.testBit 4 || !(f.sec.tci.testBit 3 && f.sec.tci.testBit 2) || decide (beNat f.sec.sci ≠ pbRxsci b))
    let bars := if refused = none ∧ badTag = true then some 17 else refused
    (f.src < 32 → f.action ≠ 0 → f.action ≠ 4 → ∀ j, pairOf (setAt s f.epoch) f.src = some j →
      let mode := if f.role then 3 else if (fget {} (setAt s f.epoch).sub j).cipher then 2 else 1
      f.action ≠ 1 → f.action ≠ mode → refused = some 14) ∧
    (f.action = 0 → refused = some 13) ∧ (f.action = 4 → refused = none) ∧ (f.action = 1 → refused = none) ∧
    (f.action = 3 → refused = none → (esp = true ↔ 4 ≤ f.kind ∧ f.kind ≤ 7) ∧ (esp = false → f.kind = 3)) ∧
    (∀ v, f.stage = .atVent v →
      (∀ c, exec (.qmEntrance pbh (.drop c) cells) s =
        .next (dropped (refused.getD (if badTag = true ∧ code c ∈ [18, 22, 23] then 17 else code c)) s)) ∧
      (∀ q c, bars = some c → exec (.qmEntrance pbh (.bypass q) cells) s = .next (dropped c s)) ∧
      (∀ q, bars = none → f.action ≠ 4 → released (.qmEntrance pbh (.bypass q) cells) q (named q)) ∧
      (f.action = 4 → (∀ q, exec (.qmEntrance pbh (.bypass q) cells) s = .next s) ∧
        released (.qmEntrance pbh .host cells) (f.rdata % 4096) (named (f.rdata % 4096))) ∧
      (f.action ≠ 4 → exec (.qmEntrance pbh .host cells) s = .next s) ∧
      (∀ k, f.action = 3 → 2 ≤ k → k < 6 → let m := slotAt s f.ctx k
        let i := Instr.qmEntrance pbh (.expired k) cells
        (m.expiry = 0 ∨ f.tick < m.expiry → exec i s = .next s) ∧
        (m.expiry ≠ 0 → m.expiry ≤ f.tick → (∀ c, refused = some c → exec i s = .next (dropped c s)) ∧
          (refused = none → s.store.txQueue = [] → exec i s = .next (dropped 16 (if m.state = .live then
            keyEvent (updSlot s f.ctx k (fun m => { m with state := .spent })) 4 f.ctx k else s)))))) ∧
    (∀ p g c, f.stage = .slotPlain p g → f.gfid = none → exec (.qmEntrance pbh (.drop c) cells) s = .next (
      let key := 64 * f.src + code c
      let y := chanAt s p g
      { s with
        path := { s.path with
          drops := fset key (fget 0 s.path.drops key + 1) s.path.drops
          pieces := s.path.pieces.filter (fun o => o.frame != n)
          frames := fdel n s.path.frames }
        glaze := { s.glaze with chans := fset (1024 * p + g) { y with slots := y.slots.filter (· != n) } s.glaze.chans } })) ∧
    (f.stage = .inRack → (∀ c, bars = some c → exec (.qmEntrance pbh .job cells) s = .next (dropped c s)) ∧
      (bars = none → f.carrier = none →
        (f.action ≠ 4 → released (.qmEntrance pbh .job cells) f.queue s) ∧
        (f.action = 4 → released (.qmEntrance pbh .job cells) (f.rdata % 4096) (named (f.rdata % 4096))))) ∧
    (∀ (o : OpenTicket), o ∈ s.path.opens → o.tick.toNat + 100000 ≤ s.timebase.toNat → o.bucket = f.bucket → o.ticket = f.ticket →
      (s.path.frames.find? (fun p => p.2.bucket == o.bucket && p.2.ticket == o.ticket && (p.2.stage == .inRack || p.2.stage == .piece)) =
        some (n, f) → slotChan f = none → exec (.rackTimeout o.bucket o.ticket) s = .next (dropped 30 s)) ∧
      (s.path.frames.any (fun p => p.2.bucket == o.bucket && p.2.ticket == o.ticket && (p.2.stage == .inRack || p.2.stage == .piece)) = false →
        exec (.rackTimeout o.bucket o.ticket) s = .next (retired o.bucket o.ticket s)))

/-- R91, R92, R98, R99, R103, R104, R266: spill, selection and transmission. The head of the HBM part returns with the
bytes that its
segment holds while the on-die part is short, or is dropped where they are poisoned; a node starts the head of one of its
queues and no other frame; the end of a frame frees its cells;
and a sub-port that is down drops a head in DROP_PORT_DOWN. Rests on the model's choices of log entries 3, 21, 22, 49 and
51. -/
def Obligations.spillAndTransmit : Prop :=
  ∀ s : State,
    (∀ (q n : Nat) (rest cells : List Nat), (queueAt s q).hbm = n :: rest →
      framesLen s (queueAt s q).ondie < (queueAt s q).spillth * 2048 → cellsOk s cells (cellsFor (frameAt s n).len) = true →
      let f := frameAt s n
      let read := hbmReadBytes s (f.spillAt - hbmBase) f.len
      hbmBase ≤ f.spillAt →
      (read.1 = .okay → ∃ t, exec (.spillReturn q cells) s = .next t ∧
        (queueAt t q).ondie = (queueAt s q).ondie ++ [n] ∧ (queueAt t q).hbm = rest ∧ (queueAt t q).spilled = !rest.isEmpty ∧
        frameAt t n = { f with
          cells := cells
          stage := .queued q } ∧ (∀ k, k ≠ n → frameAt t k = frameAt s k) ∧ frameBytes t (frameAt t n) = read.2.1 ∧
        t = { read.2.2 with
          mem := t.mem
          hbm := { read.2.2.hbm with badWords := t.hbm.badWords }
          path := { s.path with frames := t.path.frames }
          qm := t.qm
          subs := t.subs
          glaze := t.glaze }) ∧
      (read.1 ≠ .okay → carriedOf s n = none → ∃ t, exec (.spillReturn q cells) s = .next t ∧
        (let key := 64 * f.src + 27
         t.path.drops = fset key (fget 0 s.path.drops key + 1) s.path.drops) ∧
        t.path.frames = fdel n s.path.frames ∧ n ∉ queueFrames (queueAt t q))) ∧
    (∀ (src n : Nat) (u : State), subUp s src = true → (subAt s src).txing = none →
      pickNode s (.sub src) (fun _ => true) = some (n, u) → badCell u (frameAt u n) = none →
      (fitsBefore s src (frameAt s n).len = false → exec (.subportPick src) s = .next s) ∧
      (fitsBefore s src (frameAt s n).len = true → exec (.subportPick src) s = .next { u with
        path := { u.path with frames := fset n { frameAt u n with stage := .txing src } u.path.frames }
        subs := fset src { subAt u src with
          txing := some n
          txBytes := frameBytes u (frameAt u n)
          txBad := (frameAt u n).bad } u.subs }) ∧
      (∃ c q, c < 8 ∧ q ∈ fget [] (subAt s src).active c ∧ (queueAt s q).ondie.head? = some n ∧
        ∀ b < c, ∀ k ∈ fget [] (subAt s src).active b, (queueAt s k).ondie ≠ [] →
          queueProf s (queueAt s k) / 8 < 256 ∨ 9800 < framesLen s (queueAt s k).ondie)) ∧
    (∀ (src n : Nat), (subAt s src).txing = some n → exec (.frameTransmitEnd src) s = .next { s with
      path := { s.path with frames := fdel n s.path.frames }
      subs := fset src { subAt s src with
        txing := none
        sent := (subAt s src).sent + 1 } s.subs }) ∧
    (∀ (src n q : Nat), subUp s src = false → downHeads s src = [n] → (frameAt s n).stage = .queued q →
      ∃ t, exec (.portDownDrop src) s = .next t ∧
        (let key := 64 * (frameAt s n).src + 29
         t.path.drops = fset key (fget 0 s.path.drops key + 1) s.path.drops) ∧
        t.path.frames = fdel n s.path.frames ∧ n ∉ queueFrames (queueAt t q) ∧
        t = { s with
          freeCtr := s.freeCtr + 1
          path := t.path
          qm := t.qm
          subs := t.subs
          glaze := t.glaze })

/-- R35 to R39, R44, R105, R107, R116, R251: the line cipher engines. A refused job is dropped in DROP_JOB with source 22; an
ENCRYPT job's output is the spliced header, the ciphertext under the slot's key and its tag, but a MACsec one whose SecTAG
R35 never sends is refused in DROP_JOB (log entry 24); a DECRYPT job is dropped for a
wrong tag or a replayed number, else gives the plaintext; a job whose header lies behind a lock waits (R264); a staging
job only splices; a SEAL job returns to Glaze. A frame that
leaves by a job takes the job's ticket and bucket; a SEAL job whose frame is no slot plaintext is dropped; and what either
cipher seals, it opens to the same bytes and tag.
Where a job without SEAL finds its frame elsewhere is log entry 49's, and not stated here. Rests on the model's choices
of log entries 3, 23, 24 and 49. -/
def Obligations.cipherJobs : Prop :=
  (∀ (key h iv aad pt : List Byte),
    gcmOpen key h iv aad (gcmSeal key h iv aad pt).1 = (pt, (gcmSeal key h iv aad pt).2) ∧
    chachaOpen key iv aad (chachaSeal key iv aad pt).1 = (pt, (chachaSeal key iv aad pt).2)) ∧
  (∀ (j : LceJob) (k : KeySlot) (hdr frame : List Byte),
    let sp := hdr ++ frame.drop j.cut
    let cut := fun (b : List Byte) (i n : Nat) => (b.drop i).take n
    let text := cut sp j.encStart j.encLen
    let salt := leBytes 12 k.salt.toNat
    let key := fun n => leBytes n k.key.toNat
    let h := leBytes 16 k.hsub.toNat
    j.encStart + j.encLen ≤ sp.length → j.encStart + j.encLen + 16 ≤ 16383 → j.slpos = 0 → j.ippos = 0 → j.maxlen = 0 →
    j.aadStart + j.aadLen ≤ j.encStart →
      let o := pastTags sp sp.length 12
      let tci := sp.getD (o + 2) 0
      let unsent := be16 sp o = 0x88E5 ∧
        (tci.getLsbD 4 = true ∨ ¬(tci.getLsbD 3 = true ∧ tci.getLsbD 2 = true) ∨ tci.getLsbD 6 = true ∧ tci.getLsbD 5 = true)
      (j.suite < 4 → unsent → encryptBytes j k false hdr frame = .error 24) ∧
      (j.suite < 4 → ¬unsent →
        let iv := if j.suite < 2 then sciOf sp ++ beBytes 4 j.num else xorBytes (beBytes 4 k.tagid.toNat ++ beBytes 8 j.num) salt
        let r := gcmSeal (key (if j.suite % 2 = 0 then 16 else 32)) h iv (cut sp j.aadStart j.aadLen) text
        encryptBytes j k false hdr frame = .ok (sp.take j.encStart ++ r.1 ++ r.2)) ∧
      (4 ≤ j.suite → j.suite ≤ 6 → j.aadLen = 8 → j.encStart = j.aadStart + 16 → j.tfcpad = 0 → (j.encLen + 2) % 4 = 0 →
        j.encStart + j.encLen + 18 ≤ 16383 →
        let head := sp.take (j.aadStart + 4) ++ beBytes 4 j.num ++ beBytes 8 j.num
        let spi := cut sp j.aadStart 4
        let aad := spi ++ (if j.esn then beBytes 4 (j.num / 2 ^ 32) else []) ++ beBytes 4 j.num
        let nonce := salt.take 4 ++ beBytes 8 j.num
        let pt := text ++ [0, BitVec.ofNat 8 j.nh]
        let r := if j.suite = 6 then chachaSeal (key 32) nonce aad pt else gcmSeal (key (if j.suite = 4 then 16 else 32)) h nonce aad pt
        encryptBytes j k false hdr frame = .ok (head ++ r.1 ++ r.2))) ∧
  ∀ (s : State) (n k : Nat) (b : Job) (cells : List Nat), s.path.jobs.find? (fun b => b.lce == n) = some b → b.follows = false →
    let j := jobOf b.desc
    let f := frameAt s k
    let key := keyAt s j.ctx j.slot
    let waits : State := { s with path := { s.path with jobs := s.path.jobs.erase b } }
    let marked := fun (bad : Bool) (t : State) => ({ t with path := { t.path with
      chainBad := t.path.chainBad.filter (· != b.vent) ++ if bad then [b.vent] else [] } } : State)
    let drops := fun (c : Nat) (t : State) => let u := marked j.chain t
      dropFrame (if c = 24 then latchInt u b.vent 22 else u) k c
    let usable := (slotAt s j.ctx j.slot).state ∈ [SlotState.live, .spent, .draining] ∧
      (slotAt s j.ctx j.slot).klen.toNat = (if j.suite = 0 ∨ j.suite = 2 ∨ j.suite = 4 then 0 else 1) ∧ 6 * j.ctx + j.slot ∉ s.store.ueKeys
    let gives := fun (i : Instr) (bs : List Byte) (g : Frame → Frame) => ∃ t, exec i s = .next t ∧
      t = { s with
        mem := t.mem
        hbm := { s.hbm with badWords := t.hbm.badWords }
        store := t.store
        hb := t.hb
        hostMem := t.hostMem
        freeCtr := t.freeCtr
        path := { s.path with
          jobs := s.path.jobs.erase b
          frames := t.path.frames
          chainBad := t.path.chainBad } } ∧
      frameAt t k = { g f with
        cells := (frameAt t k).cells
        len := bs.length } ∧ frameBytes t (frameAt t k) = bs ∧ ∀ m, m ≠ k → frameAt t m = frameAt s m
    let after := fun (f : Frame) => { f with
      stage := if j.chain then .chained else .inRack
      queue := if j.chain then f.queue else j.queue
      ticket := BitVec.ofNat 32 j.ticket
      bucket := j.bucket
      jobGlaze := j.glaze
      jobGchan := j.gchan }
    let locked := j.hlen ≠ 0 ∧ matLocked (.lce n) j.haddr s = true
    (locked → ∀ ecc, ∀ i ∈ [Instr.lceEncrypt n ecc cells, .lceDecrypt n ecc cells, .lceStagingJob n ecc cells, .lceSealJob n ecc cells],
      exec i s = .next s) ∧
    (¬locked → (j.pbh ∉ s.path.frames.filterMap (fun p => p.2.cells.head?) → j.isSeal = false → j.op = 0 → j.glaze = false → ∀ ecc,
      exec (.lceEncrypt n ecc cells) s = .next (marked j.chain (jobErr waits b.vent))) ∧
    (frameOf s j.pbh = some k → (∃ v, f.stage = .atVent v) → j.isSeal = false → j.op = 0 → j.glaze = false → ∀ ecc,
      (jobRefused j f.len false false = true ∨ keyRefused s j = true → exec (.lceEncrypt n ecc cells) s = .next (drops 24 waits)) ∧
      (jobRefused j f.len false false = false → usable → j.hlen = 0 → ecc = false → badCell s f = none → f.len = (frameBytes s f).length →
        (∀ c, encryptBytes j key false [] (frameBytes s f) = .error c → exec (.lceEncrypt n ecc cells) s = .next (drops c waits)) ∧
        ∀ bs, encryptBytes j key false [] (frameBytes s f) = .ok bs → cellsFor bs.length ≤ f.cells.length → f.cells.Nodup →
          (∀ c ∈ f.cells, c < 196608) →
          gives (.lceEncrypt n ecc cells) bs (fun f => { after f with
            stagedJob := false
            encDone := true }))) ∧
    (frameOf s j.pbh = some k → (∃ v, f.stage = .atVent v) → j.isSeal = false → j.op = 1 → j.glaze = false →
      jobRefused j f.len false false = false → usable → 2 ≤ j.slot → j.hlen = 0 → badCell s f = none →
      j.encStart + j.encLen + 16 ≤ f.len → f.len = (frameBytes s f).length → (4 ≤ j.suite → 2 ≤ j.encLen) →
      (j.suite < 4 → j.encStart + j.encLen ≤ 16383 + j.cut) →
        let bs := frameBytes s f
        let r := jobDecipher j key bs (slice bs j.encStart j.encLen)
        let final := kcFinal waits j.ctx j.slot f.epoch j.num
        (r.2 ≠ slice bs (j.encStart + j.encLen) 16 → exec (.lceDecrypt n false cells) s = .next (drops 19 waits)) ∧
        (r.2 = slice bs (j.encStart + j.encLen) 16 → final.1 = false →
          exec (.lceDecrypt n false cells) s = .next (drops 18 final.2)) ∧
        (r.2 = slice bs (j.encStart + j.encLen) 16 → final.1 = true → j.suite < 4 → f.role = false → j.maxlen = 0 →
          cellsFor (j.encStart + j.encLen) ≤ f.cells.length → f.cells.Nodup → (∀ c ∈ f.cells, c < 196608) → r.1.length = j.encLen →
          gives (.lceDecrypt n false cells) ((bs.take j.encStart ++ r.1).drop j.cut) (fun f => { after f with
            stagedJob := false
            carrier := none
            decDone := true })) ∧
        (r.2 = slice bs (j.encStart + j.encLen) 16 → final.1 = true → j.suite < 4 → f.role = true → ∀ o, secStart bs = some o →
          ((bs.take j.encStart ++ r.1).drop o).take 6 = [0x88, 0xB5, 0x53, 0x5A, 0x47, 0x44] →
          exec (.lceDecrypt n false cells) s = .next (drops 31 final.2))) ∧
    (frameOf s j.pbh = some k → (∃ v, f.stage = .atVent v) → j.isSeal = false → j.op = 0 → j.glaze = true →
      (j.chain = true ∨ hasGlaze s = false → exec (.lceStagingJob n false cells) s = .next (drops 24 waits)) ∧
      (j.chain = false → hasGlaze s = true → jobRefused j f.len false true = false → j.hlen = 0 → badCell s f = none →
        f.len = (frameBytes s f).length → f.len ≤ 16383 → j.maxlen = 0 → f.cells.length = cellsFor f.len → f.cells.Nodup →
        (∀ c ∈ f.cells, c < 196608) →
        gives (.lceStagingJob n false cells) ((frameBytes s f).drop j.cut) (fun f => { after f with stagedJob := true }))) ∧
    (frameOf s j.pbh = some k → j.isSeal = true → (f.stage = .inRack ∨ (∃ p g, f.stage = .slotSealed p g) ∨ ∃ d, f.stage = .txing d) →
      exec (.lceSealJob n false cells) s = .next (dropFrame (latchInt (marked j.chain waits) b.vent 22) k 24)) ∧
    (∀ p g, frameOf s j.pbh = some k → f.stage = .slotPlain p g → j.isSeal = true →
      (j.op ≠ 0 ∨ j.chain = true ∨ j.glaze = true ∨ k ∉ (chanAt s p g).slots →
        exec (.lceSealJob n false cells) s = .next (drops 24 waits)) ∧
      (j.op = 0 → j.chain = false → j.glaze = false → k ∈ (chanAt s p g).slots → jobRefused j f.len false false = false → usable →
        j.hlen = 0 → badCell s f = none → f.len = (frameBytes s f).length →
        ∀ bs, encryptBytes j key false [] (frameBytes s f) = .ok bs → cellsFor bs.length ≤ f.cells.length → f.cells.Nodup →
          (∀ c ∈ f.cells, c < 196608) →
          gives (.lceSealJob n false cells) bs (fun f => { f with
            encDone := true
            stage := .slotSealed p g }))))

/-- R104, R107 to R115, R118, R119: Glaze. At the end of a slot its content is fixed: the carried frame or the first
eligible one,
whole or the piece that fits, else a dummy (always one where the slot's set has left the channel, R88); its plaintext
lies in new cells, its record names it, and the next slot opens
under the profile in force, a MASKED one with the two indices that the channel's stream gives next. Slot frames start in order
at their wire time or late; the guard drops one that its pairing does not send there, or whose frame was not
decrypted first (log entry 20); an OFF channel seals a frame alone; a generator takes 32 fresh random bytes after 2^24
draws. The
ticks that decide a frame's slot, and the stream's spelling, are the model's choice (log entry 51). Rests on the model's
choices of log entries 3, 25 and 51. -/
def Obligations.slotFrames : Prop :=
  ∀ (s : State) (p g : Nat) (cells : List Nat), p < 4 → g < 1024 →
    let c := chanAt s p g
    let x := c.prof.toNat
    let y := gprofOf s c.epoch p g
    let src := 8 * p + pSub x
    let seeds := c.running = true ∧ pMode y = 2 ∧ 2 ^ 24 ≤ c.draws
    let ended := c.running = true ∧ (c.start + c.len) / 64 ≤ s.timebase.toNat ∧ ¬seeds
    let n := s.path.nextFid
    let opens := fun (e : Bool) (turn : Option (Bool × Nat)) (t : State) =>
      let d := chanAt t p g
      let y := gprofOf s e p g
      (pMode y = 0 ∨ pMode y = 3 → turn = none → d.running = false) ∧
      (pMode y = 1 ∨ pMode y = 2 → d.running = true ∧ d.start = c.start + c.len ∧ d.slotNo = c.slotNo + 1 ∧
        d.prof = BitVec.ofNat 512 y ∧ d.slotEp = (if s.sets.copying then s.sets.epoch else e) ∧
        d.stale = (s.sets.copying && e != s.sets.epoch) ∧
        (turn = none → d.epoch = e ∧ d.turn = none) ∧
        ∀ f k, turn = some (f, k) → if k < (d.start + d.len) / 64 then d.epoch = f ∧ d.turn = none
          else d.epoch = e ∧ d.turn = turn) ∧
      (pMode y = 1 → d.len = pInterval y ∧ d.size = pSize y) ∧
      (pMode y = 2 → e = c.epoch →
        let tb := fget {} (setAt s e).tables (pTable y)
        let i := maskIndices c.seed (1024 * p + g) c.draws
        (turn = none → d.draws = c.draws + 2) ∧ d.size = tb.sizes.getD i.1 0 ∧ d.len = tb.intervals.getD i.2 0)
    let issued := fun (t : State) (kind btick size ctx sub : Nat) (e : Bool) (bs : List Byte) =>
      let f := frameAt t n
      let d := f.desc.toNat
      f.stage = .slotPlain p g ∧ f.len = bs.length ∧ f.cells = cells ∧ frameBytes t f = bs ∧ f.epoch = e ∧
      nbits d 63 0 = btick ∧ nbits d 83 64 = cells.headD 0 ∧ nbits d 86 84 = kind ∧ nbits d 96 87 = g ∧ nbits d 98 97 = p ∧
      nbits d 101 99 = sub ∧ nbits d 102 102 = b2n e ∧ nbits d 125 112 = bs.length ∧ nbits d 141 128 = size ∧ nbits d 159 144 = ctx ∧
      (chanAt t p g).slots = c.slots ++ [n] ∧
      (let r := steerAt s (bankOf s (8 * p + sub)) (1024 * p + g)
       r.mig = false → (∀ q ∈ s.easel.switching, q.1 ≠ 8 * p + sub) → (ventAt t r.vent).inp.items = (ventAt s r.vent).inp.items ++ [.slot p g n])
    (¬ended → exec (.glazeSlotClose p g cells) s = .next s) ∧
    (ended → subUp s src = false → ∃ t, exec (.glazeSlotClose p g cells) s = .next t ∧ opens c.epoch c.turn t ∧
      t = { s with
        freeCtr := t.freeCtr
        glaze := { s.glaze with chans := t.glaze.chans } }) ∧
    (ended → subUp s src = true → chanEsp s c.slotEp x = false → c.start / 64 < 2 ^ 64 →
      let size := min c.size (subAt s src).maxframe
      let room := size - chanOverhead s c.slotEp x
      let cap := room - 14
      size < 2 ^ 14 → 14 ≤ room → (∀ k ∈ cells, k < 196608) →
      let gives := fun (e : Bool) (turn : Option (Bool × Nat)) (kind : Nat) (bs : List Byte) (t : State) =>
        exec (.glazeSlotClose p g cells) s = .next t ∧ opens e turn t ∧
        issued t kind (c.start / 64) size (pCtx x) (pSub x) c.slotEp bs ∧ (frameAt t n).wire = c.start + 64 * pLead x ∧
        nbits (frameAt t n).desc.toNat 215 184 = c.slotNo % 2 ^ 32
      let carries := fun (e : Bool) (turn : Option (Bool × Nat)) (m o : Nat) =>
        let b := frameBytes s (frameAt s m)
        let len := min cap (b.length - o)
        let whole := o = 0 ∧ len = b.length
        cellsOk s cells (cellsFor room) = true → b.length < 2 ^ 16 → o ≤ b.length → m ≠ n → ∃ t,
          gives e turn (if o = 0 ∧ len = b.length then 1 else 2) ([0x88, 0xB5, 0x53, 0x5A, 0x47, 0x46] ++ beBytes 2 c.fid.toNat ++ beBytes 2 o ++
            beBytes 2 len ++ beBytes 2 b.length ++ (b.drop o).take len ++ zeros (room - 14 - len)) t ∧
          (whole → (frameAt t n).gfid = none) ∧
          (o + len < b.length → (chanAt t p g).carry = some (m, o + len) ∧ (frameAt t m).stage = .staged p g ∧
            (chanAt t p g).fid = c.fid) ∧
          (b.length ≤ o + len → (chanAt t p g).carry = none ∧ ffind t.path.frames m = none ∧ (chanAt t p g).fid = c.fid + 1)
      let due := (c.start + c.len) / 64
      let pick := pickNode s (.chan p g) (fun m => decide ((frameAt s m).tick.toNat < due) && decide ((frameAt s m).qtick.toNat < due))
      let turned := fun (e : Bool) => if c.epoch = e then c.turn else none
      let dummy := fun (e : Bool) (turn : Option (Bool × Nat)) => cellsOk s cells (cellsFor room) = true → ∃ t,
        gives e turn 3 ([0x88, 0xB5, 0x53, 0x5A, 0x47, 0x44] ++ zeros (room - 6)) t ∧ ∀ m, m ≠ n → frameAt t m = frameAt s m
      (c.stale = true → dummy c.epoch c.turn) ∧
      (∀ m o, c.stale = false → c.carry = some (m, o) → 0 < cap → carries c.epoch c.turn m o) ∧
      (c.stale = false → c.carry = none → pick = none → dummy c.epoch c.turn) ∧
      (∀ m u, c.stale = false → c.carry = none → pick = some (m, u) → let e := (frameAt s m).epoch
        (e = c.slotEp → 0 < cap → carries e (turned e) m 0) ∧ (e ≠ c.slotEp → dummy e (turned e)))) ∧
    (∀ k rest, c.slots = k :: rest →
      let f := frameAt s k
      let dst := 8 * p + nbits f.desc.toNat 101 99
      let kind := nbits f.desc.toNat 86 84
      let pair := pairOf (setAt s f.epoch)
      let refused := if kind = 3 then pair dst = none
        else f.src < 32 ∧ pair f.src ≠ some dst ∨ f.role = true ∧ f.action = 3 ∧ f.decDone = false
      f.stage = .slotSealed p g → subUp s dst = true → (subAt s dst).txing = none →
      (refused → exec (.glazeWireTime p g) s = .next (dropFrame s k 26)) ∧ (¬refused →
      (kind ≠ 0 → s.timebase.toNat < f.wire / 64 ∨ earlierWire s dst (1024 * p + g) f.wire = true →
        exec (.glazeWireTime p g) s = .next s) ∧
      (kind = 0 → fitsBefore s dst f.len = false → exec (.glazeWireTime p g) s = .next s) ∧
      ((kind ≠ 0 ∧ f.wire / 64 ≤ s.timebase.toNat ∧ earlierWire s dst (1024 * p + g) f.wire = false) ∨
          (kind = 0 ∧ fitsBefore s dst f.len = true) → badCell s f = none → exec (.glazeWireTime p g) s = .next (
        let late := kind ≠ 0 ∧ f.wire / 64 < s.timebase.toNat
        let chan : Channel := { c with slots := (k :: rest).filter (· != k) }
        { s with
          path := { s.path with frames := fset k { f with stage := .txing dst } s.path.frames }
          subs := fset dst { subAt s dst with
            txing := some k
            txBytes := frameBytes s f
            txBad := f.bad } s.subs
          glaze := {
            chans := fset (1024 * p + g) chan s.glaze.chans
            err := if late then s.glaze.err ||| 1 else s.glaze.err
            late := if late then fset p (fget 0 s.glaze.late p + 1) s.glaze.late else s.glaze.late
            dummy := if kind = 3 then fset p (fget 0 s.glaze.dummy p + 1) s.glaze.dummy else s.glaze.dummy } })))) ∧
    ((seeds →
        let fresh : Channel := { c with
          seed := (List.range 32).map (Config.randomByte s.freeCtr)
          draws := 0 }
        exec (.glazeReseed p g) s = .next { s with
          freeCtr := s.freeCtr + 1
          glaze := { s.glaze with chans := fset (1024 * p + g) fresh s.glaze.chans } }) ∧
      (¬seeds → exec (.glazeReseed p g) s = .next s)) ∧
    (∀ m u, c.running = false → c.carry = none → hasGlaze s = true → subUp s (8 * p + pSub y) = true →
      pickNode s (.chan p g) (fun _ => true) = some (m, u) → (frameAt s m).epoch = c.epoch → pMode y = 0 → m ≠ n →
      let f := frameAt s m
      let b := frameBytes s f
      cellsOk s cells (cellsFor b.length) = true → b.length < 2 ^ 14 →
      ∃ t, exec (.channelNodeSelect p g cells) s = .next t ∧
        issued t 0 f.tick.toNat ((ctxOverhead s c.epoch y + b.length +
          if chanEsp s c.epoch y then (4 - (b.length + 2) % 4) % 4 else 0) % 2 ^ 14) (pCtx y) (pSub y) c.epoch b ∧
        ffind t.path.frames m = none)

/-- R5, R6, R7, R256, R257, R282, R283, R322, R351: a register access reaches the register that its address, or the host's
BAR0 offset, names; a write then lets DMA channels it started fetch, and the host's read completes with what the register
holds. Whole aligned words are written in ascending order; a part of a word or a misaligned request of at most 8 bytes is
ignored and recorded in ERR_STAT.NARROW; a word that nothing maps is recorded in ERR_STAT.UNMAPPED, reads as zero and
ignores writes; where the matrix refuses the host, BAR0ERR is set and a read gives zero. A VF reads its own rings'
registers alone. The debug access port keeps what it reads. Before PRIMED only GLOBAL and HB respond; a one clears its bit
of an error register; PWR_EST reads 16 bits. Rests on the model's choices of log entries 14, 15 and 48. -/
def Obligations.registerWrites : Prop :=
  ∀ (s : State) (w : Word),
    let word := leBytes 4 w.toNat
    let stat := fun (b : BitVec 3) (t : State) => ({ t with glob := { t.glob with errStat := t.glob.errStat ||| b } } : State)
    let at_ := fun (o : Nat) => if o < 0x1000000 then 0x80000000 + o else 0x8F000000 + o
    let refused := fun (t : State) => ({ t with hb := { t.hb with err := t.hb.err ||| 64 } } : State)
    let put := fun (o : Nat) (w : Word) (t : State) =>
      let r := regWrite (.host 0) (at_ o) w t
      if 0x2000000 ≤ o then stat 1 t else if r.1 = .okay then r.2 else refused r.2
    (masterReady s (.host 0) = true → ∀ o : Nat,
      (o % 4 = 0 → ∀ ws : List Word, exec (.registerWrite (.host 0) o (.write (ws.flatMap (fun w => leBytes 4 w.toNat)))) s =
        .next (dmaSettle ((List.range ws.length).foldl (fun t i => put (o + 4 * i) (ws.getD i 0) t) s))) ∧
      (∀ bs : List Byte, 0 < bs.length → bs.length ≤ 8 → o % 4 ≠ 0 ∨ bs.length % 4 ≠ 0 →
        let lost := ∃ i < bs.length, 0x2000000 ≤ o + i ∨ regLoc s (at_ ((o + i) / 4 * 4)) = .unmapped
        (lost → exec (.registerWrite (.host 0) o (.write bs)) s = .next (dmaSettle (stat 3 s))) ∧
        (¬lost → exec (.registerWrite (.host 0) o (.write bs)) s = .next (dmaSettle (stat 2 s)))) ∧
      (o % 4 = 0 →
        let reads := fun (x : Nat) (t : State) => exec (.registerWrite (.host 0) o (.read 4)) s = .next { t with
          hb := { t.hb with cpl := .ok (leBytes 4 x) } }
        let r := regRead (.host 0) (at_ o) s
        (0x2000000 ≤ o → reads 0 (stat 1 s)) ∧
        (o < 0x2000000 → r.1 = .okay → reads r.2.1 r.2.2) ∧ (o < 0x2000000 → r.1 ≠ .okay → reads 0 (refused r.2.2)))) ∧
    (∀ f r i : Nat, masterReady s (.host (f + 1)) = true → r < 4096 → i < 4 →
      let reads := fun (x : Nat) => exec (.registerWrite (.host (f + 1)) (16 * r + 4 * i) (.read 4)) s = .next { s with
        hb := { s.hb with cpl := .ok (leBytes 4 x) } }
      ((∀ x, ringAt s r = some x → x.func ≠ f + 1) → reads 0 ∧
        exec (.registerWrite (.host (f + 1)) (16 * r + 4 * i) (.write word)) s = .next (dmaSettle s)) ∧
      (∀ x, ringAt s r = some x → x.func = f + 1 → reads (ringRegs s r i))) ∧
    (∀ (m : Master) (a : Nat), masterReady s m = true → (∀ f, m ≠ .host f) → m ≠ .jtag → 0x80000000 ≤ a → a < 0xA0000000 →
      (a % 4 = 0 → exec (.registerWrite m a (.write word)) s = .next (dmaSettle (regWrite m a w s).2)) ∧
      (∀ b : Byte,
        (regLoc s (a / 4 * 4) = .unmapped → exec (.registerWrite m a (.write [b])) s = .next (dmaSettle (stat 3 s))) ∧
        (regLoc s (a / 4 * 4) ≠ .unmapped → exec (.registerWrite m a (.write [b])) s = .next (dmaSettle (stat 2 s))))) ∧
    (∀ a : Nat, masterReady s .jtag = true → 0x80000000 ≤ a → a < 0xA0000000 → a % 4 = 0 →
      let x := regWrite .jtag a w s
      let y := regRead .jtag a s
      let t := dmaSettle x.2
      exec (.registerWrite .jtag a (.write word)) s = .next { t with jtag := { t.jtag with dapCode := x.1 } } ∧
      exec (.registerWrite .jtag a (.read 4)) s = .next { y.2.2 with jtag := { y.2.2.jtag with
        dapData := if y.1 = .okay then leBytes 4 y.2.1 else leBytes 4 0
        dapCode := y.1 } }) ∧
    (∀ (m : Master) (a : Nat), a % 4 = 0 →
      (a < 0x80000000 ∨ 0x80D00000 ≤ a ∧ a < 0x90000000 ∨ 0x90C00000 ≤ a → regWrite m a w s = (.okay, stat 1 s) ∧ regRead m a s = (.okay, 0, stat 1 s)) ∧
      (s.glob.phase ≠ .primed → 0x80200000 ≤ a ∧ a < 0x80D00000 ∨ 0x90000000 ≤ a ∧ a < 0x90C00000 →
        regWrite m a w s = (.okay, s) ∧ regRead m a s = (.okay, 0, s)) ∧
      regWrite m 0x80000050 w s = (.okay, { s with glob := { s.glob with errStat := s.glob.errStat &&& ~~~(w.truncate 3) } }) ∧
      regWrite m 0x80100004 w s = (.okay, { s with hb := { s.hb with err := s.hb.err &&& ~~~(w.truncate 7) } }) ∧
      (s.glob.phase = .primed →
        (∃ x < 65536, regRead m 0x80C0001C s = (.okay, x, { s with freeCtr := s.freeCtr + 1 })) ∧
        regWrite m 0x80C00004 w s = (.okay, { s with power := { s.power with err := s.power.err &&& ~~~(w.truncate 7) } }) ∧
        regWrite m 0x80C00008 w s = (.okay, { s with power := { s.power with alerten := w.truncate 7 } }) ∧
        regWrite m 0x80700010 w s = (.okay, { s with store := { s.store with err := s.store.err &&& ~~~(w.truncate 7) } })))

/-- R135, R255, R277, R284, R287, R317, R364: the registers whose writes command the part. ADM_CFG opens and closes the admin
rings, STAGEBASE takes the bases that R284 lists, REMAP_CTL obeys the MV alone, RING_CTL resumes or skips on a halted
ring (a SKIP waits while the part can issue no request for the ring's function, R318, R320), EASEL_CFG is refused while a
migration runs or the context area does not fit, and a PWR_CALGATE bit gates an excluded and drained caldera, or powers one
again. (What a write of 0 does while the gating runs is the model's choice, log entry 39.) Rests on the model's choices
of log entries 16, 39 and 52. -/
def Obligations.commandRegisters : Prop :=
  ∀ (s : State) (m : Master), CanWrite s m →
    let done := fun (c : Instr) (t : State) => exec c s = .next (dmaSettle t)
    let cfgErr : State := { s with hb := { s.hb with err := s.hb.err ||| 32 } }
    (∀ w : Word,
      let c : BitVec 24 := w.truncate 24
      let sq := c.toNat % 32
      let cq := c.toNat / 32 % 32
      let sane := 6 ≤ sq ∧ sq ≤ 16 ∧ 6 ≤ cq ∧ cq ≤ 16
      (s.hb.cfg.getLsbD 11 = false → c.getLsbD 11 = true → ¬sane → done (.admCfg m w) cfgErr) ∧
      (s.hb.cfg.getLsbD 11 = false → c.getLsbD 11 = false → done (.admCfg m w) { s with hb := { s.hb with cfg := c } }) ∧
      (s.hb.cfg.getLsbD 11 = false → c.getLsbD 11 = true → sane → done (.admCfg m w) { s with
        hb := { s.hb with
          cfg := c
          rings := fset 1 { kind := .admcq, log := cq, rbase := s.hb.cqbase, nosnoop := c.getLsbD 10,
                            vec := if c.getLsbD 23 then some (c.toNat / 4096 % 2048) else none }
            (fset 0 { kind := .admsq, log := sq, rbase := s.hb.sqbase, nosnoop := c.getLsbD 10 } s.hb.rings) }
        adm := { s.adm with
          stopped := false
          closing := false
          cmds := s.adm.cmds.map (fun x => { x with discard := true }) } }) ∧
      (s.hb.cfg.getLsbD 11 = true → c ||| 0x800 ≠ s.hb.cfg → done (.admCfg m w) cfgErr) ∧
      (s.hb.cfg.getLsbD 11 = true → c = s.hb.cfg → done (.admCfg m w) s) ∧
      (s.hb.cfg.getLsbD 11 = true → c.getLsbD 11 = false → c ||| 0x800 = s.hb.cfg →
        let rings := if s.adm.cmds = [] then fdel 1 (fdel 0 s.hb.rings) else s.hb.rings
        done (.admCfg m w) { s with
          hb := { s.hb with
            cfg := c
            rings := rings }
          adm := { s.adm with closing := !s.adm.cmds.isEmpty } })) ∧
    (∀ w : DWord,
      let b := w.toNat / 2 ^ 24 % 2 ^ 24 * 2 ^ 24
      let good := b = 0x1000000 ∨ (∃ c, c < nCals s ∧ b = 0x10000000 + c * 0x1000000) ∨ b = 0x60000000 ∨ b = 0x61000000 ∨
        b = 0x62000000 ∨ (0x1000000000 ≤ b ∧ b < 0x1000000000 + hbmSize s)
      ∃ t, exec (.stagebase m w) s = .next t ∧ (good → t.hb.stagebase.toNat = b) ∧
        (¬good → t.hb.stagebase = s.hb.stagebase ∧ t.hb.err.getLsbD 5 = true)) ∧
    (∀ w : Word,
      (m = .mv → done (.remapCtl m w) { s with glob := { s.glob with swap := w.getLsbD 0 } }) ∧
      (m ≠ .mv → done (.remapCtl m w) { s with glob := { s.glob with errStat := s.glob.errStat ||| 4 } })) ∧
    (∀ (r : Nat) (x : Ring), r < 4096 → ringAt s r = some x → x.halted = true →
      let y : Ring := { x with
        halted := false
        late := false
        hstat := 0 }
      let on := fun (z : Ring) => ({ s with
        hb := { s.hb with rings := fset r z s.hb.rings }
        adm := if r = 0 then { s.adm with stopped := false } else s.adm } : State)
      let next := (x.cons + 1) % 2 ^ x.log
      let skips := fun (tag : BitVec 16) (t : State) => exec (.ringCtlSkip m r tag) s = .next t
      let gone : Ring := { y with
        cons := next
        skip := none }
      done (.ringCtlResume m r) (on y) ∧
      ∀ tag : BitVec 16,
      (x.cons = x.prod → skips tag (on y)) ∧
      (x.cons ≠ x.prod → funcLive s x.func = false → skips tag (on { x with
        halted := false
        hstat := 0
        skip := some tag })) ∧
      (x.cons ≠ x.prod → funcLive s x.func = true → r ≠ 0 ∨ x.late = false → skips tag (on gone)) ∧
      (x.cons ≠ x.prod → funcLive s x.func = true → r = 0 → x.late = true → skips tag { s with
        hb := { s.hb with
          rings := fset r gone s.hb.rings
          req := (hostAsk s x.func x.nosnoop false (x.rbase.toNat + 32 * x.cons) 32).hb.req }
        adm := { s.adm with
          stopped := false
          nextId := s.adm.nextId + 1
          cmds := s.adm.cmds ++ [{ id := s.adm.nextId, tag := tag, status := some 7, sqhead := next }] } })) ∧
    (s.glob.phase = .primed → ∀ w : Word,
      let x := w &&& 0x00FF0003
      let cache := x.toNat / 2 ^ 22 % 4
      let area := if x.toNat % 4 = 0 then 0 else x.toNat / 2 ^ 16 % 64 * 0x10000 + 4096 * 2 ^ (x.toNat % 4 + 5)
      let room := 0x400000 - (if cache = 1 then 0x40000 else if cache = 2 then 0x80000 else 0)
      (s.easel.migs ≠ [] ∨ cache = 3 ∨ room < area → done (.easelCfg m w) { s with easel := { s.easel with err := s.easel.err ||| 2 } }) ∧
      (s.easel.migs = [] → cache ≠ 3 → area ≤ room → done (.easelCfg m w) { s with easel := { s.easel with
        cfg := x
        ctxCache := if cache = s.easel.cfg.toNat / 2 ^ 22 % 4 then s.easel.ctxCache else [] } })) ∧
    (s.glob.phase = .primed → ∀ c < 12,
      let bit : BitVec 12 := 1 <<< c
      let can := s.easel.excl.getLsbD c = true ∧ drained s c = true ∧ c < nCals s
      (∀ d < 12, d ≠ c → s.power.calgate.getLsbD d = true → s.easel.excl.getLsbD d = true ∧ drained s d = true ∧ d < nCals s) →
      (¬can → done (.pwrCalgateGate m c) { s with power := { s.power with err := s.power.err ||| 32 } }) ∧
      (can → s.power.calgate.getLsbD c = true → done (.pwrCalgateGate m c) s) ∧
      (can → s.power.calgate.getLsbD c = false → (calAt s c).power ≠ .gating → ∃ t, exec (.pwrCalgateGate m c) s = .next (dmaSettle t) ∧
          t = { s with
            power := { s.power with calgate := s.power.calgate ||| bit }
            cals := fset c { calAt s c with
              power := .gating
              gateTick := s.timebase } s.cals
            vents := t.vents
            mx := t.mx } ∧
          ∀ i < 16, dmaBusy (dmaAt t (16 * c + i)) = false ∧
            (dmaBusy (dmaAt s (16 * c + i)) = true → (dmaAt t (16 * c + i)).state = .halted ∧ (dmaAt t (16 * c + i)).cause = 8)) ∧
      (s.power.calgate.getLsbD c = false → done (.pwrCalgatePower m c) s) ∧
      (s.power.calgate.getLsbD c = true → done (.pwrCalgatePower m c) { s with
          power := { s.power with calgate := s.power.calgate &&& ~~~bit }
          cals := if (calAt s c).power = .off then fset c { calAt s c with power := .powering } s.cals else s.cals }))

/-- R154, R156, R240, R241, R251, R252, R324: the registers of a vent in its caldera's block. VIN_CFG enables a ring that
fits, VIN_CONS frees entries that exist, VNMI and VINT_SET make their sources pending, VWDOG reloads its count, which
expires first where it has run out (R4), and VCTL resets the vent: Narrow mode at M, VBOOT next, stores, caches and
queues gone, the ring and its block kept, outstanding
responses absorbed, markers acknowledged (the late ones after their report, R130), and the tick of the reset kept for
Easel's reports (R4, R123). Rests on the model's choices of log entries 5 and 30. -/
def Obligations.ventRegisters : Prop :=
  ∀ (s : State) (m : Master) (v : Nat), CanWrite s m → s.glob.phase = .primed → v < 8 * nCals s → (calAt s (v / 8)).power = .on →
    s.store.kemSealed ≠ some (v / 8) →
    let vt := ventAt s v
    let put := fun (x : Vent) => dmaSettle { s with vents := fset v x s.vents }
    let inp := fun (x : VentIn) => put { vt with inp := x }
    let evt := fun (x : VentEvt) => put { vt with evt := x }
    (∀ w : Word,
      let c := w &&& 0x01FFFFFF
      let base := c.toNat % 2 ^ 12
      let depth := c.toNat / 2 ^ 12 % 2 ^ 11
      let bad : VentIn := { vt.inp with stat := vt.inp.stat ||| 1 }
      let fits := 16 ≤ depth ∧ depth ≤ 1024 ∧ base * 64 + 161 * depth + 16 ≤ 262144
      (vt.inp.cfg.getLsbD 24 = false → c.getLsbD 24 = true → fits → exec (.vinCfg m v w) s = .next (inp { vt.inp with
        cfg := c
        prod := 0
        cons := 0
        count := 0 })) ∧
      (vt.inp.cfg.getLsbD 24 = false → c.getLsbD 24 = true → ¬fits → exec (.vinCfg m v w) s = .next (inp bad)) ∧
      (vt.inp.cfg.getLsbD 24 = false → c.getLsbD 24 = false → exec (.vinCfg m v w) s = .next (inp { vt.inp with cfg := c })) ∧
      (vt.inp.cfg.getLsbD 24 = true →
        (c.toNat % 2 ^ 23 = vt.inp.cfg.toNat % 2 ^ 23 → exec (.vinCfg m v w) s = .next (inp { vt.inp with cfg := c })) ∧
        (c.toNat % 2 ^ 23 ≠ vt.inp.cfg.toNat % 2 ^ 23 → exec (.vinCfg m v w) s = .next (inp bad))) ∧
      (let depth := vt.inp.cfg.toNat / 2 ^ 12 % 2 ^ 11
       exec (.vinCons m v w) s = .next (inp (if depth < (vt.inp.prod - w).toNat then { vt.inp with stat := vt.inp.stat ||| 2 }
         else { vt.inp with cons := w }))) ∧
      let loaded := fun (t : State) =>
        let evt : VentEvt := { (ventAt t v).evt with
          wdog := w &&& 0xFFFFFF
          wdDue := s.timebase + BitVec.ofNat 64 (1000 * (w.toNat % 2 ^ 24))
          wdOnce := false }
        ({ t with vents := fset v { ventAt t v with evt := evt } t.vents } : State)
      let out := vt.evt.wdog.toNat % 2 ^ 24 ≠ 0 ∧ vt.evt.wdDue ≤ s.timebase ∧ ventLocked vt = false
      (¬out → exec (.vwdog m v w) s = .next (dmaSettle (loaded s))) ∧
      (out → ∀ u, exec (.watchdog v) s = .next u →
        (vt.evt.wdOnce = true → m = .vent v → exec (.vwdog m v w) s = .next (dmaSettle u)) ∧
        (vt.evt.wdOnce = false ∨ m ≠ .vent v → exec (.vwdog m v w) s = .next (dmaSettle (loaded u))))) ∧
    exec (.vnmiRaise m v) s = .next (evt { vt.evt with nmiPend := true }) ∧
    exec (.vintSetMsg m v) s = .next (evt { vt.evt with pend := vt.evt.pend ||| 2 }) ∧
    exec (.vintSetSoft m v) s = .next (evt { vt.evt with pend := vt.evt.pend ||| 32 }) ∧
    let told := marksLate s v
    let late := fun (g : Migration) => v ∈ g.unacked ∧ v ∉ g.late ∧ ∃ a, ffind g.arrived v = some a ∧ a.toNat + 50000 ≤ s.timebase.toNat
    ((∀ g ∈ s.easel.migs, ¬late g) → told = s) ∧ ((∃ g ∈ s.easel.migs, late g) → told.easel.err.getLsbD 0 = true) ∧
    ∃ t, exec (.vctlReset m v) s = .next (dmaSettle t) ∧
      t = { told with
        vents := fset v (ventAt t v) s.vents
        easel := { told.easel with migs := told.easel.migs.map (fun g => { g with unacked := g.unacked.filter (· != v) }) }
        store := { s.store with picks := s.store.picks.filter (fun x => x.1 != v) } } ∧
      ventAt t v = { held := vt.held, halted := vt.halted, single := vt.single, pc := vt.evt.boot, inp := vt.inp,
                     upAt := vt.upAt, downAt := if vt.held = true ∨ vt.isolating = true then vt.downAt else s.timebase,
                     isolating := !(vt.fl.far.isEmpty && vt.fl.farWrites.isEmpty),
                     evt := { vt.evt with
                       excStat := vt.evt.excStat &&& 0xFE
                       mcPend := none
                       wdPend := false },
                     fl := { far := vt.fl.far.map (fun l => { l with absorbed := true }), farWrites := vt.fl.farWrites } }

/-- R12, R162, R164, R165, R235, R237, R238, R241, R251, R252, R278, R324: what happens at a vent beside its operations. Landed
loads, long operations and responses are written where they fall due; the oldest store drains; a hold's count ends; the
watchdog raises cause 50 and then resets the vent, unless it is locked up; the timer's tick is seen; a vent leaves reset
once nothing is due to
it, and the vents of a running caldera are released at VBOOT. Rests on the model's choices of log entries 3, 11, 13, 30
and 47. -/
def Obligations.ventEvents : Prop :=
  ∀ (s : State) (v : Nat),
    let vt := ventAt s v
    let put := fun (x : Vent) => ({ s with vents := fset v x s.vents } : State)
    let fl := fun (x : VentFlight) => put { vt with fl := x }
    let back := fun (x : Vent) => ({ x with upAt :=
      if (x.downAt.toNat + 99999) / 100000 < s.timebase.toNat / 100000 then s.timebase else x.upAt } : Vent)
    (exec (.holdExpiry v) s = .next (put { vt with hold := { vt.hold with count := 0 } })) ∧
    (∃ t, exec (.loadLanding v) s = .next t ∧ t = put (ventAt t v) ∧
      ventAt t v = writeRegs ((vt.fl.loads.filter (fun l => decide (l.due ≤ vt.fl.bno))).flatMap (fun l => l.writes))
        { vt with fl := { vt.fl with loads := vt.fl.loads.filter (fun l => decide (vt.fl.bno < l.due)) } }) ∧
    (∀ (n : Nat) (l : LongOp), vt.fl.longs[n]? = some l → ∃ t, exec (.longOperationComplete v n) s = .next t ∧
      t = put { writeRegs l.writes vt with
        vec := { (writeRegs l.writes vt).vec with fpflags := vt.vec.fpflags ||| l.flags.setWidth 32 }
        fl := (ventAt t v).fl } ∧
      (ventAt t v).fl = { vt.fl with longs := vt.fl.longs.take n ++ vt.fl.longs.drop (n + 1) }) ∧
    (sbBlocked s v = true → exec (.storeBufferDrain v) s = .next s) ∧
    (∀ (x : SbEntry) (r : List SbEntry), vt.fl.sbuf = x :: r → x.far = false → sbBlocked s v = false →
      ∃ t, exec (.storeBufferDrain v) s = .next t ∧ t = putDie (fl { vt.fl with sbuf := r }) x.bytes) ∧
    (∀ (x : SbEntry) (r : List SbEntry), vt.fl.sbuf = x :: r → x.far = true → sbBlocked s v = false →
      let u := fl { vt.fl with sbuf := r }
      (x.cache = true → (∃ l ∈ vt.fl.dcache, l.block = x.block) → ∃ lines, exec (.storeBufferDrain v) s = .next
        (fl { vt.fl with
          sbuf := r
          dcache := lines }) ∧ lines.map (fun l => l.block) = vt.fl.dcache.map (fun l => l.block) ∧
        ∀ l ∈ lines, l.block = x.block → l.dirty = true) ∧
      (x.cache = false ∨ (∀ l ∈ vt.fl.dcache, l.block ≠ x.block) →
        let w := matWrite (ventMaster v) x.bytes u
        ∃ t, exec (.storeBufferDrain v) s = .next t ∧ t = { w.2 with vents := fset v (ventAt t v) w.2.vents } ∧
          ventAt t v = { ventAt w.2 v with fl := { (ventAt w.2 v).fl with
            farWrites := (ventAt w.2 v).fl.farWrites ++ [(w.1, x)] } })) ∧
    (∀ (c : RespCode) (x : SbEntry) (r : List (RespCode × SbEntry)), vt.fl.farWrites = (c, x) :: r →
      (∀ d < nCals s, domainDue s d = false) →
      (c = .okay ∨ vt.isolating = true → exec (.farWriteResponse v) s = .next (dmaSettle (fl { vt.fl with farWrites := r }))) ∧
      (c ≠ .okay → vt.isolating = false → ∃ t, exec (.farWriteResponse v) s = .next (dmaSettle t) ∧ t = fl (ventAt t v).fl ∧
        (ventAt t v).fl = { vt.fl with
          farWrites := r
          deferq := (ventAt t v).fl.deferq
          deferOvf := (ventAt t v).fl.deferOvf
          narrowFault := vt.fl.narrowFault || ventNarrow vt } ∧
        (vt.fl.deferq.length < 4 → ∃ d : DeferEntry, (ventAt t v).fl.deferq = vt.fl.deferq ++ [d] ∧ d.store = true ∧
          d.level = x.level ∧ d.addr.toNat = x.vaddr % 2 ^ 32))) ∧
    (∀ (d : DeferEntry) (r : List DeferEntry), vt.fl.deferq = d :: r → ventLevel vt ≠ 0 → ∃ t, exec (.deferqPop v) s = .next t ∧
      t = fl (ventAt t v).fl ∧ (ventAt t v).fl.deferq = r) ∧
    (vt.fl.far = [] → vt.fl.farWrites = [] → exec (.isolationComplete v) s = .next (put (back { vt with isolating := false }))) ∧
    (vt.evt.timecmp ≤ s.timebase → (calAt s (v / 8)).tbCopy < vt.evt.timecmp → exec (.timer v) s = .next { s with
      cals := fset (v / 8) { calAt s (v / 8) with tbCopy := vt.evt.timecmp } s.cals }) ∧
    (ventLocked vt = true → exec (.watchdog v) s = .next s) ∧
    (∀ p : Nat, p = vt.evt.wdog.toNat % 2 ^ 24 → p ≠ 0 → vt.evt.wdDue ≤ s.timebase → ventLocked vt = false →
      (vt.evt.wdOnce = false → exec (.watchdog v) s = .next (put { vt with evt := { vt.evt with
        wdDue := s.timebase + BitVec.ofNat 64 (1000 * p)
        wdOnce := true
        wdPend := true } })) ∧
      (vt.evt.wdOnce = true → let told := marksLate s v
        ∃ t, exec (.watchdog v) s = .next t ∧ t = { ventReset told v with vents := fset v (ventAt t v) s.vents } ∧
        ventAt t v = { ventAt (ventReset told v) v with evt := (ventAt t v).evt } ∧ (ventAt t v).evt.wdOnce = false ∧
        (ventAt t v).evt.excStat.getLsbD 1 = true ∧ (ventAt t v).evt.wdDue = s.timebase + BitVec.ofNat 64 (1000 * p))) ∧
    (∀ c < nCals s, s.glob.phase = .primed → (calAt s c).power = .on → s.store.kemSealed ≠ some c → ∃ t,
      exec (.ventRelease c) s = .next t ∧ t = { s with vents := t.vents } ∧ ∀ u, ventAt t u =
        if u / 8 = c ∧ (ventAt s u).held = true then back { ventAt s u with
          held := false
          pc := (ventAt s u).evt.boot } else ventAt s u)

/-- R144, R162, R165, R227 to R230, R233, R234, R237, R238, R246, R277: an asynchronous event that is due is taken at the
boundary, its request used up, with ASYNC set and the pc as the return address, once its handler's address can be read; machine
check and NMI come before what a hold holds off, and no event is taken while a mode shadow is open. Cause 10 is due in
Broad mode while DEFERQ holds an entry that waits for no handler and no handler of cause 10 is under way. The response to a far
load writes its register, extended as the load says, unless a later operation of its bundle wrote it; a failed response leaves
the register and enters DEFERQ, to wait where a handler has been entered since. A read that its island ended answers
DOMAIN_OFF; a response that comes after the 10 µs of a gating finds it ended so (R4). Rests on the model's choices of log
entries 3, 11, 44 and 52. -/
def Obligations.asyncEntriesAndResponses : Prop :=
  ∀ (s : State) (v : Nat),
    let vt := ventAt s v
    let lvl := ventLevel vt
    let takes := fun (cause fa : Nat) (x : Vent) =>
      (HandlerReady s v cause → exec (.asyncEntry v) s = .next (ventEnter (setVent s v x) v
        { cause := cause, async := true, faddr := fa, rta := vt.pc.toNat, lvl := lvl, mcact := ventMcact vt })) ∧
      (¬HandlerReady s v cause → exec (.asyncEntry v) s = .next s)
    let due : Prop := 10 ∉ vt.fl.handlers ∧ ∃ d ∈ vt.fl.deferq, ∀ n, d.wait = some n → vt.fl.handlers.length ≤ n
    (ventRuns s v = true → vt.shadowOpen = false →
      (∀ a, vt.evt.mcPend = some a → takes 49 a.toNat { vt with evt := { vt.evt with mcPend := none } }) ∧
      (vt.evt.mcPend = none → vt.evt.nmiPend = true → vt.stat.getLsbD 6 = false → vt.stat.getLsbD 5 = false →
        takes 51 0 { vt with evt := { vt.evt with nmiPend := false } }) ∧
      (vt.evt.mcPend = none → vt.evt.nmiPend = false →
        (vt.hold.count ≠ 0 → exec (.asyncEntry v) s = .next s) ∧
        (vt.hold.count = 0 →
          (vt.hold.ovr = true → takes 48 vt.hold.haddr.toNat { vt with hold := { vt.hold with ovr := false } }) ∧
          (vt.hold.ovr = false →
            (vt.evt.wdPend = true → takes 50 0 { vt with evt := { vt.evt with wdPend := false } }) ∧
            (vt.evt.wdPend = false →
              (due → ventNarrow vt = false → takes 10 (vt.fl.deferq.headD {}).addr.toNat vt) ∧
              (¬due ∨ ventNarrow vt = true → ∀ c, 16 ≤ c → c < 24 → nbit (vintPend s v) c = true → nbit (vintEn vt) c = true →
                (∀ b, 16 ≤ b → b < 24 → b ≠ c → nbit (vintPend s v) b = false) →
                (vt.deleg.getLsbD c = false → lvl ≠ 3 ∨ vt.stat.getLsbD 3 = true → takes c 0 vt) ∧
                (vt.deleg.getLsbD c = true → lvl = 0 ∨ lvl = 1 ∧ vt.stat.getLsbD 4 = true → takes c 0 vt) ∧
                (vt.deleg.getLsbD c = false → lvl = 3 → vt.stat.getLsbD 3 = false → exec (.asyncEntry v) s = .next s))))))) ∧
    (vt.shadowOpen = true → exec (.asyncEntry v) s = .next s) ∧
    (∀ (n r w : Nat) (sg : Bool) (p : FarPiece) (l : FarLoad), vt.fl.far[n]? = some l →
      l = { l with
        dest := .gpr r w sg
        pieces := [p]
        ready := []
        kept := []
        absorbed := false } →
      (∀ d < nCals s, domainDue s d = false) →
      farBlocked s v l = false → p.cache = false → p.accepted = false → p.dst = 0 → p.len = w → w = 1 ∨ w = 2 ∨ w = 4 →
      let gone : State := { s with vents := fset v { vt with fl := { vt.fl with
        far := vt.fl.far.take n ++ vt.fl.far.drop (n + 1) } } s.vents }
      let m := if p.ended = true then (RespCode.domainOff, List.replicate w 0, gone) else matRead (ventMaster v) p.maddr w gone
      let val : Word := if sg then BitVec.ofInt 32 (sgn (8 * w) (leNat m.2.1)) else BitVec.ofNat 32 (leNat m.2.1)
      (m.1 = .okay → (∀ x, RegW.gpr r x ∉ l.later) → exec (.farLoadResponse v n) s = .next (dmaSettle { m.2.2 with
        vents := fset v (writeReg (ventAt m.2.2 v) (.gpr r val)) m.2.2.vents })) ∧
      (m.1 = .okay → (∃ x, RegW.gpr r x ∈ l.later) → exec (.farLoadResponse v n) s = .next (dmaSettle { m.2.2 with
        vents := fset v (ventAt m.2.2 v) m.2.2.vents })) ∧
      (m.1 ≠ .okay → (ventAt m.2.2 v).fl.deferq.length < 4 →
        let u := ventAt m.2.2 v
        let kind : BitVec 2 := if m.1 = .ue then 1 else if m.1 = .domainOff then 2 else 0
        let d : DeferEntry := { kind := kind, store := false, vec := false, reg := BitVec.ofNat 5 r, level := l.level,
                                addr := BitVec.ofNat 32 p.vaddr,
                                wait := if l.depth < vt.fl.handlers.length then some l.depth else none }
        let y : Vent := { u with fl := { u.fl with deferq := u.fl.deferq ++ [d] } }
        exec (.farLoadResponse v n) s = .next (dmaSettle { m.2.2 with vents := fset v y m.2.2.vents }))) ∧
    (∀ (n : Nat) (l : FarLoad), vt.fl.far[n]? = some l →
      let gone : State := { s with vents := fset v { vt with fl := { vt.fl with
        far := vt.fl.far.take n ++ vt.fl.far.drop (n + 1) } } s.vents }
      (∀ d < nCals s, domainDue s d = false) →
      (farBlocked s v l = true → exec (.farLoadResponse v n) s = .next s) ∧
      (farBlocked s v l = false → l.absorbed = true → exec (.farLoadResponse v n) s = .next (dmaSettle (l.pieces.foldl (fun t p =>
        if p.cache || p.accepted || p.ended then t else (matRead (ventMaster v) p.maddr p.len t).2.2) gone)))) ∧
    (∀ (c n : Nat) (u : State), c < nCals s → domainDue s c = true → exec (.domainOffTimeout c) s = .next u →
      (∀ d < nCals s, domainDue u d = false ∧ (d ≠ c → domainDue s d = false)) →
      exec (.farLoadResponse v n) s = exec (.farLoadResponse v n) u ∧ exec (.farWriteResponse v) s = exec (.farWriteResponse v) u)

/-! ### Vent operations: scalar -/

/-- R177, R182, R188, R190, R192: a lone enabled S or AG operation whose destination is a register; and two of them in one
bundle, in either mode (R144, R145): both read their sources as they stood before the bundle, and where both write one
register, the later in the encoding prevails. -/
def Obligations.scalarToRegister : Prop :=
  (∀ (i : Instr) (k : OpKind) (v : Nat) (e : OpEnc) (s : State) (a b : Word) (ua ub : List RegW),
    opKindOf i = some (k, v, e) → k ∈ scalarKinds → Issues s v k e → opD k e = .reg (fD e) →
    srcA s v k e = { val := a.toNat, upds := ua } → srcB s v k e = { val := b.toNat, upds := ub } →
    exec i s = .next (s.after v e (wentOn
      { writeRegs (ua ++ ub ++ [.gpr (fD e) (scalarResult k 32 a b (regOf (s.fresh v e) (fD e)))]) (s.fresh v e) with
        astat := (s.fresh v e).astat ||| (if e.cls.toNat < 2 then scalarFlags k 32 a b else 0) } (opWords e)))) ∧
  ∀ (i : Instr) (k1 k2 : OpKind) (v : Nat) (e1 e2 : OpEnc) (s : State) (a1 b1 a2 b2 : Word) (u1 w1 u2 w2 : List RegW),
    opKindOf i = some (k2, v, e2) → k1 ∈ scalarKinds → k2 ∈ scalarKinds → Pair s v k1 e1 k2 e2 → e1.cls ≠ e2.cls →
    opD k1 e1 = .reg (fD e1) → opD k2 e2 = .reg (fD e2) →
    let n := opWords e1 + opWords e2
    let s1 := s.foundN v n
    let vt := ventAt s1 v
    let c : Ctx := { s := s1, v := v, vt := vt, pc := vt.pc.toNat, words := n }
    let src := fun (k : OpKind) (e : OpEnc) (o : Opnd) => srcOpnd c (2 ^ fSZ e) (opSigned k) o
    let res := fun (k : OpKind) (e : OpEnc) (a b : Word) => RegW.gpr (fD e) (scalarResult k 32 a b (regOf vt (fD e)))
    let flags := fun (k : OpKind) (e : OpEnc) (a b : Word) => if e.cls.toNat < 2 then scalarFlags k 32 a b else 0
    guardOn vt e1 = true → guardOn vt e2 = true → issueWaits s1 vt [⟨k1, e1, none⟩, ⟨k2, e2, none⟩] = false →
    vt.badRegs = [] →
    src k1 e1 (opA k1 e1) = { val := a1.toNat, upds := u1 } → src k1 e1 (opB k1 e1) = { val := b1.toNat, upds := w1 } →
    src k2 e2 (opA k2 e2) = { val := a2.toNat, upds := u2 } → src k2 e2 (opB k2 e2) = { val := b2.toNat, upds := w2 } →
    exec i s = .next (setVent s1 v (wentOn
      { writeRegs ((u1 ++ w1 ++ [res k1 e1 a1 b1]) ++ (u2 ++ w2 ++ [res k2 e2 a2 b2])) vt with
        astat := vt.astat ||| flags k1 e1 a1 b1 ||| flags k2 e2 a2 b2 } n))

/-- R166, R177, R184, R188: the same with a memory destination of w = 8 × size bits: in the vent's own palette it is written
at once, and outstanding far loads keep what they read there (R144); in its caldera memory it takes its place in the store
buffer, and waits where all eight entries are in use. Rests on the model's choices of log entries 3 and 53. -/
def Obligations.scalarToMemory : Prop :=
  ∀ (i : Instr) (k : OpKind) (v : Nat) (e : OpEnc) (s : State) (a b d : Word) (ua ub ud : List RegW) (sp addr : Nat),
    opKindOf i = some (k, v, e) → k ∈ scalarKinds → Issues s v k e → opD k e = .spec sp →
    srcA s v k e = { val := a.toNat, upds := ua } → srcB s v k e = { val := b.toNat, upds := ub } →
    specAddr (s.fresh v e) sp (2 ^ fSZ e) (2 ^ fSZ e) (2 ^ fSZ e) = (addr, ud, []) →
    accFaults (s.ctx v e) .wr addr (2 ^ fSZ e) true = [] →
    (k = .ins → ∃ u, srcOpnd (s.ctx v e) (2 ^ fSZ e) false (opD k e) = { val := d.toNat, upds := u }) →
    let s1 := s.found v e
    let r := scalarResult k (8 * 2 ^ fSZ e) a b d
    let bs := leBytes (2 ^ fSZ e) r.toNat
    let x : Vent := { writeRegs (ud ++ ua ++ ub) (s.fresh v e) with
      astat := (s.fresh v e).astat ||| (if e.cls.toNat < 2 then scalarFlags k (8 * 2 ^ fSZ e) a b else 0) }
    (∀ o, ventLoc (s.fresh v e) v addr = .pal o →
      let w := addrBytes (palBase v + o) bs
      let t := setVent (putDie s1 w) v (wentOn (kept s1 w x) (opWords e))
      exec i s = .next t ∧ (∀ j < 2 ^ fSZ e, memGet t.mem (palBase v + o + j) = r.extractLsb' (8 * j) 8) ∧
      ∀ y, y < palBase v + o ∨ palBase v + o + 2 ^ fSZ e ≤ y → memGet t.mem y = memGet s1.mem y) ∧
    (∀ o, ventLoc (s.fresh v e) v addr = .cal o →
      let sb := sbPush x.fl.far x.fl.sbuf (entryFor (s.ctx v e) (.cal o) addr (calBase (v / 8) + o) bs)
      exec i s = .next (if sb.length ≤ max 8 x.fl.sbuf.length then
        s.after v e (wentOn { x with fl := { x.fl with sbuf := sb } } (opWords e)) else s))

/-- R186, R188: compares and TST write their predicate, PAND, POR and PXOR theirs; P0 keeps its value. -/
def Obligations.predicates : Prop :=
  (∀ (i : Instr) (k : OpKind) (v : Nat) (e : OpEnc) (s : State) (a b : Word) (ua ub : List RegW),
    opKindOf i = some (k, v, e) → k ∈ compareKinds → Issues s v k e →
    srcA s v k e = { val := a.toNat, upds := ua } → srcB s v k e = { val := b.toNat, upds := ub } →
    exec i s = .next (s.after v e (wentOn
      (writeRegs (ua ++ ub ++ [.pred (fD e) (compareResult k a b)]) (s.fresh v e)) (opWords e)))) ∧
  (∀ (i : Instr) (k : OpKind) (v : Nat) (e : OpEnc) (s : State),
    opKindOf i = some (k, v, e) → k ∈ [OpKind.pand, .por, .pxor] → Issues s v k e →
    let p := predBit (s.fresh v e) (fld e 20 18) ^^ decide (fld e 21 21 = 1)
    let q := predBit (s.fresh v e) (fld e 24 22) ^^ decide (fld e 25 25 = 1)
    let r := match k with
      | .pand => p && q
      | .por => p || q
      | _ => p ^^ q
    exec i s = .next (s.after v e (wentOn (writeReg (s.fresh v e) (.pred (fld e 17 15) r)) 1))) ∧
  (∀ (vt : Vent) (n : Nat) (b : Bool), n < 8 →
    ∀ m < 8, predBit (writeReg vt (.pred n b)) m = if m = n ∧ n ≠ 0 then b else predBit vt m)

/-- R188, R189: MOVI and ADDI, and the branches. An enabled branch is taken to its target, and the linking forms write A15
only then; a disabled one does nothing. An IMM that is no multiple of 4 raises cause 0, and a JR or JRL to no multiple of 4
raises cause 5 at its bundle with FADDR holding the target. -/
def Obligations.immediatesAndBranches : Prop :=
  ∀ (v : Nat) (e : OpEnc) (s : State),
    let vt := s.fresh v e
    let pc := vt.pc
    let link : Vent := writeReg vt (.gpr 15 (pc + BitVec.ofNat 32 (4 * opWords e)))
    let near := pc + 4 * e.lo.signExtend 32
    let far := pc + e.hi
    let reg := regOf vt (fA e)
    let off := fun (k : OpKind) => Lone s v k e ∧ guardOn vt e = false ∧ issueWaits (s.found v e) vt [] = false
    let skips := fun (i : Instr) => exec i s = .next (s.after v e (wentOn vt (opWords e)))
    let goes := fun (i : Instr) (x : Vent) =>
      (reg.toNat % 4 = 0 → exec i s = .next (s.after v e (wentTo (applyShadow x) reg.toNat))) ∧
      (reg.toNat % 4 ≠ 0 → HandlerReady (s.found v e) v 5 → exec i s = .next (raisedAt s v e 5 reg.toNat))
    (Issues s v .movi e → exec (.movi v e) s = .next (s.after v e (wentOn (writeReg vt (.gpr (fD e) e.hi)) 2))) ∧
    (Issues s v .addi e → exec (.addi v e) s =
      .next (s.after v e (wentOn (writeReg vt (.gpr (fD e) (regOf vt (fD e) + e.hi))) 2))) ∧
    (Issues s v .br e → exec (.br v e) s = .next (s.after v e (wentTo (applyShadow vt) near.toNat))) ∧
    (Issues s v .brl e → exec (.brl v e) s = .next (s.after v e (wentTo (applyShadow link) near.toNat))) ∧
    (Issues s v .brf e → exec (.brf v e) s = .next (s.after v e (wentTo (applyShadow vt) far.toNat))) ∧
    (Issues s v .brlf e → exec (.brlf v e) s = .next (s.after v e (wentTo (applyShadow link) far.toNat))) ∧
    (Issues s v .jr e → goes (.jr v e) vt) ∧ (Issues s v .jrl e → goes (.jrl v e) link) ∧
    (e.hi.toNat % 4 ≠ 0 → HandlerReady (s.found v e) v 0 → (Fetched s v .brf e → exec (.brf v e) s = .next (raisedAt s v e 0 pc.toNat)) ∧
      (Fetched s v .brlf e → exec (.brlf v e) s = .next (raisedAt s v e 0 pc.toNat))) ∧
    (off .br → skips (.br v e)) ∧ (off .brl → skips (.brl v e)) ∧ (off .brf → skips (.brf v e)) ∧
    (off .brlf → skips (.brlf v e)) ∧ (off .jr → skips (.jr v e)) ∧ (off .jrl → skips (.jrl v e))

/-- R162, R165, R190, R191, R216, R219, R220: divisions and FDIV and FSQRT. In Broad mode the result is outstanding
until LONG_OPERATION_COMPLETE and the flags of a division are set at issue; in Narrow mode it is written at once, and so
is that of FDIV and FSQRT while a floating-point trap is enabled. -/
def Obligations.divisions : Prop :=
  (∀ (i : Instr) (k : OpKind) (v : Nat) (e : OpEnc) (s : State) (a b : Word) (ua ub : List RegW),
    opKindOf i = some (k, v, e) → k ∈ [OpKind.div, .divu, .rem, .remu] → Issues s v k e →
    srcA s v k e = { val := a.toNat, upds := ua } → srcB s v k e = { val := b.toNat, upds := ub } →
    ¬(b = 0 ∧ (s.fresh v e).astat.getLsbD 8 = true) →
    let w := RegW.gpr (fD e) (divideResult k a b)
    let vt : Vent := { writeRegs (ua ++ ub) (s.fresh v e) with astat := (s.fresh v e).astat ||| divideFlags k a b }
    exec i s = .next (s.after v e (wentOn
      (if ventNarrow (s.fresh v e) then writeReg vt w
       else { vt with fl := { vt.fl with longs := vt.fl.longs ++ [{ writes := [w], flags := 0 }] } }) (opWords e)))) ∧
  (∀ (i : Instr) (k : OpKind) (v : Nat) (e : OpEnc) (s : State),
    opKindOf i = some (k, v, e) → k ∈ [OpKind.fdiv, .fsqrt] → Issues s v k e →
    let vt := s.fresh v e
    let x := fun (n : Nat) => vReg vt n % 2 ^ (fmtOf (fSZ e)).width
    let r := fpOp k (fmtOf (fSZ e)) (fctl vt) 0 (x (fA e)) (x (fB e))
    let w := fregW (fD e) r.1
    fpEnables vt &&& r.2 = 0 →
    exec i s = .next (s.after v e (wentOn
      (if ventNarrow vt ∨ fpEnables vt ≠ 0 then
        let y := writeReg vt w
        { y with vec := { y.vec with fpflags := y.vec.fpflags ||| BitVec.ofNat 32 r.2 } }
       else { vt with fl := { vt.fl with longs := vt.fl.longs ++ [{ writes := [w], flags := BitVec.ofNat 5 r.2 }] } }) 1)))

/-- R197, R198: LOOP writes LBEG, LEND and LCNT of its level, and with a count of zero the bundle at LEND is fetched,
once its port is free, and not executed: the one after it is next. A bundle at LEND of an active level, the highest that
matches, goes back to LBEG with the count decremented while
more than one pass remains, and ends the loop on the last pass. Rests on the model's choices of log entry 11. -/
def Obligations.zeroOverheadLoops : Prop :=
  (∀ (v : Nat) (e : OpEnc) (s : State), Issues s v .loop e →
    let vt := s.fresh v e
    let n := fld e 16 15
    let lbeg := vt.pc + BitVec.ofNat 32 (4 * fld e 31 23)
    let lend := vt.pc + BitVec.ofNat 32 (4 * fldH e 47 32)
    let cnt : Word := if fld e 22 22 = 1 then BitVec.ofNat 32 (fldH e 63 48) else regOf vt (fld e 21 17)
    let x : Vent := { vt with loop := { vt.loop with
      lbeg := fset n lbeg vt.loop.lbeg
      lend := fset n lend vt.loop.lend
      lcnt := fset n cnt vt.loop.lcnt } }
    (cnt ≠ 0 → exec (.loop v e) s = .next (s.after v e (wentOn x 2))) ∧
    (cnt = 0 →
      let len := bundleLen (s.found v e) v 8 lend.toNat 0
      let t := fetchBundle (s.after v e x) v lend.toNat len
      (fetchBlocked (s.found v e) v lend.toNat len = true → exec (.loop v e) s = .next s) ∧
      (fetchBlocked (s.found v e) v lend.toNat len = false → exec (.loop v e) s =
        .next (setVent t v (wentTo (applyShadow (ventAt t v)) (lend + BitVec.ofNat 32 (4 * len)).toNat))))) ∧
  (∀ (v n : Nat) (e : OpEnc) (s : State), Issues s v .nop e → n < 4 →
    let vt := s.fresh v e
    let l := vt.loop
    fget 0 l.lend n = vt.pc → fget 0 l.lcnt n ≠ 0 →
    (∀ m < 4, n < m → fget 0 l.lcnt m = 0 ∨ fget 0 l.lend m ≠ vt.pc) →
    let x : Vent := { applyShadow vt with loop := { l with lcnt := fset n (fget 0 l.lcnt n - 1) l.lcnt } }
    (fget 0 l.lcnt n ≠ 1 → exec (.nop v e) s = .next (s.after v e (wentTo x (fget 0 l.lbeg n).toNat))) ∧
    (fget 0 l.lcnt n = 1 → (∀ m < n, fget 0 l.lcnt m = 0 ∨ fget 0 l.lend m ≠ vt.pc) →
      exec (.nop v e) s = .next (s.after v e (wentTo x (vt.pc + 4).toNat))))

/-- R179, R180, R225, R238, R242, R244: MTS. A register other than STAT and the region table takes the value with its
reserved bits discarded; STAT and the region table wait in a mode shadow; a read-only register ignores the write. -/
def Obligations.systemRegisterWrites : Prop :=
  (∀ (v : Nat) (e : OpEnc) (s : State), Issues s v .mts e →
    let vt := s.fresh v e
    let n := fld e 31 22
    let w := regOf vt (fD e)
    ((sregLevels n).2 = 4 → exec (.mts v e) s = .next (s.after v e (wentOn vt 1))) ∧
    ((sregLevels n).2 ≤ ventLevel vt → 0 < n → n < 0x60 →
      exec (.mts v e) s = .next (s.after v e (wentOn (sregWrite (s.found v e) vt n w) 1))) ∧
    (ventLevel vt = 3 → n = 0 → exec (.mts v e) s = .next (s.after v e
      { wentOn vt 1 with
        shadowOpen := true
        shadowStat := some (statMts (applyShadow vt).stat w) })) ∧
    (ventLevel vt = 3 → 0x60 ≤ n → exec (.mts v e) s = .next (s.after v e
      { wentOn vt 1 with
        shadowOpen := true
        shadowRgn := [(n - 0x60, w)] }))) ∧
  (∀ (s : State) (vt : Vent) (n m : Nat) (w : Word), sregOk n = true → sregOk m = true → (sregLevels n).2 ≠ 4 → n ≠ 0 →
    n ≠ 0x0C → n < 0x60 → m ≠ 9 → m ≠ 0x0E →
    sregRead s (sregWrite s vt n w) m =
      if m ≠ n then sregRead s vt m else if n = 4 then min w.toNat (vlenb s) else if n = 0x24 then w.toNat % 256 ||| 1
      else (w &&& sregMask n).toNat) ∧
  (∀ (old w : Word), statMts old w = (old &&& 4) ||| (if w &&& 3 = 2 then old &&& 3 else w &&& 3) ||| (w &&& 0x78))

/-- R12, R179, R180, R235: MFS. HOLDCNT.COUNT of a running hold reads as some value from 1 to what was granted, and
TIMEBASE as a copy at most 4 ticks behind that never runs back, with its upper half latched. Rests on the model's choices
of log entries 13 and 48. -/
def Obligations.systemRegisterReads : Prop :=
  ∀ (v : Nat) (e : OpEnc) (s : State), Issues s v .mfs e →
    let vt := s.fresh v e
    let n := fld e 31 22
    let put := fun (x : Nat) => writeReg vt (.gpr (fD e) (BitVec.ofNat 32 x))
    (sregLevels n).1 ≤ ventLevel vt →
    (n ≠ 9 → n ≠ 0x0E → exec (.mfs v e) s = .next (s.after v e (wentOn (put (sregRead (s.found v e) vt n)) 1))) ∧
    (n = 9 → ∃ cnt : Nat, (vt.hold.count = 0 → cnt = 0) ∧ (vt.hold.count ≠ 0 → 1 ≤ cnt ∧ cnt ≤ vt.hold.count.toNat) ∧
      exec (.mfs v e) s = .next
        { s.after v e (wentOn (put (cnt + 4096 * vt.hold.budget.toNat + 2 ^ 24 * b2n vt.hold.ovr)) 1) with
          freeCtr := (s.found v e).freeCtr + 1 }) ∧
    (n = 0x0E → (calAt (s.found v e) (islandOf v)).tbCopy ≤ s.timebase →
      ∃ t : DWord, (calAt (s.found v e) (islandOf v)).tbCopy ≤ t ∧ t ≤ s.timebase ∧ s.timebase.toNat ≤ t.toNat + 4 ∧
        exec (.mfs v e) s = .next (setVent
          (updCal { s.found v e with freeCtr := (s.found v e).freeCtr + 1 } (islandOf v) (fun c => { c with tbCopy := t })) v
          (wentOn { put (t.toNat % 2 ^ 32) with tbLatch := BitVec.ofNat 32 (t.toNat / 2 ^ 32) } 1)))

/-- R224, R226 to R230, R232: entering a handler whose table lies in the vent's own palette. It is taken at S only where DELEG
names the cause and it was raised below M. The registers of that level receive the return address, STAT, the cause word and
FADDR; STAT takes the level and loses that level's interrupt enable; a machine check sets MCACT and NARROW, an NMI NMIACT;
issued loads land, the hold ends, and the pc is the table's word for the cause. Nothing else changes. Where that word cannot
be read, the handler of cause 49 is entered in its place, and the first is not under way (R238, R246). SYSCALL and BREAK
complete their bundle and enter the handler of cause 11 or 12 that way, with N recorded and the return address at the
next bundle. Rests on the model's choices of log entry 11. -/
def Obligations.trapsAndEntry : Prop :=
  (∀ (s : State) (v o : Nat) (ev : Event),
    let vt := ventAt s v
    let l := if ev.cause < 32 ∧ vt.deleg.getLsbD ev.cause = true ∧ ev.lvl ≠ 3 then 1 else 3
    let base := if l = 3 then vt.m.tbase else vt.s.tbase
    let regs : ExcRegs := { (if l = 3 then vt.m else vt.s) with
      rta := BitVec.ofNat 32 ev.rta &&& 0xFFFFFFFC
      sts := BitVec.ofNat 32 (statRead (landAll vt))
      cause := BitVec.ofNat 32 (ev.cause + 256 * b2n ev.async + 512 * ev.cls + 4096 * ev.idx + 65536 * ev.n)
      faddr := BitVec.ofNat 32 ev.faddr }
    let st : Word := if l = 3 then (vt.stat &&& 0xFFFFFFF4) ||| 3 else (vt.stat &&& 0xFFFFFFEC) ||| 1
    let a := (base.toNat + 4 * ev.cause) % 2 ^ 32
    ev.rta < 2 ^ 32 → ¬(ev.cause = 49 ∧ ev.mcact = true) → ventLoc vt v a = .pal o → badIn s (palBase v + o) 4 = false →
    ventEnter s v ev = setVent s v
      { landAll vt with
        pc := BitVec.ofNat 32 (leNat (memBytes s.mem (palBase v + o) 4)) &&& 0xFFFFFFFC
        m := if l = 3 then regs else vt.m
        s := if l = 3 then vt.s else regs
        stat := st ||| (if ev.cause = 49 then 0x24 else 0) ||| (if ev.cause = 51 then 0x40 else 0)
        hold := { vt.hold with
          count := 0
          budget := vt.hold.max }
        fl := { (landAll vt).fl with
          bundle := []
          handlers := ev.cause :: vt.fl.handlers } }) ∧
  (∀ (s : State) (v o p : Nat) (ev : Event),
    let vt := ventAt s v
    let base := if ev.cause < 32 ∧ vt.deleg.getLsbD ev.cause = true ∧ ev.lvl ≠ 3 then vt.s.tbase else vt.m.tbase
    let a := (base.toNat + 4 * ev.cause) % 2 ^ 32
    let t := ventAt (ventEnter s v ev) v
    ev.cause ≠ 49 → ventMcact vt = false → ventLoc vt v a = .pal o → badIn s (palBase v + o) 4 = true →
    ventLoc vt v ((vt.m.tbase.toNat + 4 * 49) % 2 ^ 32) = .pal p → badIn s (palBase v + p) 4 = false →
    t.fl.handlers = 49 :: vt.fl.handlers ∧ t.m.cause.toNat % 256 = 49 ∧ t.m.faddr = BitVec.ofNat 32 a ∧
    t.pc = BitVec.ofNat 32 (leNat (memBytes s.mem (palBase v + p) 4)) &&& 0xFFFFFFFC ∧ ventMcact t = true ∧ ventNarrow t = true) ∧
  (∀ (v : Nat) (e : OpEnc) (s : State),
    let vt := s.fresh v e
    let event := fun (cause : Nat) =>
      ({ cause := cause, cls := 2, n := fld e 28 17, faddr := vt.pc.toNat, rta := (wentOn vt 1).pc.toNat,
         lvl := ventLevel vt } : Event)
    (Issues s v .syscall e → HandlerReady (s.found v e) v 11 → exec (.syscall v e) s = .next (ended (ventEnter (s.after v e (wentOn vt 1)) v (event 11)) v)) ∧
    (Issues s v .brk e → HandlerReady (s.found v e) v 12 → exec (.brk v e) s = .next (ended (ventEnter (s.after v e (wentOn vt 1)) v (event 12)) v)))

/-- R231, R238, R244: RETM and RETS go to the saved address with STAT restored: RETM never enters Narrow mode and keeps LEVEL
where 2 was saved, RETS writes LEVEL and SIE alone and never returns above S. Both end a hold and the innermost handler,
which deferred faults of
loads that it found outstanding then wait for no longer (R246). GOBROAD clears NARROW in a
mode shadow. Rests on the model's choices of log entry 11. -/
def Obligations.handlerReturns : Prop :=
  ∀ (v : Nat) (e : OpEnc) (s : State),
    let vt := applyShadow (s.fresh v e)
    let back := fun (st : Word) =>
      ({ vt with
          stat := st ||| (if v = mvNum then 4 else 0)
          hold := { vt.hold with
            count := 0
            budget := vt.hold.max }
          fl := { vt.fl with
            handlers := vt.fl.handlers.tail
            far := vt.fl.far.map (fun l => { l with depth := min l.depth (vt.fl.handlers.length - 1) })
            deferq := vt.fl.deferq.map (fun d => { d with wait := match d.wait with
              | some n => if vt.fl.handlers.length - 1 ≤ n then none else some n
              | none => none }) } } : Vent)
    let sm := vt.m.sts
    let ss := vt.s.sts
    (Issues s v .retm e → ventLevel (s.fresh v e) = 3 → exec (.retm v e) s = .next (s.after v e
      (wentTo (back ((if sm &&& 3 = 2 then vt.stat &&& 3 else sm &&& 3) ||| (vt.stat &&& sm &&& 4) ||| (sm &&& 0x78)))
        vt.m.rta.toNat))) ∧
    (Issues s v .rets e → ventLevel (s.fresh v e) ≠ 0 → exec (.rets v e) s = .next (s.after v e
      (wentTo (back ((vt.stat &&& 0xFFFFFFEC) ||| (if ss &&& 3 = 0 then 0 else 1) ||| (ss &&& 0x10))) vt.s.rta.toNat))) ∧
    (Issues s v .gobroad e → ventLevel (s.fresh v e) = 3 → exec (.gobroad v e) s = .next (s.after v e
      { wentOn (s.fresh v e) 1 with
        shadowOpen := true
        shadowStat := some (vt.stat &&& 0xFFFFFFFB) }))

/-- R162, R169, R174, R188, R235, R236, R238: HOLD is granted the smaller of N and the budget, and records an overrun
where that is less than N. BARRIER and FENCE complete when nothing is outstanding that they wait for, and wait otherwise;
where DEFERQ holds an entry then, the BARRIER bundle raises cause 10 with the oldest entry's address, and does nothing else.
ISYNC empties the line buffer, and ICINV drops from the I-cache the lines that its range reaches. NOP has no effect.
Rests on the model's choices of log entry 3. -/
def Obligations.holdAndBarriers : Prop :=
  ∀ (v : Nat) (e : OpEnc) (s : State),
    let vt := s.fresh v e
    let g := min (fld e 28 17) vt.hold.budget.toNat
    let held : Vent := { vt with hold := { vt.hold with
      count := BitVec.ofNat 12 g
      budget := vt.hold.budget - BitVec.ofNat 12 g
      ovr := vt.hold.ovr || decide (g < fld e 28 17)
      haddr := if g < fld e 28 17 then vt.pc else vt.hold.haddr } }
    let done : State := s.after v e (wentOn vt 1)
    let quiet : Prop := vt.fl.far = [] ∧ vt.fl.longs = [] ∧ vt.fl.sbuf = [] ∧ vt.fl.farWrites = []
    (Issues s v .hold e → ventLevel vt ≠ 0 → exec (.hold v e) s = .next (s.after v e (wentOn held 1))) ∧
    (Issues s v .barrier e → quiet → vt.fl.deferq = [] → exec (.barrier v e) s = .next done) ∧
    (Issues s v .barrier e → ¬quiet → exec (.barrier v e) s = .next s) ∧
    (Issues s v .fence e → exec (.fence v e) s = .next (if vt.fl.sbuf = [] then done else s)) ∧
    (Issues s v .barrier e → quiet → vt.fl.deferq ≠ [] → HandlerReady (s.found v e) v 10 →
      exec (.barrier v e) s = .next (raisedAt s v e 10 (vt.fl.deferq.headD {}).addr.toNat)) ∧
    (Issues s v .isync e → exec (.isync v e) s = .next (s.after v e (wentOn { vt with fl := { vt.fl with lbuf := [] } } 1))) ∧
    (Issues s v .icinv e →
      let hit := fun (l : ILine) => (codeBlocks vt v (regOf vt (fA e)).toNat (regOf vt (fB e)).toNat).contains l.block
      exec (.icinv v e) s = .next (s.after v e (wentOn { vt with fl := { vt.fl with
        icache := vt.fl.icache.filter (fun l => !hit l) } } 1))) ∧
    (Issues s v .nop e → exec (.nop v e) s = .next done)

/-- R145, R157, R162, R166 to R168, R177, R188, R237, R261: LD, LDS and LDF. An immediate is written at once. A load that finds
its bytes in the vent's own memory (palette, or caldera memory with the store buffer) is written two or five bundles later in
Broad mode and at once in Narrow mode. One that must go to the matrix is outstanding in Broad mode, with no more than 64
transactions on its port; in Narrow mode it is answered before the bundle completes, and a failure writes nothing but its
entry in DEFERQ and raises cause 10 with the oldest entry's address. One that overlaps part of a store buffer entry waits.
Rests on the model's choices of log entries 3, 10, 11 and 53. -/
def Obligations.scalarLoads : Prop :=
  ∀ (i : Instr) (k : OpKind) (v : Nat) (e : OpEnc) (s : State) (sp : Nat),
    opKindOf i = some (k, v, e) → k ∈ [OpKind.ld, .lds, .ldf] → Issues s v k e → opA k e = .spec sp →
    let vt := s.fresh v e
    let c := s.ctx v e
    let sz := 2 ^ fSZ e
    let dest : FarDest := if k = .ldf then .freg (fD e) sz else .gpr (fD e) sz (k == .lds)
    let put := fun (x : Nat) =>
      if k = .ldf then fregW (fD e) x
      else .gpr (fD e) (if k = .lds then BitVec.ofInt 32 (sgn (8 * sz) x) else BitVec.ofNat 32 x)
    (spMode sp = 8 → exec i s = .next (s.after v e (wentOn (writeReg vt (put (unsgn (8 * sz) (spImm sp)))) 2))) ∧
    (spMode sp ≠ 8 → ∀ (a : Nat) (us : List RegW), specAddr vt sp sz sz sz = (a, us, []) → accFaults c .rd a sz false = [] →
      let q : LPart := { va := a, len := sz }
      let sb := loadBuffer c [q]
      let x := writeRegs us vt
      (sb.2 = true → exec i s = .next s) ∧
      (∀ bs, sb.2 = false → partLoad c sb.1 q = .got bs →
        exec i s = .next (s.after v e (wentOn
          (if (ventLoc vt v a).isLocal = false ∨ ventNarrow vt = true then writeReg x (put (leNat bs))
           else { x with fl := { x.fl with loads := x.fl.loads ++
             [{ due := x.fl.bno + (if a < 0x40000 then 2 else 5), writes := [put (leNat bs)] }] } }) 2))) ∧
      (∀ p, sb.2 = false → partLoad c sb.1 q = .out p →
        let l : FarLoad := { dest := dest, pieces := [p], level := BitVec.ofNat 2 (ventLevel vt), seq := vt.fl.seq,
                             depth := vt.fl.handlers.length }
        let r := farPiece (s.found v e) v p
        (64 ≤ portOut (s.found v e) v → exec i s = .next s) ∧
        (portOut (s.found v e) v < 64 → ventNarrow vt = false →
          exec i s = .next (s.after v e (wentOn { x with fl := { x.fl with far := x.fl.far ++ [l] } } 2))) ∧
        (portOut (s.found v e) v < 64 → ventNarrow vt = true → vt.fl.sbuf = [] → farBlocked (s.found v e) v l = false →
          (r.1 = .okay → r.2.1.length = sz → exec i s = .next (setVent r.2.2 v
            (wentFrom (writeReg (writeRegs us (ventAt r.2.2 v)) (put (leNat r.2.1))) vt.pc.toNat 2))) ∧
          (r.1 ≠ .okay → HandlerReady (s.found v e) v 10 →
            let y := deferAdd (applyShadow (ventAt r.2.2 v)) (loadDefer vt.fl.handlers.length l p r.1)
            exec i s = .next (ended (ventEnter
              (setVent r.2.2 v { y with fl := { y.fl with
                bundle := []
                narrowFault := false } }) v
              { cause := 10, cls := e.cls.toNat, faddr := (y.fl.deferq.headD {}).addr.toNat,
                rta := (ventAt r.2.2 v).pc.toNat, lvl := ventLevel vt, mcact := ventMcact (ventAt r.2.2 v) }) v))))) ∧
    (∀ a o, ventLoc vt v a = .pal o → loadBuffer c [{ va := a, len := sz }] = (none, false) ∧
      partLoad c none { va := a, len := sz } = .got (memBytes (s.found v e).mem (palBase v + o) sz)) ∧
    (∀ a o, ventLoc vt v a = .cal o → vt.fl.sbuf = [] → loadBuffer c [{ va := a, len := sz }] = (none, false) ∧
      partLoad c none { va := a, len := sz } = .got (memBytes (s.found v e).mem (calBase (v / 8) + o) sz))

/-- R162, R167, R168, R188, R261: VLDL loads an aligned block of 64 bytes: 64 bytes of Vd, or Vd then Vd + 1 where VLENB is
32. A block of the palette is written two bundles later and one of caldera memory five, at once in Narrow mode; a block that
the D-cache or the store buffer holds of a far window is written at once; one that must go to the matrix is outstanding in
Broad mode, as one access of 64 bytes; in Narrow mode it is answered before the bundle completes, and a failure writes nothing
but its entry in DEFERQ and raises cause 10 (R145, R237). One that an entry of the store buffer holds in part waits.
Rests on the model's choices of log entries 3, 11 and 53. -/
def Obligations.blockLoads : Prop :=
  ∀ (v : Nat) (e : OpEnc) (s : State) (sp a : Nat) (us : List RegW),
    Issues s v .vldl e → opA .vldl e = .spec sp → spMode sp ≠ 8 →
    let vt := s.fresh v e
    let c := s.ctx v e
    let d := fD e
    let whole : BitVec 512 := BitVec.allOnes 512
    let half : BitVec 512 := BitVec.ofNat 512 (2 ^ 256 - 1)
    let q : LPart := { va := a, len := 64 }
    let sb := loadBuffer c [q]
    let x := writeRegs us vt
    let done := fun (y : Vent) => exec (.vldl v e) s = .next (s.after v e (wentOn y 2))
    let put := fun (b1 b2 : List Byte) =>
      if vlenb s = 64 then [RegW.vreg d (BitVec.ofNat 512 (leNat (b1 ++ b2))) whole]
      else [.vreg d (BitVec.ofNat 512 (leNat b1)) half, .vreg (d + 1) (BitVec.ofNat 512 (leNat b2)) half]
    specAddr vt sp 64 64 64 = (a, us, []) → blockFaults c .rd a = [] →
    (sb.2 = true → exec (.vldl v e) s = .next s) ∧
    (∀ b1 b2 : List Byte, b1.length = 32 → b2.length = 32 → sb.2 = false → partLoad c sb.1 q = .got (b1 ++ b2) →
      let ws := put b1 b2
      done (if (ventLoc vt v a).isLocal = false ∨ ventNarrow vt = true then writeRegs ws x
        else { x with fl := { x.fl with loads := x.fl.loads ++
          [{ due := x.fl.bno + (if a < 0x40000 then 2 else 5), writes := ws }] } })) ∧
    (∀ p, sb.2 = false → partLoad c sb.1 q = .out p →
      let l : FarLoad := { dest := .vreg d, pieces := [p], level := BitVec.ofNat 2 (ventLevel vt), seq := vt.fl.seq,
                           depth := vt.fl.handlers.length }
      let r := farPiece (s.found v e) v p
      let u := ventAt r.2.2 v
      p.len = 64 ∧
      (64 ≤ portOut (s.found v e) v → exec (.vldl v e) s = .next s) ∧
      (portOut (s.found v e) v < 64 → ventNarrow vt = false → done { x with fl := { x.fl with far := x.fl.far ++ [l] } }) ∧
      (portOut (s.found v e) v < 64 → ventNarrow vt = true → vt.fl.sbuf = [] → farBlocked (s.found v e) v l = false →
        (∀ b1 b2, b1.length = 32 → b2.length = 32 → r.1 = .okay → r.2.1 = b1 ++ b2 → exec (.vldl v e) s = .next
          (setVent r.2.2 v (wentFrom (writeRegs (put b1 b2) (writeRegs us u)) vt.pc.toNat 2))) ∧
        (r.1 ≠ .okay → HandlerReady (s.found v e) v 10 →
          let y := deferAdd (applyShadow u) (loadDefer vt.fl.handlers.length l p r.1)
          exec (.vldl v e) s = .next (ended (ventEnter
            (setVent r.2.2 v { y with fl := { y.fl with
              bundle := []
              narrowFault := false } }) v
            { cause := 10, cls := e.cls.toNat, faddr := (y.fl.deferq.headD {}).addr.toNat,
              rta := u.pc.toNat, lvl := ventLevel vt, mcact := ventMcact u }) v)))) ∧
    (∀ o, ventLoc vt v a = .cal o → vt.fl.sbuf = [] → sb = (none, false) ∧
      partLoad c none q = .got (memBytes (s.found v e).mem (calBase (v / 8) + o) 64))

/-- R144, R166, R168, R188: ST, STF and VSTL. A palette store writes memory at once and nothing else of it, and outstanding far
loads keep what they read there; any other takes its
place in the store buffer, and waits where all eight entries are in use; a VSTL to VJOB submits an LCE job once the store
buffer is empty. Rests on the model's choices of log entries 3 and 53. -/
def Obligations.storesAndJobs : Prop :=
  ∀ (i : Instr) (k : OpKind) (v : Nat) (e : OpEnc) (s : State) (sp a : Nat) (us : List RegW),
    opKindOf i = some (k, v, e) → k ∈ [OpKind.st, .stf, .vstl] → Issues s v k e → opD k e = .spec sp →
    let vt := s.fresh v e
    let sz := if k = .vstl then 64 else 2 ^ fSZ e
    let reg := fun (n : Nat) => (fget 0 vt.vec.v n).toNat
    let bs : List Byte :=
      if k = .st then leBytes sz (regOf vt (fD e)).toNat
      else if k = .stf then leBytes sz (reg (fD e))
      else if vlenb s = 64 then leBytes 64 (reg (fD e)) else leBytes 32 (reg (fD e)) ++ leBytes 32 (reg (fD e + 1))
    let x := writeRegs us vt
    specAddr vt sp sz sz sz = (a, us, []) → accFaults (s.ctx v e) .wr a sz false = [] →
    (∀ o, ventLoc vt v a = .pal o →
      let w := addrBytes (palBase v + o) bs
      let t := setVent (putDie (s.found v e) w) v (wentOn (kept (s.found v e) w x) 2)
      exec i s = .next t ∧ memBytes t.mem (palBase v + o) sz = bs ∧
      ∀ y, y < palBase v + o ∨ palBase v + o + sz ≤ y → memGet t.mem y = memGet (s.found v e).mem y) ∧
    ((∀ o, ventLoc vt v a ≠ .pal o) → (∀ m, k = .vstl → ventLoc vt v a ≠ .dev m) → ventLoc vt v a ≠ .none →
      let sb := sbPush vt.fl.far vt.fl.sbuf (entryFor (s.ctx v e) (ventLoc vt v a) a (localAddr v (ventLoc vt v a)) bs)
      exec i s = .next (if sb.length ≤ max 8 vt.fl.sbuf.length then
        s.after v e (wentOn { x with fl := { x.fl with sbuf := sb } } 2) else s)) ∧
    (k = .vstl → ventLoc vt v a = .dev (0x90000000 + v / 8 * 0x100000 + v % 8 * 0x1000 + 0x40) →
      exec i s = .next (if vt.fl.sbuf = [] then setVent (submitJob (s.found v e) v bs) v (wentOn x 2) else s))

/-- R170, R171, R188, R261, R264: PREF brings in a line that an address of a cacheable far window names and the cache
lacks, and has
no other effect but the update of An, which a circular buffer that is none leaves out, without a fault (log entry 11);
DCINV drops the lines of its range; DCFLUSH writes the dirty ones back as well. PREF and DCFLUSH wait for a
locked port that they need, and for room among the 64 transactions of their own. Rests on the model's choices of log
entries 3 and 4. -/
def Obligations.cacheOperations : Prop :=
  (∀ (v : Nat) (e : OpEnc) (s : State) (sp a : Nat) (us : List RegW), Issues s v .pref e → opA .pref e = .spec sp →
    spMode sp ≠ 8 → specAddr (s.fresh v e) sp (2 ^ fSZ e) (2 ^ fSZ e) (2 ^ fSZ e) = (a, us, []) →
    let vt := s.fresh v e
    let x := writeRegs us vt
    let idle := s.after v e (wentOn x 2)
    ((∀ m, ventLoc vt v a ≠ .far m true) → exec (.pref v e) s = .next idle) ∧
    (∀ m, ventLoc vt v a = .far m true →
      let b := m / 64 * 64
      let r := matRead (ventMaster v) b 64 (s.after v e x)
      let held := vt.fl.dcache.any (fun l => l.block == b)
      let locked := matLocked (ventMaster v) b (s.found v e) || evictBlocked (s.found v e) v m ||
        decide (64 ≤ portOut (s.found v e) v)
      (held = true → exec (.pref v e) s = .next idle) ∧
      (held = false → locked = true → exec (.pref v e) s = .next s) ∧
      (held = false → locked = false → r.1 ≠ .okay → exec (.pref v e) s = .next idle) ∧
      (held = false → locked = false → r.1 = .okay →
        let t := dcAlloc r.2.2 v b r.2.1
        exec (.pref v e) s = .next (setVent t v (wentFrom (ventAt t v) vt.pc.toNat 2))))) ∧
  (∀ (v : Nat) (e : OpEnc) (s : State) (sp : Nat), Issues s v .pref e → opA .pref e = .spec sp →
    spMode sp = 8 ∨ (specAddr (s.fresh v e) sp (2 ^ fSZ e) (2 ^ fSZ e) (2 ^ fSZ e)).2.2 ≠ [] →
    exec (.pref v e) s = .next (s.after v e (wentOn (s.fresh v e) 2))) ∧
  (∀ (v : Nat) (e : OpEnc) (s : State),
    let vt := s.fresh v e
    let hit := fun (l : DLine) => (rangeBlocks vt (regOf vt (fA e)).toNat (regOf vt (fB e)).toNat).contains l.block
    let gone : Vent := { vt with fl := { vt.fl with dcache := vt.fl.dcache.filter (fun l => !hit l) } }
    let stuck := fun (l : DLine) => matLocked (ventMaster v) l.block (s.found v e) = true ∨ 64 ≤ portOut (s.found v e) v
    (Issues s v .dcinv e → dcinvFaults (s.ctx v e) (regOf vt (fA e)).toNat (regOf vt (fB e)).toNat = [] →
      exec (.dcinv v e) s = .next (s.after v e (wentOn gone 1))) ∧
    (Issues s v .dcflush e → (∃ l ∈ vt.fl.dcache, hit l = true ∧ l.dirty = true ∧ stuck l) →
      exec (.dcflush v e) s = .next s) ∧
    (Issues s v .dcflush e → (∀ l ∈ vt.fl.dcache, hit l = true → l.dirty = true → ¬stuck l) →
      let t := (vt.fl.dcache.filter (fun l => hit l && l.dirty)).foldl
        (fun s l => matPut (ventMaster v) (addrBytes l.block (leBytes 64 l.data.toNat)) s) (s.after v e gone)
      exec (.dcflush v e) s = .next (setVent t v (wentFrom (ventAt t v) vt.pc.toNat 1))))

/-- R144, R162, R166, R167, R206, R208 to R211: VLD and VST of active elements from VRES on, with no element refused. VST
writes each active element of the palette and no other byte; elsewhere each takes its place in the store buffer, and the
bundle waits where that needs more than eight entries. VLD from the palette or caldera memory is written at the load delay
(at once in Narrow mode), an active element taking its bytes and every other keeping its value; one whose bytes an entry of
the store buffer holds in part waits; one that must go to the matrix is outstanding in Broad mode. VRES becomes 0, and the
address register is updated whatever the mask. An immediate VLD writes its value at once. Where element r is the first that
is refused, the active elements before it have been stored or loaded, VRES holds r, the address register is as before,
and the cause
is raised with FADDR at the element's lowest refused address. Rests on the model's choices of log entries 3 and 53. -/
def Obligations.vectorMemory : Prop :=
  ∀ (k : OpKind) (i : Instr) (v : Nat) (e : OpEnc) (s : State), opKindOf i = some (k, v, e) → k ∈ [OpKind.vld, .vst] →
    Issues s v k e →
    let vt := s.fresh v e
    let c := s.ctx v e
    let s1 := s.found v e
    let es := 2 ^ fSZ e
    let n := vt.vec.vl.toNat / es
    let live := fun (j : Nat) => decide (vt.vec.vres.toNat ≤ j) && decide (j < n) && nbit (kReg vt (fKM e)) j
    let acts := (List.range n).filter live
    let reg := (fget 0 vt.vec.v (fD e)).toNat
    let cleared := fun (x : Vent) => ({ x with vec := { x.vec with vres := 0 } } : Vent)
    vt.vec.vl.toNat ≤ vlenb s →
    (k = .vld → spMode (fIMM e) = 8 → ∃ val : BitVec 512,
      exec i s = .next (s.after v e (wentOn (cleared { vt with vec := { vt.vec with v := fset (fD e) val vt.vec.v } }) 2)) ∧
      ∀ j < 64 / es, elemAt val.toNat (8 * es) j =
        if live j then unsgn (8 * es) (spImm (fIMM e)) else elemAt reg (8 * es) j) ∧
    (∀ (a : Nat) (us : List RegW), spMode (fIMM e) ≠ 8 → specAddr vt (fIMM e) (n * es) (vlenb s) 64 = (a, us, []) →
      let faults := vmemFaults c (vmemOf c k e)
      let x := writeRegs us vt
      let bytes := fun (j : Nat) => leBytes es (elemAt reg (8 * es) j)
      let own := ownAddr v a
      let parts := acts.flatMap (fun j => (blocksOf 3 (a + j * es) es).map (fun p =>
        ({ va := p.1 % 2 ^ 32, len := p.2, dst := j * es + (p.1 - (a + j * es)), elem := j } : LPart)))
      let sb := loadBuffer c parts
      -- what the writes of the elements below m do to a vent's registers, and where they go at once
      let loads := fun (m : Nat) (ws : List RegW) => ∀ x : Vent, x.badRegs = [] → ∃ val : BitVec 512,
        writeRegs ws x = { x with vec := { x.vec with v := fset (fD e) val x.vec.v } } ∧
        ∀ j < vlenb s / es, elemAt val.toNat (8 * es) j =
          if live j && decide (j < m) then leNat (memBytes s1.mem (own + j * es) es)
          else elemAt (fget 0 x.vec.v (fD e)).toNat (8 * es) j
      let landed := fun (ws : List RegW) (x : Vent) =>
        if ventNarrow vt then writeRegs ws x
        else { x with fl := { x.fl with loads := x.fl.loads ++
          [{ due := x.fl.bno + (if a < 0x40000 then 2 else 5) + (if a % vlenb s = 0 then 0 else 1), writes := ws }] } }
      ((∀ j < n, vt.vec.vres.toNat ≤ j → faults j = []) →
        (k = .vst → a + n * es ≤ 0x40000 → v ≠ mvNum → ∃ t far, exec i s = .next t ∧
          t = { s.after v e (wentOn { cleared x with fl := { x.fl with far := far } } 2) with
            mem := t.mem
            hbm := { s1.hbm with badWords := t.hbm.badWords } } ∧
          (vt.fl.far = [] → far = []) ∧
          (∀ j, live j = true → leNat (memBytes t.mem (own + j * es) es) = elemAt reg (8 * es) j) ∧
          (∀ y, (∀ j, live j = true → ¬(own + j * es ≤ y ∧ y < own + (j + 1) * es)) → memGet t.mem y = memGet s1.mem y)) ∧
        (k = .vst → (∀ j < n, ∀ b < es, ∀ o, ventLoc vt v ((a + j * es + b) % 2 ^ 32) ≠ .pal o) →
          let sb := sbAfter vt.fl.far vt.fl.sbuf (acts.flatMap (fun j => storeAt c ((a + j * es) % 2 ^ 32) (bytes j)))
          exec i s = .next (if sb.length ≤ max 8 vt.fl.sbuf.length then
            s.after v e (wentOn { cleared x with fl := { x.fl with sbuf := sb } } 2) else s)) ∧
        (k = .vld → acts ≠ [] → sb.2 = true → exec i s = .next s) ∧
        (k = .vld → acts ≠ [] → Own v a (n * es) → a + n * es ≤ 0x40000 ∨ vt.fl.sbuf = [] → ∃ ws : List RegW,
          loads n ws ∧ exec i s = .next (s.after v e (wentOn (cleared (writeRegs us (landed ws vt))) 2))) ∧
        (k = .vld → acts ≠ [] → sb.2 = false → ventNarrow vt = false → ∀ ps : List FarPiece,
          parts.map (partLoad c sb.1) = ps.map PartLoad.out →
          let bursts := (ps.map (fun p => p.maddr / 64)).eraseDups.length
          (64 < portOut s1 v + bursts → exec i s = .next s) ∧
          (portOut s1 v + bursts ≤ 64 → exec i s = .next (s.after v e (wentOn (cleared { x with fl := { x.fl with
            far := x.fl.far ++ [{ dest := .vreg (fD e), pieces := ps, level := BitVec.ofNat 2 (ventLevel vt),
                                  seq := vt.fl.seq, depth := vt.fl.handlers.length }] } }) 2)))) ∧
        (k = .vld → acts = [] → exec i s = .next (s.after v e (wentOn (cleared x) 2)))) ∧
      (∀ (r : Nat) (f : VFault), vt.vec.vres.toNat ≤ r → r < n → (∀ j < r, vt.vec.vres.toNat ≤ j → faults j = []) →
        (∃ l fs, faults r = l ++ f :: fs ∧ (∀ g ∈ l, f.rank < g.rank) ∧ ∀ g ∈ fs, f.rank ≤ g.rank) →
        f.cause ≠ 49 → f.cause ≠ 10 → HandlerReady s1 v f.cause →
        let stays := fun (y : Vent) => ({ y with vec := { y.vec with vres := BitVec.ofNat 32 r } } : Vent)
        let raises := fun (t : State) => exec i s = .next (raisedIn t v e.cls.toNat 0 f.cause f.faddr)
        (k = .vst → a + r * es ≤ 0x40000 → v ≠ mvNum → ∃ t far, raises t ∧
          t = { s.after v e (stays { vt with fl := { vt.fl with far := far } }) with
            mem := t.mem
            hbm := { s1.hbm with badWords := t.hbm.badWords } } ∧
          (vt.fl.far = [] → far = []) ∧
          (∀ j < r, live j = true → leNat (memBytes t.mem (own + j * es) es) = elemAt reg (8 * es) j) ∧
          (∀ y, (∀ j < r, live j = true → ¬(own + j * es ≤ y ∧ y < own + (j + 1) * es)) → memGet t.mem y = memGet s1.mem y)) ∧
        (k = .vld → Own v a (r * es) → a + r * es ≤ 0x40000 ∨ vt.fl.sbuf = [] →
          (acts.filter (· < r) = [] → raises (s.after v e (stays vt))) ∧
          (acts.filter (· < r) ≠ [] → ∃ ws : List RegW, loads r ws ∧ raises (s.after v e (stays (landed ws vt)))))))

/-- R193 to R196, R165, R249: the string operations. An address that is no multiple of the element size at the start raises
cause 5 with nothing done. Otherwise, with the operands in the vent's palette or caldera memory and the store buffer empty: MOVS
copies one element at a time in ascending order, whatever the overlap. With no element refused and no event to stop it,
an operation does all its elements. An asynchronous event that
is due stops it at a multiple of 4 bytes, and so does the first element that is refused: the elements before that boundary
are done, the count and the addresses have moved on by them, and the pc stays at the bundle, which is executed again; where
no element is before that boundary, the refused element's cause is raised with nothing done. Rests on the model's choices
of log entry 44. -/
def Obligations.stringOperations : Prop :=
  ∀ (i : Instr) (k : OpKind) (v : Nat) (e : OpEnc) (s : State), opKindOf i = some (k, v, e) →
    k ∈ [OpKind.movs, .fils, .cmps, .scnsEq, .scnsNe] → Issues s v k e →
    let vt := s.fresh v e
    let s1 := s.found v e
    let sz := 2 ^ fSZ e
    let cn := 24 + fld e 18 17
    let rd := fld e 22 19
    let ra := fld e 26 23
    let c := (regOf vt cn).toNat
    let d := (regOf vt rd).toNat
    let a := (regOf vt ra).toNat
    let two := k = .movs ∨ k = .cmps
    let stores := k = .movs ∨ k = .fils
    let at_ := fun (m : List Host.Cell) (x : Nat) => leNat (memBytes m (ownAddr v x) sz)
    let val := a % 2 ^ (8 * sz)
    let regs := fun (n : Nat) => writeRegs ([.gpr cn (BitVec.ofNat 32 (c - n)), .gpr rd (BitVec.ofNat 32 (d + n * sz))] ++
      (if two then [.gpr ra (BitVec.ofNat 32 (a + n * sz))] else [])) vt
    let hit := fun (j : Nat) =>
      if k = .cmps then at_ s1.mem (d + j * sz) ≠ at_ s1.mem (a + j * sz)
      else if k = .scnsEq then at_ s1.mem (d + j * sz) = val else at_ s1.mem (d + j * sz) ≠ val
    let refused := elemFaults (s.ctx v e) k sz d a
    let skewed := d % sz ≠ 0 ∨ two ∧ a % sz ≠ 0
    -- the source element that element j of a copy ends up with: a copy that overlaps what it has yet to read repeats itself
    let from_ := fun (j : Nat) => if d ≤ a then j else j % ((d - a) / sz)
    -- n elements of a copy or fill are made in memory, and the vent is y but for what its outstanding far loads keep
    let made := fun (n : Nat) (y : Vent) (t : State) =>
      t = { s.after v e (kept s1 (addrBytes (ownAddr v d) (zeros (n * sz))) y) with
        mem := t.mem
        hbm := { s1.hbm with badWords := t.hbm.badWords } } ∧
      (∀ j < n, at_ t.mem (d + j * sz) = if k = .movs then at_ s1.mem (a + from_ j * sz) else val) ∧
      (∀ y, y < ownAddr v d ∨ ownAddr v d + n * sz ≤ y → memGet t.mem y = memGet s1.mem y)
    let stopped := fun (n : Nat) =>
      let x := applyShadow (regs n)
      ({ x with
        single := false
        fl := { x.fl with bundle := [] } } : Vent)
    let step := if sz = 4 then 1 else 4 / sz
    (skewed → HandlerReady s1 v 5 → exec i s = .next (raisedAt s v e 5 (if d % sz ≠ 0 then d else a))) ∧
    (¬skewed → vt.fl.sbuf = [] → Own v d (c * sz) → (two → Own v a (c * sz)) →
    (stopOf i = none → (∀ j < c, refused j = []) →
      (stores → ∃ t, exec i s = .next t ∧ made c (wentOn (regs c) 1) t) ∧
      (¬stores → ∃ n ≤ c, (∀ j < n, ¬hit j) ∧ (n < c → hit n) ∧
        exec i s = .next (s.after v e (wentOn
          (writeReg (regs n) (.pred (fld e 29 27) (if k = .cmps then n == c else n != c))) 1)))) ∧
    (∀ m, stopOf i = some m → asyncWaits (s.ctx v e) = true → m % step = 0 → m < c → (∀ j < c, refused j = []) →
      (stores → ∃ t, exec i s = .next t ∧ made m (stopped m) t) ∧
      (¬stores → (∀ j < m, ¬hit j) → exec i s = .next (s.after v e (stopped m)))) ∧
    (∀ r f, stopOf i = none → r < c → (∀ j < r, refused j = []) → (∃ fs, refused r = f :: fs ∧ ∀ g ∈ fs, f.rank ≤ g.rank) →
      f.cause ≠ 49 → f.cause ≠ 10 → HandlerReady s1 v f.cause →
      let m := r / step * step
      (m = 0 → stores ∨ (∀ j < r, ¬hit j) → exec i s = .next (raisedAt s v e f.cause f.faddr)) ∧
      (m ≠ 0 → (stores → ∃ t, exec i s = .next t ∧ made m (stopped m) t) ∧
        (¬stores → (∀ j < r, ¬hit j) → exec i s = .next (s.after v e (stopped m))))))

/-- R165, R222, R223, R234, R249: VKECCAK and VNTT on a palette operand. From the step that LPROG names for the operation,
otherwise from step 0, the remaining rounds or layers are applied, LPROG becomes 0 and only the operand's bytes change. Where
an asynchronous event is due and stops it after step t, the operand holds the steps before t, LPROG names the operation and t,
and the pc stays at the bundle, to which the event's handler, entered next unless a shadow is open, returns. Applying the
steps in two parts, as such a stop does, gives the same result as applying them at once. Rests on the model's choices of
log entry 44. -/
def Obligations.keccakAndNtt : Prop :=
  (∀ (i : Instr) (k : OpKind) (v o : Nat) (e : OpEnc) (s : State), opKindOf i = some (k, v, e) →
    k ∈ [OpKind.vkeccak, .vntt] → Issues s v k e →
    let vt := s.fresh v e
    let s1 := s.found v e
    let a := (regOf vt (fA e)).toNat
    let inv := decide (fSUB e = 1)
    let n := if k = .vkeccak then 200 else 512
    let op := if k = .vkeccak then 1 else if inv then 3 else 2
    let last := if k = .vkeccak then 24 else 7
    let lp := vt.vec.lprog.toNat
    let start := if lp / 32 % 4 = op ∧ lp % 32 < last then lp % 32 else 0
    palOperand (s.ctx v e) a n (if k = .vkeccak then 8 else 64) = [] → ventLoc vt v a = .pal o →
    let old := memBytes s1.mem (palBase v + a) n
    let new := fun (upto : Nat) =>
      if k = .vkeccak then keccakBytes (keccakRounds (upto - start) start (keccakLanes old))
      else nttWrite (nttLayers inv (upto - start) start (nttRead old))
    let write := fun (bs : List Byte) => addrBytes (palBase v + a) bs
    (stopOf i = none → exec i s = .next (setVent (putDie s1 (write (new last))) v (wentOn
      { kept s1 (write (new last)) vt with vec := { vt.vec with lprog := 0 } } (opWords e)))) ∧
    (∀ t, stopOf i = some t → asyncWaits (s.ctx v e) = true → start ≤ t → t < last →
      let bs := if t = start then old else new t
      let x := applyShadow { kept s1 (write bs) vt with vec := { vt.vec with lprog := BitVec.ofNat 32 (t + 32 * op) } }
      let s2 := setVent (putDie s1 (write bs)) v { x with
        single := false
        fl := { x.fl with bundle := [] } }
      exec i s = .next s2 ∧ (ventAt s2 v).pc = vt.pc ∧
      ∀ cause fa, nextAsync s2 v = some (cause, fa) → HandlerReady s2 v cause → exec (.asyncEntry v) s2 = .next
        (ventEnter (setVent s2 v (asyncTaken (ventAt s2 v) cause)) v
          { cause := cause, async := true, faddr := fa, rta := vt.pc.toNat, lvl := ventLevel (ventAt s2 v),
            mcact := ventMcact (ventAt s2 v) }))) ∧
  (∀ (x : List Byte) (j : Nat), x.length = 200 → j ≤ 24 →
    keccakRounds (24 - j) j (keccakLanes (keccakBytes (keccakRounds j 0 (keccakLanes x)))) =
      keccakRounds 24 0 (keccakLanes x)) ∧
  (∀ (x : List Byte) (j : Nat) (inv : Bool), x.length = 512 → 0 < j → j ≤ 7 →
    nttWrite (nttLayers inv (7 - j) j (nttRead (nttWrite (nttLayers inv j 0 (nttRead x))))) =
      nttWrite (nttLayers inv 7 0 (nttRead x)))

/-- R203, R204, R206, R212 to R214: the elementwise integer and fixed-point operations. Each active element takes its
result, every other element keeps its value, and SAT is set where some element was clamped; and what the rounding shift
r(x, m) of an exact integer is under each rounding mode FXRM. -/
def Obligations.vectorElements : Prop :=
  (∀ (i : Instr) (k : OpKind) (v : Nat) (e : OpEnc) (s : State), opKindOf i = some (k, v, e) → k ∈ elementKinds →
    Issues s v k e →
    let vt := s.fresh v e
    let w := 8 * 2 ^ fSZ e
    let fx := wbits vt.vec.vtype 1 0
    let a := fun (j : Nat) => elemOf vt (fA e) w j
    let b := fun (j : Nat) => elemB vt e w j
    vt.vec.vl.toNat ≤ vlenb s →
    ∃ (x : BitVec 512) (sat : Bool),
      exec i s = .next (s.after v e (wentOn
        { putVec vt (fD e) x with astat := vt.astat ||| (if sat then 4 else 0) } (opWords e))) ∧
      (∀ j < 512 / w, (elemActive vt e w j → x.extractLsb' (j * w) w = elementResult k (fSUB e) fx (a j) (b j)) ∧
        (¬elemActive vt e w j → x.extractLsb' (j * w) w = elemOf vt (fD e) w j)) ∧
      (sat = true ↔ ∃ j, elemActive vt e w j ∧ elementClamped k (fSUB e) fx (a j) (b j) = true)) ∧
  (∀ (x : Int) (m : Nat),
    (∀ f, rshift f x 0 = x) ∧
    (0 < m →
      rshift 0 x m = Rat.floor ((x : Rat) / 2 ^ m) ∧
      rshift 1 x m = Rat.floor (((x : Rat) + 2 ^ (m - 1)) / 2 ^ m) ∧
      rshift 2 x m = x.sign * Rat.floor ((((x.natAbs : Int) : Rat) + 2 ^ (m - 1)) / 2 ^ m) ∧
      2 * (rshift 3 x m * 2 ^ m - x).natAbs ≤ 2 ^ m ∧
      (2 * (rshift 3 x m * 2 ^ m - x).natAbs = 2 ^ m → rshift 3 x m % 2 = 0)))

/-- R206, R212: VMOV, VSEL, VSLDN and VSLUP write the elements they name and no other; VRED writes element 0 alone, the
combination of element 0 of B with every active element of A; VGETE reads and VSETE writes one element whatever VL and the
mask. Rests on the model's choices of log entry 10. -/
def Obligations.vectorMoves : Prop :=
  ∀ (v : Nat) (e : OpEnc) (s : State),
    let vt := s.fresh v e
    let w := 8 * 2 ^ fSZ e
    let cap := vlenb s * 8 / w
    let a := fun (j : Nat) => elemOf vt (fA e) w j
    let b := fun (j : Nat) => elemB vt e w j
    let old := fun (j : Nat) => elemOf vt (fD e) w j
    let n := (b 0).toNat
    let wrote := fun (i : Instr) (hit : Nat → Prop) (new : Nat → BitVec w) => ∃ x : BitVec 512,
      exec i s = .next (s.after v e (wentOn (putVec vt (fD e) x) (opWords e))) ∧
      ∀ j < 512 / w, (hit j → x.extractLsb' (j * w) w = new j) ∧ (¬hit j → x.extractLsb' (j * w) w = old j)
    vt.vec.vl.toNat ≤ vlenb s →
    (Issues s v .vmov e → wrote (.vmov v e) (elemActive vt e w) (fun j => if fBX e ∨ fBI e then b j else a j)) ∧
    (Issues s v .vsel e → wrote (.vsel v e) (fun j => j < elemCount vt w)
      (fun j => if (kReg vt (fKM e)).testBit j then b j else a j)) ∧
    (Issues s v .vsldn e → wrote (.vsldn v e) (elemActive vt e w) (fun j => if j + n < cap then a (j + n) else 0)) ∧
    (Issues s v .vslup e → wrote (.vslup v e) (fun j => elemActive vt e w j ∧ n ≤ j) (fun j => a (j - n))) ∧
    (Issues s v .vred e → wrote (.vred v e) (fun j => j = 0) (fun _ =>
      ((List.range (elemCount vt w)).filter (fun j => (kReg vt (fKM e)).testBit j)).foldl
        (fun x j => if fSUB e = 0 then x + a j
          else if fSUB e = 1 then (if x.toInt ≤ (a j).toInt then a j else x)
          else if x.toInt ≤ (a j).toInt then x else a j) (elemOf vt (fB e) w 0))) ∧
    (Issues s v .vsete e → n < cap → wrote (.vsete v e) (fun j => j = n) (fun _ => (regOf vt (fA e)).signExtend w)) ∧
    (Issues s v .vsete e → cap ≤ n → exec (.vsete v e) s = .next (s.after v e (wentOn vt (opWords e)))) ∧
    (Issues s v .vgete e → exec (.vgete v e) s = .next (s.after v e (wentOn
      (writeReg vt (.gpr (fD e) (if n < cap then (a n).zeroExtend 32 else 0))) (opWords e))))

/-- R202, R206, R207, R212: compares into masks, mask logic and moves, KPOP and SETVL. A write of K0 is ignored. -/
def Obligations.maskOperations : Prop :=
  ∀ (v : Nat) (e : OpEnc) (s : State),
    let vt := s.fresh v e
    let w := 8 * 2 ^ fSZ e
    let a := fun (j : Nat) => elemOf vt (fA e) w j
    let b := fun (j : Nat) => elemB vt e w j
    let ka : DWord := BitVec.ofNat 64 (kReg vt (fA e))
    let kb : DWord := BitVec.ofNat 64 (kReg vt (fB e))
    let old : DWord := fget 0 vt.vec.k (fD e)
    let ra := regOf vt (fA e)
    let low := fun (j : Nat) => j < elemCount vt w ∧ ka.getLsbD j = true
    let scalar := fun (i : Instr) (x : Word) =>
      exec i s = .next (s.after v e (wentOn (writeReg vt (.gpr (fD e) x)) (opWords e)))
    let mask := fun (i : Instr) (x : DWord) => exec i s = .next (s.after v e (wentOn (putMask vt (fD e) x) (opWords e)))
    let compared := fun (i : Instr) (r : Nat → Prop) => ∃ x : DWord, mask i x ∧
      ∀ j < 64, (elemActive vt e w j → (x.getLsbD j = true ↔ r j)) ∧ (¬elemActive vt e w j → x.getLsbD j = old.getLsbD j)
    vt.vec.vl.toNat ≤ vlenb s →
    (Issues s v .vcmp e → compared (.vcmp v e) (fun j =>
      if fSUB e = 0 then a j = b j else if fSUB e = 1 then a j ≠ b j
      else if fSUB e = 2 then (a j).toInt < (b j).toInt else a j < b j)) ∧
    (Issues s v .vcmpl e → compared (.vcmpl v e) (fun j => if fSUB e = 0 then (a j).toInt ≤ (b j).toInt else a j ≤ b j)) ∧
    (Issues s v .klog e → mask (.klog v e)
      (if fSUB e = 0 then ka &&& kb else if fSUB e = 1 then ka ||| kb else if fSUB e = 2 then ka ^^^ kb else ka &&& ~~~kb)) ∧
    (Issues s v .kmov e → fSUB e = 0 → scalar (.kmov v e) (ka.extractLsb' 0 32)) ∧
    (Issues s v .kmov e → fSUB e = 1 → scalar (.kmov v e) (ka.extractLsb' 32 32)) ∧
    (Issues s v .kmov e → fSUB e = 2 → mask (.kmov v e) (old.extractLsb' 32 32 ++ ra)) ∧
    (Issues s v .kmov e → fSUB e = 3 → mask (.kmov v e) (ra ++ old.extractLsb' 0 32)) ∧
    (Issues s v .kpop e → fSUB e = 0 →
      scalar (.kpop v e) (BitVec.ofNat 32 ((List.range (elemCount vt w)).filter (fun j => ka.getLsbD j)).length)) ∧
    (Issues s v .kpop e → fSUB e = 1 → ∃ r : Nat, scalar (.kpop v e) (BitVec.ofNat 32 r) ∧ r ≤ elemCount vt w ∧
      (r < elemCount vt w → low r) ∧ ∀ j < r, ¬low j) ∧
    (Issues s v .setvl e →
      let c := if fBI e then fIMM e else ra.toNat
      let m := min c (vlenb s * 8 / w)
      let x := writeReg vt (.gpr (fD e) (BitVec.ofNat 32 m))
      exec (.setvl v e) s = .next (s.after v e (wentOn
        { x with vec := { x.vec with vl := BitVec.ofNat 32 (m * w / 8) } } (opWords e))))

/-- R215 to R220: scalar floating point in VA and VB. The result is that of the format SZ names; no enabled exception is
among its flags, which FPFLAGS gains; bits of Vd above 63 keep their values. -/
def Obligations.scalarFloat : Prop :=
  (∀ (i : Instr) (k : OpKind) (v : Nat) (e : OpEnc) (s : State), opKindOf i = some (k, v, e) →
    k ∈ [OpKind.fadd, .fsub, .fmul, .fma, .fmin, .fmax] → Issues s v k e →
    let vt := s.fresh v e
    let f := fmtOf (fSZ e)
    let x := fun (n : Nat) => (fget 0 vt.vec.v n).toNat % 2 ^ f.width
    let r := fpOp k f (fctl vt) (x (fD e)) (x (fA e)) (x (fB e))
    fpEnables vt &&& r.2 = 0 →
    exec i s = .next (s.after v e (wentOn (addFlags (writeReg vt (fregW (fD e) r.1)) r.2) (opWords e)))) ∧
  (∀ (v : Nat) (e : OpEnc) (s : State),
    let vt := s.fresh v e
    let f := fmtOf (fSZ e)
    let full := fun (n : Nat) => (fget 0 vt.vec.v n).toNat % 2 ^ 64
    let x := fun (n : Nat) => full n % 2 ^ f.width
    let src := if fSZ e = 3 then fmt32 else fmt64
    let ra := regOf vt (fA e)
    let cmp := fcmpOp (fSUB e) (fdec f (x (fA e))) (fdec f (x (fB e)))
    let cvt := fcvtOp f (fctl vt) (fSUB e) (if 2 ≤ fSUB e then x (fA e) else ra.toNat)
    let cvtf := fcvtFmt f (fctl vt) (fdec src (full (fA e) % 2 ^ src.width))
    let done := fun (i : Instr) (y : Vent) => exec i s = .next (s.after v e (wentOn y (opWords e)))
    (Issues s v .fcmp e → fpEnables vt &&& cmp.2 = 0 →
      done (.fcmp v e) (addFlags (writeReg vt (.pred (fD e) cmp.1)) cmp.2)) ∧
    (Issues s v .fcvt e → fpEnables vt &&& cvt.2 = 0 → done (.fcvt v e) (addFlags
      (writeReg vt (if 2 ≤ fSUB e then .gpr (fD e) (BitVec.ofNat 32 cvt.1) else fregW (fD e) cvt.1)) cvt.2)) ∧
    (Issues s v .fcvtf e → fpEnables vt &&& cvtf.2 = 0 →
      done (.fcvtf v e) (addFlags (writeReg vt (fregW (fD e) cvtf.1)) cvtf.2)) ∧
    (Issues s v .fsgn e → done (.fsgn v e) (writeReg vt (fregW (fD e) (fsgnOp f (fSUB e) (x (fA e)) (x (fB e)))))) ∧
    (Issues s v .fclass e → done (.fclass v e) (writeReg vt (.gpr (fD e) (BitVec.ofNat 32 (fclassOf f (x (fA e))))))) ∧
    (Issues s v .fmvx e →
      let old := fget 0 vt.vec.v (fD e)
      done (.fmvx v e)
        (if fSUB e = 0 then putVec vt (fD e) (old.extractLsb' 64 448 ++ (0 : Word) ++ ra)
         else if fSUB e = 1 then putVec vt (fD e) (old.extractLsb' 64 448 ++ ra ++ old.extractLsb' 0 32)
         else if fSUB e = 2 then writeReg vt (.gpr (fD e) ((fget 0 vt.vec.v (fA e)).extractLsb' 0 32))
         else writeReg vt (.gpr (fD e) ((fget 0 vt.vec.v (fA e)).extractLsb' 32 32)))))

/-- R206, R216, R217, R220: vector binary32 operations. Each active element takes the scalar operation's result and every
other keeps its value; FPFLAGS gains the flags of all active elements, none of which has an enabled exception. -/
def Obligations.vectorFloat : Prop :=
  ∀ (i : Instr) (k : OpKind) (v : Nat) (e : OpEnc) (s : State), opKindOf i = some (k, v, e) →
    k ∈ [OpKind.vfadd, .vfsub, .vfmul, .vfma, .vfmin, .vfmax, .vfcmp, .vfcvt, .vfsgn] → Issues s v k e →
    let vt := s.fresh v e
    let el := fun (n j : Nat) => (elemOf vt n 32 j).toNat
    let one := fun (j : Nat) =>
      if k = .vfcvt then fcvtOp fmt32 (fctl vt) (fSUB e) (el (fA e) j)
      else if k = .vfsgn then (fsgnOp fmt32 (fSUB e) (el (fA e) j) (el (fB e) j), 0)
      else if k = .vfcmp then
        let r := fcmpOp (fSUB e) (fdec fmt32 (el (fA e) j)) (fdec fmt32 (el (fB e) j))
        (b2n r.1, r.2)
      else fpOp k fmt32 (fctl vt) (el (fD e) j) (el (fA e) j) (el (fB e) j)
    vt.vec.vl.toNat ≤ vlenb s →
    (∀ j, elemActive vt e 32 j → fpEnables vt &&& (one j).2 = 0) →
    ∃ flags : Nat,
      (∀ b, flags.testBit b = true ↔ ∃ j, elemActive vt e 32 j ∧ (one j).2.testBit b = true) ∧
      (k ≠ .vfcmp → ∃ x : BitVec 512,
        exec i s = .next (s.after v e (wentOn (addFlags (putVec vt (fD e) x) flags) (opWords e))) ∧
        ∀ j < 16, (elemActive vt e 32 j → x.extractLsb' (j * 32) 32 = BitVec.ofNat 32 (one j).1) ∧
          (¬elemActive vt e 32 j → x.extractLsb' (j * 32) 32 = elemOf vt (fD e) 32 j)) ∧
      (k = .vfcmp → ∃ x : DWord,
        exec i s = .next (s.after v e (wentOn (addFlags (putMask vt (fD e) x) flags) (opWords e))) ∧
        ∀ j < 64, (elemActive vt e 32 j → x.getLsbD j = decide ((one j).1 = 1)) ∧
          (¬elemActive vt e 32 j → x.getLsbD j = (fget 0 vt.vec.k (fD e)).getLsbD j))

/-- R221: the results and flags at the edges, in each rounding mode. -/
def Obligations.floatEdges : Prop :=
  let d32 := 0x00000001
  let m32 := 0x7F7FFFFF
  let d64 := 0x0000000000000001
  let m64 := 0x7FEFFFFFFFFFFFFF
  let at32 := fun (k : OpKind) (rm d a b : Nat) => fpOp k fmt32 ⟨rm, false⟩ d a b
  let at64 := fun (k : OpKind) (rm d a b : Nat) => fpOp k fmt64 ⟨rm, false⟩ d a b
  let dz := 2
  let ofnx := 20
  let ufnx := 24
  let nx := 16
  ∀ rm < 4,
    at32 .fadd rm 0 d32 d32 = (2, 0) ∧ at64 .fadd rm 0 d64 d64 = (2, 0) ∧
    at32 .fadd rm 0 m32 m32 = (if rm = 1 ∨ rm = 3 then m32 else 0x7F800000, ofnx) ∧
    at64 .fadd rm 0 m64 m64 = (if rm = 1 ∨ rm = 3 then m64 else 0x7FF0000000000000, ofnx) ∧
    at32 .fadd rm 0 m32 d32 = (if rm = 2 then (0x7F800000, ofnx) else (m32, nx)) ∧
    at64 .fadd rm 0 m64 d64 = (if rm = 2 then (0x7FF0000000000000, ofnx) else (m64, nx)) ∧
    at32 .fsub rm 0 d32 d32 = (if rm = 3 then 0x80000000 else 0, 0) ∧
    at64 .fsub rm 0 d64 d64 = (if rm = 3 then 0x8000000000000000 else 0, 0) ∧
    at32 .fsub rm 0 (0x80000000 + m32) m32 = (if rm = 1 ∨ rm = 2 then 0x80000000 + m32 else 0xFF800000, ofnx) ∧
    at64 .fsub rm 0 (0x8000000000000000 + m64) m64 =
      (if rm = 1 ∨ rm = 2 then 0x8000000000000000 + m64 else 0xFFF0000000000000, ofnx) ∧
    at32 .fmul rm 0 d32 d32 = (if rm = 2 then d32 else 0, ufnx) ∧ at64 .fmul rm 0 d64 d64 = (if rm = 2 then d64 else 0, ufnx) ∧
    at32 .fmul rm 0 m32 m32 = (if rm = 1 ∨ rm = 3 then m32 else 0x7F800000, ofnx) ∧
    at64 .fmul rm 0 m64 m64 = (if rm = 1 ∨ rm = 3 then m64 else 0x7FF0000000000000, ofnx) ∧
    at32 .fmul rm 0 d32 m32 = (0x34FFFFFF, 0) ∧ at64 .fmul rm 0 d64 m64 = (0x3CCFFFFFFFFFFFFF, 0) ∧
    at32 .fma rm d32 d32 d32 = (if rm = 2 then 2 else d32, ufnx) ∧ at64 .fma rm d64 d64 d64 = (if rm = 2 then 2 else d64, ufnx) ∧
    at32 .fma rm (0x80000000 + m32) m32 0x40000000 = (m32, 0) ∧
    at64 .fma rm (0x8000000000000000 + m64) m64 0x4000000000000000 = (m64, 0) ∧
    at32 .fdiv rm 0 d32 m32 = (if rm = 2 then d32 else 0, ufnx) ∧ at64 .fdiv rm 0 d64 m64 = (if rm = 2 then d64 else 0, ufnx) ∧
    at32 .fdiv rm 0 m32 d32 = (if rm = 1 ∨ rm = 3 then m32 else 0x7F800000, ofnx) ∧
    at64 .fdiv rm 0 m64 d64 = (if rm = 1 ∨ rm = 3 then m64 else 0x7FF0000000000000, ofnx) ∧
    at32 .fdiv rm 0 d32 0 = (0x7F800000, dz) ∧ at64 .fdiv rm 0 d64 0 = (0x7FF0000000000000, dz) ∧
    at32 .fsqrt rm 0 d32 0 = (if rm = 2 then 0x1A3504F4 else 0x1A3504F3, nx) ∧ at64 .fsqrt rm 0 d64 0 = (0x1E60000000000000, 0) ∧
    at32 .fsqrt rm 0 m32 0 = (if rm = 2 then 0x5F800000 else 0x5F7FFFFF, nx) ∧
    at64 .fsqrt rm 0 m64 0 = (if rm = 2 then 0x5FF0000000000000 else 0x5FEFFFFFFFFFFFFF, nx) ∧
    fcvtOp fmt32 ⟨rm, false⟩ 2 m32 = (0x7FFFFFFF, 1) ∧ fcvtOp fmt64 ⟨rm, false⟩ 2 m64 = (0x7FFFFFFF, 1) ∧
    fcvtOp fmt32 ⟨rm, false⟩ 2 d32 = (if rm = 2 then 1 else 0, nx) ∧ fcvtOp fmt64 ⟨rm, false⟩ 2 d64 = (if rm = 2 then 1 else 0, nx) ∧
    fcvtFmt fmt64 ⟨rm, false⟩ (fdec fmt32 d32) = (0x36A0000000000000, 0) ∧
    fcvtFmt fmt64 ⟨rm, false⟩ (fdec fmt32 m32) = (0x47EFFFFFE0000000, 0) ∧
    fcvtFmt fmt32 ⟨rm, false⟩ (fdec fmt64 m64) = (if rm = 1 ∨ rm = 3 then m32 else 0x7F800000, ofnx) ∧
    fcvtFmt fmt32 ⟨rm, false⟩ (fdec fmt64 d64) = (if rm = 2 then d32 else 0, ufnx)

/-- R135, R149, R161, R184, R189, R191, R200, R201, R220, R224, R230, R232, R242, R243: a bundle of one operation that faults
completes nothing: what a mode shadow held takes effect and the handler of the cause is entered, once its address can be read,
raised at the level of the old mode, with the return address at the bundle. A byte that may not be executed raises cause 3; a
fetch from the palette or the device registers, or one that receives an error, cause 4; one in a context cache area cause 6. A
reserved encoding raises cause 0 whatever the guard, VKECCAK and VNTT cause 1 where they are absent; an operation below its
level cause 6; JR and JRL to no multiple of 4 cause 5; a trapping division by zero cause 8; an enabled floating-point exception
cause 9; and an operand in a cell of the register file that holds an uncorrectable error a machine check with FADDR 0, recorded
in VEXC_STAT and VMC_ADDR (R226, R239). A load, a store and a scalar memory operand are refused as AccRefused says: cause 5
where misaligned, 7 where below M no region covers the address, 6 where the lowest-numbered region that covers it denies it,
where nothing is mapped there, and, for a scalar memory operand, outside the vent's own memory; elements of VLD and VST and
DCINV are checked by that table too, an element of an access that reaches the device registers gives cause 6 after cause 7
(R209), and what is admitted is not refused, but for an uncorrectable error in a local operand that the store buffer does not
hold (R167, R239). Rests on the model's choices of log entries 3, 10 and 11. -/
def Obligations.preciseFaults : Prop :=
  ∀ (i : Instr) (k : OpKind) (v : Nat) (e : OpEnc) (s : State), opKindOf i = some (k, v, e) →
    let vt := s.fresh v e
    let pc := vt.pc.toNat
    let at_ := (s.early v).pc.toNat
    let faults := fun (cause fa : Nat) =>
      (HandlerReady (s.found v e) v cause → exec i s = .next (raisedAt s v e cause fa)) ∧
      (¬HandlerReady (s.found v e) v cause → exec i s = .next s)
    -- the fetch
    (let x := s.early v
     let s0 := setVent s v x
     let byte := fun (j : Nat) => (x.pc.toNat + j) % 2 ^ 32
     let refused := fun (j : Nat) => ∃ why, RgnRefused x (ventLevel x) (byte j) .ex why
     let cached := fun (j : Nat) => inCacheArea s0 (ventLoc x v (byte (4 * j))) = true
     let unfit := fun (j : Nat) =>
       let a := byte (4 * j)
       ¬cached j ∧ ((∃ o, ventLoc x v a = .pal o) ∨ (∃ m, ventLoc x v a = .dev m) ∨
         (ventLoc x v a = .none ∧ ¬(v = mvNum ∧ a < 0x2000000)) ∨
         ∃ m, codeAddr x v a = some m ∧ codeLine x (m / 64 * 64) = none ∧
           (if v = mvNum then codeRead s0 v m 4 else codeRead s0 v (m / 64 * 64) 64).1 ≠ .okay)
     let fails := fun (cause fa : Nat) =>
       (HandlerReady s0 v cause → exec i s = .next (raisedIn s0 v 0 0 cause fa)) ∧
       (¬HandlerReady s0 v cause → exec i s = .next s)
     ventRuns s v = true → (ventAt s v).fl.bundle = [] → e.last = true → opSpelt k e = true → x.fl.narrowFault = false →
     narrowWaits x = false → narrowDue x = false → fetchBlocked s0 v x.pc.toNat (opWords e) = false →
     (∀ j < 4 * opWords e, refused j → (∀ n < j, ¬refused n) → fails 3 (byte j)) ∧
     ((∀ j < 4 * opWords e, ¬refused j) → ∀ j < opWords e,
       (unfit j → (∀ n < j, ¬unfit n) → fails 4 (byte (4 * j))) ∧
       ((∀ n < opWords e, ¬unfit n) → cached j → (∀ n < j, ¬cached n) → fails 6 (byte (4 * j))))) ∧
    (Fetched s v k e → encOk k e (opWords e) (v == mvNum) = false → faults 0 (at_ % 2 ^ 32)) ∧
    (Fetched s v k e → encOk k e (opWords e) (v == mvNum) = true → k = .vkeccak ∨ k = .vntt → hasGlaze s = false →
      faults 1 ((at_ + 4 * opWords e) % 2 ^ 32)) ∧
    (Issues s v k e → k = .retm ∨ k = .gobroad → ventLevel vt ≠ 3 → faults 6 pc) ∧
    (Issues s v k e → k = .rets ∨ k = .hold → ventLevel vt = 0 → faults 6 pc) ∧
    (Issues s v k e → k = .mts → (sregLevels (fld e 31 22)).2 ≠ 4 → ventLevel vt < (sregLevels (fld e 31 22)).2 → faults 6 pc) ∧
    (Issues s v k e → k = .mfs → ventLevel vt < (sregLevels (fld e 31 22)).1 → faults 6 pc) ∧
    (Issues s v k e → k = .jr ∨ k = .jrl → (regOf vt (fA e)).toNat % 4 ≠ 0 → faults 5 (regOf vt (fA e)).toNat) ∧
    (∀ (a : Word) (ua ub : List RegW), Issues s v k e → k ∈ [OpKind.div, .divu, .rem, .remu] →
      srcA s v k e = { val := a.toNat, upds := ua } → srcB s v k e = { val := 0, upds := ub } →
      vt.astat.getLsbD 8 = true → faults 8 0) ∧
    (Issues s v k e → k ∈ [OpKind.fadd, .fsub, .fmul, .fma, .fmin, .fmax] →
      let f := fmtOf (fSZ e)
      let x := fun (n : Nat) => (fget 0 vt.vec.v n).toNat % 2 ^ f.width
      let r := fpOp k f (fctl vt) (x (fD e)) (x (fA e)) (x (fB e))
      fpEnables vt &&& r.2 ≠ 0 → faults 9 (r.2 + (if e.cls = 5 then 0 else 65536))) ∧
    (Lone s v k e → guardOn vt e = true → issueWaits (s.found v e) vt [⟨k, e, none⟩] = false → k ≠ .vld ∧ k ≠ .vst →
      (evalOp (s.ctx v e) ⟨k, e, stopOf i⟩).wait = false → readsBad (vlenb s) vt.badRegs k e = true →
      HandlerReady (s.found v e) v 49 →
      let x := applyShadow vt
      exec i s = .next (ended (ventEnter (s.after v e (mcRecord
        { x with fl := { x.fl with
          bundle := []
          narrowFault := false } } mcSrcReg 0)) v
        { cause := 49, cls := e.cls.toNat, faddr := 0, rta := pc, lvl := ventLevel vt, mcact := ventMcact vt }) v)) ∧
    -- the operands in memory
    (let c := s.ctx v e
     let sz := 2 ^ fSZ e
     let scalar := k ∈ scalarKinds ∨ k ∈ compareKinds ∨ k ∈ [OpKind.div, .divu, .rem, .remu]
     Issues s v k e → ∀ sp a us, spMode sp ≠ 8 →
     (∀ (kind : Acc) (n : Nat),
       (k ∈ [OpKind.ld, .lds, .ldf] ∧ opA k e = .spec sp ∧ kind = .rd ∧ n = sz) ∨
       (k ∈ [OpKind.st, .stf] ∧ opD k e = .spec sp ∧ kind = .wr ∧ n = sz) ∨
       (k = .vldl ∧ opA k e = .spec sp ∧ kind = .rd ∧ n = 64) ∨
       (k = .vstl ∧ opD k e = .spec sp ∧ kind = .wr ∧ n = 64 ∧ vt.fl.sbuf = []) →
       (∀ f, specAddr vt sp n n n = (a, us, [f]) → faults f.cause f.faddr) ∧
       (specAddr vt sp n n n = (a, us, []) →
         (∀ cause fa, AccRefused c kind a n false cause fa → faults cause fa) ∧
         (n = 64 → (∀ cause fa, ¬AccRefused c kind a n false cause fa) → ∀ m, ventLoc vt v a = .dev m →
           k = .vldl ∨ m ≠ 0x90000000 + v / 8 * 0x100000 + v % 8 * 0x1000 + 0x40 → faults 6 a))) ∧
     (∀ kind : Acc, scalar → specAddr vt sp sz sz sz = (a, us, []) →
       (opA k e = .spec sp ∧ kind = .rd ∧ opndMem (opB k e) = false ∧ opndMem (opD k e) = false) ∨
       (opB k e = .spec sp ∧ kind = .rd ∧ opndMem (opA k e) = false ∧ opndMem (opD k e) = false) ∨
       (opD k e = .spec sp ∧ kind = .wr ∧ opndMem (opA k e) = false ∧ opndMem (opB k e) = false) →
       ∀ cause fa, AccRefused c kind a sz true cause fa → faults cause fa)) ∧
    (∀ (c : Ctx) (kind : Acc) (a n : Nat) (own : Bool), n ≠ 0 → (∀ cause fa, ¬AccRefused c kind a n own cause fa) →
      (kind = .rd → oneOperand c a n = []) → accFaults c kind a n own = []) ∧
    (∀ (c : Ctx) (a n : Nat),
      let sb := loadBuffer c [{ va := a, len := n }]
      let bad := (ventLoc c.vt c.v a).isLocal && badIn c.s (localAddr c.v (ventLoc c.vt c.v a)) n
      ((sb.1.isSome = true ∨ sb.2 = true) ∨ bad = false → oneOperand c a n = []) ∧
      (sb = (none, false) → bad = true → ∃ f, oneOperand c a n = [f] ∧ f.cause = 49 ∧ f.faddr % 4 = 0)) ∧
    (∀ (x : Vent) (lvl a why : Nat) (kind : Acc), rgnRefuses x lvl a kind = some why ↔ RgnRefused x lvl a kind why) ∧
    (∀ (c : Ctx) (m : VMem) (j b : Nat), m.imm = none → j ∈ m.act → reachesDev c m = false → b < m.es →
      let kind : Acc := if m.load then .rd else .wr
      let byte := fun (n : Nat) => (m.base + j * m.es + n) % 2 ^ 32
      let bad := fun (n cause : Nat) => AccRefused c kind (byte n) 1 false cause (byte n)
      ∀ cause, bad b cause → (∀ n < b, ∀ other, ¬bad n other) →
        ∃ f fs, vmemFaults c m j = f :: fs ∧ f.cause = cause ∧ f.faddr = byte b ∧ ∀ g ∈ fs, f.rank ≤ g.rank) ∧
    (∀ (c : Ctx) (m : VMem) (j : Nat), m.imm = none → j ∈ m.act → reachesDev c m = true →
      ∃ f fs, vmemFaults c m j = f :: fs ∧ f.cause = 6 ∧ f.faddr = (m.base + j * m.es) % 2 ^ 32 ∧
        ∀ g ∈ fs, g.rank < f.rank → g.cause = 7) ∧
    (∀ (why : Nat), k = .dcinv → Issues s v k e → ventLevel vt ≠ 3 → (regOf vt (fB e)).toNat ≠ 0 →
      RgnRefused vt (ventLevel vt) (regOf vt (fA e)).toNat .wr why → faults why (regOf vt (fA e)).toNat)

/-- R181, R183: the address of each mode, the update of An, and alignment (cause 5) for a circular buffer that is not a
power of two from 16 to 262,144 or whose base is not a multiple of it. -/
def Obligations.addressingModes : Prop :=
  ∀ (vt : Vent) (sp sz dsp abs : Nat),
    let n := spReg sp
    let an := regOf vt n
    let mm := regOf vt (16 + spExt sp % 8)
    let cl := fget 0 vt.loop.cl n
    let cb := fget 0 vt.loop.cb n
    let valid : Prop := (∃ p, 4 ≤ p ∧ p ≤ 18 ∧ cl.toNat = 2 ^ p) ∧ cb.toNat % cl.toNat = 0
    let is := fun (a : Word) (us : List RegW) => specAddr vt sp sz dsp abs = (a.toNat, us, [])
    (spMode sp = 0 → is (an + BitVec.ofInt 32 (sgn 8 (spExt sp) * (dsp : Int))) []) ∧
    (spMode sp = 1 → is an [.gpr n (an + BitVec.ofNat 32 sz)]) ∧
    (spMode sp = 2 → is (an - BitVec.ofNat 32 sz) [.gpr n (an - BitVec.ofNat 32 sz)]) ∧
    (spMode sp = 3 → is (an + mm) []) ∧
    (spMode sp = 4 → is an [.gpr n (an + mm)]) ∧
    (spMode sp = 5 → valid → is an [.gpr n (cb ||| ((an + mm) &&& (cl - 1)))]) ∧
    (spMode sp = 5 → ¬valid → specAddr vt sp sz dsp abs = (an.toNat, [], [⟨50, 5, an.toNat⟩])) ∧
    (spMode sp = 6 → is an [.gpr n ((an.reverse + mm.reverse).reverse)]) ∧
    (spMode sp = 7 → specAddr vt sp sz dsp abs = (sp % 4096 * abs, [], []))
end

