-- ==== Sys2Proof/Laws/Fields.lean ====
section
/-! SUPPORT. Fields of State through conditionals and folds, for the frames of the shared operations. -/

namespace Sys2Proof.Machine

@[simp] theorem ite_pending (c : Prop) [Decidable c] (x y : State) : (if c then x else y).pending = if c then x.pending else y.pending := by split <;> rfl
@[simp] theorem ite_timebase (c : Prop) [Decidable c] (x y : State) : (if c then x else y).timebase = if c then x.timebase else y.timebase := by split <;> rfl
@[simp] theorem ite_freeCtr (c : Prop) [Decidable c] (x y : State) : (if c then x else y).freeCtr = if c then x.freeCtr else y.freeCtr := by split <;> rfl
@[simp] theorem ite_balls (c : Prop) [Decidable c] (x y : State) : (if c then x else y).balls = if c then x.balls else y.balls := by split <;> rfl
@[simp] theorem ite_fuses (c : Prop) [Decidable c] (x y : State) : (if c then x else y).fuses = if c then x.fuses else y.fuses := by split <;> rfl
@[simp] theorem ite_glob (c : Prop) [Decidable c] (x y : State) : (if c then x else y).glob = if c then x.glob else y.glob := by split <;> rfl
@[simp] theorem ite_latch (c : Prop) [Decidable c] (x y : State) : (if c then x else y).latch = if c then x.latch else y.latch := by split <;> rfl
@[simp] theorem ite_mem (c : Prop) [Decidable c] (x y : State) : (if c then x else y).mem = if c then x.mem else y.mem := by split <;> rfl
@[simp] theorem ite_hostMem (c : Prop) [Decidable c] (x y : State) : (if c then x else y).hostMem = if c then x.hostMem else y.hostMem := by split <;> rfl
@[simp] theorem ite_vents (c : Prop) [Decidable c] (x y : State) : (if c then x else y).vents = if c then x.vents else y.vents := by split <;> rfl
@[simp] theorem ite_cals (c : Prop) [Decidable c] (x y : State) : (if c then x else y).cals = if c then x.cals else y.cals := by split <;> rfl
@[simp] theorem ite_power (c : Prop) [Decidable c] (x y : State) : (if c then x else y).power = if c then x.power else y.power := by split <;> rfl
@[simp] theorem ite_ports (c : Prop) [Decidable c] (x y : State) : (if c then x else y).ports = if c then x.ports else y.ports := by split <;> rfl
@[simp] theorem ite_subs (c : Prop) [Decidable c] (x y : State) : (if c then x else y).subs = if c then x.subs else y.subs := by split <;> rfl
@[simp] theorem ite_mgmt (c : Prop) [Decidable c] (x y : State) : (if c then x else y).mgmt = if c then x.mgmt else y.mgmt := by split <;> rfl
@[simp] theorem ite_jtag (c : Prop) [Decidable c] (x y : State) : (if c then x else y).jtag = if c then x.jtag else y.jtag := by split <;> rfl
@[simp] theorem ite_store (c : Prop) [Decidable c] (x y : State) : (if c then x else y).store = if c then x.store else y.store := by split <;> rfl
@[simp] theorem ite_sets (c : Prop) [Decidable c] (x y : State) : (if c then x else y).sets = if c then x.sets else y.sets := by split <;> rfl
@[simp] theorem ite_path (c : Prop) [Decidable c] (x y : State) : (if c then x else y).path = if c then x.path else y.path := by split <;> rfl
@[simp] theorem ite_qm (c : Prop) [Decidable c] (x y : State) : (if c then x else y).qm = if c then x.qm else y.qm := by split <;> rfl
@[simp] theorem ite_glaze (c : Prop) [Decidable c] (x y : State) : (if c then x else y).glaze = if c then x.glaze else y.glaze := by split <;> rfl
@[simp] theorem ite_easel (c : Prop) [Decidable c] (x y : State) : (if c then x else y).easel = if c then x.easel else y.easel := by split <;> rfl
@[simp] theorem ite_hb (c : Prop) [Decidable c] (x y : State) : (if c then x else y).hb = if c then x.hb else y.hb := by split <;> rfl
@[simp] theorem ite_adm (c : Prop) [Decidable c] (x y : State) : (if c then x else y).adm = if c then x.adm else y.adm := by split <;> rfl
@[simp] theorem ite_mx (c : Prop) [Decidable c] (x y : State) : (if c then x else y).mx = if c then x.mx else y.mx := by split <;> rfl
@[simp] theorem ite_hbm (c : Prop) [Decidable c] (x y : State) : (if c then x else y).hbm = if c then x.hbm else y.hbm := by split <;> rfl
/-- The state of a conditional answer. -/
@[simp] theorem ite_state {α : Type} (c : Prop) [Decidable c] (x y : α × State) :
    (if c then x else y).2 = if c then x.2 else y.2 := by split <;> rfl

/-- A field that each step of a fold keeps is kept by the fold. -/
theorem foldl_keep {α β : Type} (φ : State → β) (g : State → α → State) (h : ∀ s a, φ (g s a) = φ s) (l : List α) (s : State) :
    φ (l.foldl g s) = φ s := by
  induction l generalizing s with
  | nil => rfl
  | cons a r ih => rw [List.foldl_cons, ih, h]

@[simp] theorem foldl_pending {α : Type} (g : State → α → State) (h : ∀ s a, (g s a).pending = s.pending) (l : List α) (s : State) :
    (l.foldl g s).pending = s.pending := foldl_keep (·.pending) g h l s
@[simp] theorem foldl_timebase {α : Type} (g : State → α → State) (h : ∀ s a, (g s a).timebase = s.timebase) (l : List α) (s : State) :
    (l.foldl g s).timebase = s.timebase := foldl_keep (·.timebase) g h l s
@[simp] theorem foldl_freeCtr {α : Type} (g : State → α → State) (h : ∀ s a, (g s a).freeCtr = s.freeCtr) (l : List α) (s : State) :
    (l.foldl g s).freeCtr = s.freeCtr := foldl_keep (·.freeCtr) g h l s
@[simp] theorem foldl_balls {α : Type} (g : State → α → State) (h : ∀ s a, (g s a).balls = s.balls) (l : List α) (s : State) :
    (l.foldl g s).balls = s.balls := foldl_keep (·.balls) g h l s
@[simp] theorem foldl_fuses {α : Type} (g : State → α → State) (h : ∀ s a, (g s a).fuses = s.fuses) (l : List α) (s : State) :
    (l.foldl g s).fuses = s.fuses := foldl_keep (·.fuses) g h l s
@[simp] theorem foldl_glob {α : Type} (g : State → α → State) (h : ∀ s a, (g s a).glob = s.glob) (l : List α) (s : State) :
    (l.foldl g s).glob = s.glob := foldl_keep (·.glob) g h l s
@[simp] theorem foldl_latch {α : Type} (g : State → α → State) (h : ∀ s a, (g s a).latch = s.latch) (l : List α) (s : State) :
    (l.foldl g s).latch = s.latch := foldl_keep (·.latch) g h l s
@[simp] theorem foldl_mem {α : Type} (g : State → α → State) (h : ∀ s a, (g s a).mem = s.mem) (l : List α) (s : State) :
    (l.foldl g s).mem = s.mem := foldl_keep (·.mem) g h l s
@[simp] theorem foldl_hostMem {α : Type} (g : State → α → State) (h : ∀ s a, (g s a).hostMem = s.hostMem) (l : List α) (s : State) :
    (l.foldl g s).hostMem = s.hostMem := foldl_keep (·.hostMem) g h l s
@[simp] theorem foldl_vents {α : Type} (g : State → α → State) (h : ∀ s a, (g s a).vents = s.vents) (l : List α) (s : State) :
    (l.foldl g s).vents = s.vents := foldl_keep (·.vents) g h l s
@[simp] theorem foldl_cals {α : Type} (g : State → α → State) (h : ∀ s a, (g s a).cals = s.cals) (l : List α) (s : State) :
    (l.foldl g s).cals = s.cals := foldl_keep (·.cals) g h l s
@[simp] theorem foldl_power {α : Type} (g : State → α → State) (h : ∀ s a, (g s a).power = s.power) (l : List α) (s : State) :
    (l.foldl g s).power = s.power := foldl_keep (·.power) g h l s
@[simp] theorem foldl_ports {α : Type} (g : State → α → State) (h : ∀ s a, (g s a).ports = s.ports) (l : List α) (s : State) :
    (l.foldl g s).ports = s.ports := foldl_keep (·.ports) g h l s
@[simp] theorem foldl_subs {α : Type} (g : State → α → State) (h : ∀ s a, (g s a).subs = s.subs) (l : List α) (s : State) :
    (l.foldl g s).subs = s.subs := foldl_keep (·.subs) g h l s
@[simp] theorem foldl_mgmt {α : Type} (g : State → α → State) (h : ∀ s a, (g s a).mgmt = s.mgmt) (l : List α) (s : State) :
    (l.foldl g s).mgmt = s.mgmt := foldl_keep (·.mgmt) g h l s
@[simp] theorem foldl_jtag {α : Type} (g : State → α → State) (h : ∀ s a, (g s a).jtag = s.jtag) (l : List α) (s : State) :
    (l.foldl g s).jtag = s.jtag := foldl_keep (·.jtag) g h l s
@[simp] theorem foldl_store {α : Type} (g : State → α → State) (h : ∀ s a, (g s a).store = s.store) (l : List α) (s : State) :
    (l.foldl g s).store = s.store := foldl_keep (·.store) g h l s
@[simp] theorem foldl_sets {α : Type} (g : State → α → State) (h : ∀ s a, (g s a).sets = s.sets) (l : List α) (s : State) :
    (l.foldl g s).sets = s.sets := foldl_keep (·.sets) g h l s
@[simp] theorem foldl_path {α : Type} (g : State → α → State) (h : ∀ s a, (g s a).path = s.path) (l : List α) (s : State) :
    (l.foldl g s).path = s.path := foldl_keep (·.path) g h l s
@[simp] theorem foldl_qm {α : Type} (g : State → α → State) (h : ∀ s a, (g s a).qm = s.qm) (l : List α) (s : State) :
    (l.foldl g s).qm = s.qm := foldl_keep (·.qm) g h l s
@[simp] theorem foldl_glaze {α : Type} (g : State → α → State) (h : ∀ s a, (g s a).glaze = s.glaze) (l : List α) (s : State) :
    (l.foldl g s).glaze = s.glaze := foldl_keep (·.glaze) g h l s
@[simp] theorem foldl_easel {α : Type} (g : State → α → State) (h : ∀ s a, (g s a).easel = s.easel) (l : List α) (s : State) :
    (l.foldl g s).easel = s.easel := foldl_keep (·.easel) g h l s
@[simp] theorem foldl_hb {α : Type} (g : State → α → State) (h : ∀ s a, (g s a).hb = s.hb) (l : List α) (s : State) :
    (l.foldl g s).hb = s.hb := foldl_keep (·.hb) g h l s
@[simp] theorem foldl_adm {α : Type} (g : State → α → State) (h : ∀ s a, (g s a).adm = s.adm) (l : List α) (s : State) :
    (l.foldl g s).adm = s.adm := foldl_keep (·.adm) g h l s
@[simp] theorem foldl_mx {α : Type} (g : State → α → State) (h : ∀ s a, (g s a).mx = s.mx) (l : List α) (s : State) :
    (l.foldl g s).mx = s.mx := foldl_keep (·.mx) g h l s
@[simp] theorem foldl_hbm {α : Type} (g : State → α → State) (h : ∀ s a, (g s a).hbm = s.hbm) (l : List α) (s : State) :
    (l.foldl g s).hbm = s.hbm := foldl_keep (·.hbm) g h l s

/-- The same for a fold that carries an answer beside the state. -/
theorem foldl_keep_snd {α β σ : Type} (φ : State → β) (g : σ × State → α → σ × State) (h : ∀ r a, φ (g r a).2 = φ r.2) (l : List α)
    (r : σ × State) : φ (l.foldl g r).2 = φ r.2 := by
  induction l generalizing r with
  | nil => rfl
  | cons a l ih => rw [List.foldl_cons, ih, h]

@[simp] theorem foldl_snd_pending {α σ : Type} (g : σ × State → α → σ × State) (h : ∀ r a, (g r a).2.pending = r.2.pending) (l : List α)
    (r : σ × State) : (l.foldl g r).2.pending = r.2.pending := foldl_keep_snd (·.pending) g h l r
@[simp] theorem foldl_snd_timebase {α σ : Type} (g : σ × State → α → σ × State) (h : ∀ r a, (g r a).2.timebase = r.2.timebase) (l : List α)
    (r : σ × State) : (l.foldl g r).2.timebase = r.2.timebase := foldl_keep_snd (·.timebase) g h l r
@[simp] theorem foldl_snd_freeCtr {α σ : Type} (g : σ × State → α → σ × State) (h : ∀ r a, (g r a).2.freeCtr = r.2.freeCtr) (l : List α)
    (r : σ × State) : (l.foldl g r).2.freeCtr = r.2.freeCtr := foldl_keep_snd (·.freeCtr) g h l r
@[simp] theorem foldl_snd_balls {α σ : Type} (g : σ × State → α → σ × State) (h : ∀ r a, (g r a).2.balls = r.2.balls) (l : List α)
    (r : σ × State) : (l.foldl g r).2.balls = r.2.balls := foldl_keep_snd (·.balls) g h l r
@[simp] theorem foldl_snd_fuses {α σ : Type} (g : σ × State → α → σ × State) (h : ∀ r a, (g r a).2.fuses = r.2.fuses) (l : List α)
    (r : σ × State) : (l.foldl g r).2.fuses = r.2.fuses := foldl_keep_snd (·.fuses) g h l r
@[simp] theorem foldl_snd_glob {α σ : Type} (g : σ × State → α → σ × State) (h : ∀ r a, (g r a).2.glob = r.2.glob) (l : List α)
    (r : σ × State) : (l.foldl g r).2.glob = r.2.glob := foldl_keep_snd (·.glob) g h l r
@[simp] theorem foldl_snd_latch {α σ : Type} (g : σ × State → α → σ × State) (h : ∀ r a, (g r a).2.latch = r.2.latch) (l : List α)
    (r : σ × State) : (l.foldl g r).2.latch = r.2.latch := foldl_keep_snd (·.latch) g h l r
@[simp] theorem foldl_snd_mem {α σ : Type} (g : σ × State → α → σ × State) (h : ∀ r a, (g r a).2.mem = r.2.mem) (l : List α)
    (r : σ × State) : (l.foldl g r).2.mem = r.2.mem := foldl_keep_snd (·.mem) g h l r
@[simp] theorem foldl_snd_hostMem {α σ : Type} (g : σ × State → α → σ × State) (h : ∀ r a, (g r a).2.hostMem = r.2.hostMem) (l : List α)
    (r : σ × State) : (l.foldl g r).2.hostMem = r.2.hostMem := foldl_keep_snd (·.hostMem) g h l r
@[simp] theorem foldl_snd_vents {α σ : Type} (g : σ × State → α → σ × State) (h : ∀ r a, (g r a).2.vents = r.2.vents) (l : List α)
    (r : σ × State) : (l.foldl g r).2.vents = r.2.vents := foldl_keep_snd (·.vents) g h l r
@[simp] theorem foldl_snd_cals {α σ : Type} (g : σ × State → α → σ × State) (h : ∀ r a, (g r a).2.cals = r.2.cals) (l : List α)
    (r : σ × State) : (l.foldl g r).2.cals = r.2.cals := foldl_keep_snd (·.cals) g h l r
@[simp] theorem foldl_snd_power {α σ : Type} (g : σ × State → α → σ × State) (h : ∀ r a, (g r a).2.power = r.2.power) (l : List α)
    (r : σ × State) : (l.foldl g r).2.power = r.2.power := foldl_keep_snd (·.power) g h l r
@[simp] theorem foldl_snd_ports {α σ : Type} (g : σ × State → α → σ × State) (h : ∀ r a, (g r a).2.ports = r.2.ports) (l : List α)
    (r : σ × State) : (l.foldl g r).2.ports = r.2.ports := foldl_keep_snd (·.ports) g h l r
@[simp] theorem foldl_snd_subs {α σ : Type} (g : σ × State → α → σ × State) (h : ∀ r a, (g r a).2.subs = r.2.subs) (l : List α)
    (r : σ × State) : (l.foldl g r).2.subs = r.2.subs := foldl_keep_snd (·.subs) g h l r
@[simp] theorem foldl_snd_mgmt {α σ : Type} (g : σ × State → α → σ × State) (h : ∀ r a, (g r a).2.mgmt = r.2.mgmt) (l : List α)
    (r : σ × State) : (l.foldl g r).2.mgmt = r.2.mgmt := foldl_keep_snd (·.mgmt) g h l r
@[simp] theorem foldl_snd_jtag {α σ : Type} (g : σ × State → α → σ × State) (h : ∀ r a, (g r a).2.jtag = r.2.jtag) (l : List α)
    (r : σ × State) : (l.foldl g r).2.jtag = r.2.jtag := foldl_keep_snd (·.jtag) g h l r
@[simp] theorem foldl_snd_store {α σ : Type} (g : σ × State → α → σ × State) (h : ∀ r a, (g r a).2.store = r.2.store) (l : List α)
    (r : σ × State) : (l.foldl g r).2.store = r.2.store := foldl_keep_snd (·.store) g h l r
@[simp] theorem foldl_snd_sets {α σ : Type} (g : σ × State → α → σ × State) (h : ∀ r a, (g r a).2.sets = r.2.sets) (l : List α)
    (r : σ × State) : (l.foldl g r).2.sets = r.2.sets := foldl_keep_snd (·.sets) g h l r
@[simp] theorem foldl_snd_path {α σ : Type} (g : σ × State → α → σ × State) (h : ∀ r a, (g r a).2.path = r.2.path) (l : List α)
    (r : σ × State) : (l.foldl g r).2.path = r.2.path := foldl_keep_snd (·.path) g h l r
@[simp] theorem foldl_snd_qm {α σ : Type} (g : σ × State → α → σ × State) (h : ∀ r a, (g r a).2.qm = r.2.qm) (l : List α)
    (r : σ × State) : (l.foldl g r).2.qm = r.2.qm := foldl_keep_snd (·.qm) g h l r
@[simp] theorem foldl_snd_glaze {α σ : Type} (g : σ × State → α → σ × State) (h : ∀ r a, (g r a).2.glaze = r.2.glaze) (l : List α)
    (r : σ × State) : (l.foldl g r).2.glaze = r.2.glaze := foldl_keep_snd (·.glaze) g h l r
@[simp] theorem foldl_snd_easel {α σ : Type} (g : σ × State → α → σ × State) (h : ∀ r a, (g r a).2.easel = r.2.easel) (l : List α)
    (r : σ × State) : (l.foldl g r).2.easel = r.2.easel := foldl_keep_snd (·.easel) g h l r
@[simp] theorem foldl_snd_hb {α σ : Type} (g : σ × State → α → σ × State) (h : ∀ r a, (g r a).2.hb = r.2.hb) (l : List α)
    (r : σ × State) : (l.foldl g r).2.hb = r.2.hb := foldl_keep_snd (·.hb) g h l r
@[simp] theorem foldl_snd_adm {α σ : Type} (g : σ × State → α → σ × State) (h : ∀ r a, (g r a).2.adm = r.2.adm) (l : List α)
    (r : σ × State) : (l.foldl g r).2.adm = r.2.adm := foldl_keep_snd (·.adm) g h l r
@[simp] theorem foldl_snd_mx {α σ : Type} (g : σ × State → α → σ × State) (h : ∀ r a, (g r a).2.mx = r.2.mx) (l : List α)
    (r : σ × State) : (l.foldl g r).2.mx = r.2.mx := foldl_keep_snd (·.mx) g h l r
@[simp] theorem foldl_snd_hbm {α σ : Type} (g : σ × State → α → σ × State) (h : ∀ r a, (g r a).2.hbm = r.2.hbm) (l : List α)
    (r : σ × State) : (l.foldl g r).2.hbm = r.2.hbm := foldl_keep_snd (·.hbm) g h l r

/-- The parts of a pair that a match takes apart. -/
theorem pair_snd {α β : Type} {e : α × β} {x : α} {t : β} (h : e = (x, t)) : t = e.2 := by rw [h]
/-- The first part of such a pair. -/
theorem pair_fst {α β : Type} {e : α × β} {x : α} {t : β} (h : e = (x, t)) : x = e.1 := by rw [h]
/-- The third part of a triple that a match takes apart. -/
theorem pair_third {α β γ : Type} {e : α × β × γ} {x : α} {y : β} {t : γ} (h : e = (x, y, t)) : t = e.2.2 := by rw [h]

end Sys2Proof.Machine
end

