-- ==== Sys2Proof/Laws/FramesCore.lean ====
section
/-! SUPPORT. The fields of State that each shared operation of registers, events, the store, memory and the matrix leaves
as they were. -/

namespace Sys2Proof.Machine

/-! ### Machine/Base.lean -/

@[simp] theorem setVent_frame (s : State) (v : Nat) (x : Vent) :
    let t := (setVent s v x); t.pending = s.pending ∧ t.timebase = s.timebase ∧ t.freeCtr = s.freeCtr ∧ t.balls =
    s.balls ∧ t.fuses = s.fuses ∧ t.glob = s.glob ∧ t.latch = s.latch ∧ t.mem = s.mem ∧ t.hostMem = s.hostMem ∧
    t.cals = s.cals ∧ t.power = s.power ∧ t.ports = s.ports ∧ t.subs = s.subs ∧ t.mgmt = s.mgmt ∧ t.jtag = s.jtag ∧
    t.store = s.store ∧ t.sets = s.sets ∧ t.path = s.path ∧ t.qm = s.qm ∧ t.glaze = s.glaze ∧ t.easel = s.easel ∧
    t.hb = s.hb ∧ t.adm = s.adm ∧ t.mx = s.mx ∧ t.hbm = s.hbm := by simp [setVent]
@[simp] theorem updVent_frame (s : State) (v : Nat) (f : Vent → Vent) :
    let t := (updVent s v f); t.pending = s.pending ∧ t.timebase = s.timebase ∧ t.freeCtr = s.freeCtr ∧ t.balls =
    s.balls ∧ t.fuses = s.fuses ∧ t.glob = s.glob ∧ t.latch = s.latch ∧ t.mem = s.mem ∧ t.hostMem = s.hostMem ∧
    t.cals = s.cals ∧ t.power = s.power ∧ t.ports = s.ports ∧ t.subs = s.subs ∧ t.mgmt = s.mgmt ∧ t.jtag = s.jtag ∧
    t.store = s.store ∧ t.sets = s.sets ∧ t.path = s.path ∧ t.qm = s.qm ∧ t.glaze = s.glaze ∧ t.easel = s.easel ∧
    t.hb = s.hb ∧ t.adm = s.adm ∧ t.mx = s.mx ∧ t.hbm = s.hbm := by simp [updVent]
@[simp] theorem updCal_frame (s : State) (c : Nat) (f : Cal → Cal) :
    let t := (updCal s c f); t.pending = s.pending ∧ t.timebase = s.timebase ∧ t.freeCtr = s.freeCtr ∧ t.balls =
    s.balls ∧ t.fuses = s.fuses ∧ t.glob = s.glob ∧ t.latch = s.latch ∧ t.mem = s.mem ∧ t.hostMem = s.hostMem ∧
    t.vents = s.vents ∧ t.power = s.power ∧ t.ports = s.ports ∧ t.subs = s.subs ∧ t.mgmt = s.mgmt ∧ t.jtag = s.jtag
    ∧ t.store = s.store ∧ t.sets = s.sets ∧ t.path = s.path ∧ t.qm = s.qm ∧ t.glaze = s.glaze ∧ t.easel = s.easel ∧
    t.hb = s.hb ∧ t.adm = s.adm ∧ t.mx = s.mx ∧ t.hbm = s.hbm := by simp [updCal]
@[simp] theorem drawFree_frame (s : State) :
    let t := (drawFree s).2; t.pending = s.pending ∧ t.timebase = s.timebase ∧ t.balls = s.balls ∧ t.fuses = s.fuses
    ∧ t.glob = s.glob ∧ t.latch = s.latch ∧ t.mem = s.mem ∧ t.hostMem = s.hostMem ∧ t.vents = s.vents ∧ t.cals =
    s.cals ∧ t.power = s.power ∧ t.ports = s.ports ∧ t.subs = s.subs ∧ t.mgmt = s.mgmt ∧ t.jtag = s.jtag ∧ t.store =
    s.store ∧ t.sets = s.sets ∧ t.path = s.path ∧ t.qm = s.qm ∧ t.glaze = s.glaze ∧ t.easel = s.easel ∧ t.hb = s.hb
    ∧ t.adm = s.adm ∧ t.mx = s.mx ∧ t.hbm = s.hbm := by simp [drawFree]
@[simp] theorem drawRandom_frame (s : State) (n : Nat) :
    let t := (drawRandom s n).2; t.pending = s.pending ∧ t.timebase = s.timebase ∧ t.balls = s.balls ∧ t.fuses =
    s.fuses ∧ t.glob = s.glob ∧ t.latch = s.latch ∧ t.mem = s.mem ∧ t.hostMem = s.hostMem ∧ t.vents = s.vents ∧
    t.cals = s.cals ∧ t.power = s.power ∧ t.ports = s.ports ∧ t.subs = s.subs ∧ t.mgmt = s.mgmt ∧ t.jtag = s.jtag ∧
    t.store = s.store ∧ t.sets = s.sets ∧ t.path = s.path ∧ t.qm = s.qm ∧ t.glaze = s.glaze ∧ t.easel = s.easel ∧
    t.hb = s.hb ∧ t.adm = s.adm ∧ t.mx = s.mx ∧ t.hbm = s.hbm := by simp [drawRandom]
@[simp] theorem localTime_frame (s : State) (island : Nat) :
    let t := (localTime s island).2; t.pending = s.pending ∧ t.timebase = s.timebase ∧ t.balls = s.balls ∧ t.fuses =
    s.fuses ∧ t.glob = s.glob ∧ t.latch = s.latch ∧ t.mem = s.mem ∧ t.hostMem = s.hostMem ∧ t.vents = s.vents ∧
    t.power = s.power ∧ t.ports = s.ports ∧ t.subs = s.subs ∧ t.mgmt = s.mgmt ∧ t.jtag = s.jtag ∧ t.store = s.store
    ∧ t.sets = s.sets ∧ t.path = s.path ∧ t.qm = s.qm ∧ t.glaze = s.glaze ∧ t.easel = s.easel ∧ t.hb = s.hb ∧ t.adm
    = s.adm ∧ t.mx = s.mx ∧ t.hbm = s.hbm := by simp [localTime]
@[simp] theorem putMem_frame (s : State) (w : List (Nat × Byte)) :
    let t := (putMem s w); t.pending = s.pending ∧ t.timebase = s.timebase ∧ t.freeCtr = s.freeCtr ∧ t.balls =
    s.balls ∧ t.fuses = s.fuses ∧ t.glob = s.glob ∧ t.latch = s.latch ∧ t.hostMem = s.hostMem ∧ t.vents = s.vents ∧
    t.cals = s.cals ∧ t.power = s.power ∧ t.ports = s.ports ∧ t.subs = s.subs ∧ t.mgmt = s.mgmt ∧ t.jtag = s.jtag ∧
    t.store = s.store ∧ t.sets = s.sets ∧ t.path = s.path ∧ t.qm = s.qm ∧ t.glaze = s.glaze ∧ t.easel = s.easel ∧
    t.hb = s.hb ∧ t.adm = s.adm ∧ t.mx = s.mx ∧ t.hbm = s.hbm := by simp [putMem]
@[simp] theorem zeroMem_frame (s : State) (a n : Nat) :
    let t := (zeroMem s a n); t.pending = s.pending ∧ t.timebase = s.timebase ∧ t.freeCtr = s.freeCtr ∧ t.balls =
    s.balls ∧ t.fuses = s.fuses ∧ t.glob = s.glob ∧ t.latch = s.latch ∧ t.hostMem = s.hostMem ∧ t.vents = s.vents ∧
    t.cals = s.cals ∧ t.power = s.power ∧ t.ports = s.ports ∧ t.subs = s.subs ∧ t.mgmt = s.mgmt ∧ t.jtag = s.jtag ∧
    t.store = s.store ∧ t.sets = s.sets ∧ t.path = s.path ∧ t.qm = s.qm ∧ t.glaze = s.glaze ∧ t.easel = s.easel ∧
    t.hb = s.hb ∧ t.adm = s.adm ∧ t.mx = s.mx ∧ t.hbm = s.hbm := by simp [zeroMem]
@[simp] theorem putHost_frame (s : State) (w : List (Nat × Byte)) :
    let t := (putHost s w); t.pending = s.pending ∧ t.timebase = s.timebase ∧ t.freeCtr = s.freeCtr ∧ t.balls =
    s.balls ∧ t.fuses = s.fuses ∧ t.glob = s.glob ∧ t.latch = s.latch ∧ t.mem = s.mem ∧ t.vents = s.vents ∧ t.cals =
    s.cals ∧ t.power = s.power ∧ t.ports = s.ports ∧ t.subs = s.subs ∧ t.mgmt = s.mgmt ∧ t.jtag = s.jtag ∧ t.store =
    s.store ∧ t.sets = s.sets ∧ t.path = s.path ∧ t.qm = s.qm ∧ t.glaze = s.glaze ∧ t.easel = s.easel ∧ t.hb = s.hb
    ∧ t.adm = s.adm ∧ t.mx = s.mx ∧ t.hbm = s.hbm := by simp [putHost]

/-! ### Machine/VentBase.lean -/

@[simp] theorem putDie_frame (s : State) (w : List (Nat × Byte)) :
    let t := (putDie s w); t.pending = s.pending ∧ t.timebase = s.timebase ∧ t.freeCtr = s.freeCtr ∧ t.balls =
    s.balls ∧ t.fuses = s.fuses ∧ t.glob = s.glob ∧ t.latch = s.latch ∧ t.hostMem = s.hostMem ∧ t.vents = s.vents ∧
    t.cals = s.cals ∧ t.power = s.power ∧ t.ports = s.ports ∧ t.subs = s.subs ∧ t.mgmt = s.mgmt ∧ t.jtag = s.jtag ∧
    t.store = s.store ∧ t.sets = s.sets ∧ t.path = s.path ∧ t.qm = s.qm ∧ t.glaze = s.glaze ∧ t.easel = s.easel ∧
    t.hb = s.hb ∧ t.adm = s.adm ∧ t.mx = s.mx := by simp [putDie]
@[simp] theorem latchInt_frame (s : State) (v src : Nat) :
    let t := (latchInt s v src); t.pending = s.pending ∧ t.timebase = s.timebase ∧ t.freeCtr = s.freeCtr ∧ t.balls =
    s.balls ∧ t.fuses = s.fuses ∧ t.glob = s.glob ∧ t.latch = s.latch ∧ t.mem = s.mem ∧ t.hostMem = s.hostMem ∧
    t.cals = s.cals ∧ t.power = s.power ∧ t.ports = s.ports ∧ t.subs = s.subs ∧ t.mgmt = s.mgmt ∧ t.jtag = s.jtag ∧
    t.store = s.store ∧ t.sets = s.sets ∧ t.path = s.path ∧ t.qm = s.qm ∧ t.glaze = s.glaze ∧ t.easel = s.easel ∧
    t.hb = s.hb ∧ t.adm = s.adm ∧ t.mx = s.mx ∧ t.hbm = s.hbm := by simp [latchInt]
@[simp] theorem latchIntCal_frame (s : State) (c src : Nat) :
    let t := (latchIntCal s c src); t.pending = s.pending ∧ t.timebase = s.timebase ∧ t.freeCtr = s.freeCtr ∧
    t.balls = s.balls ∧ t.fuses = s.fuses ∧ t.glob = s.glob ∧ t.latch = s.latch ∧ t.mem = s.mem ∧ t.hostMem =
    s.hostMem ∧ t.cals = s.cals ∧ t.power = s.power ∧ t.ports = s.ports ∧ t.subs = s.subs ∧ t.mgmt = s.mgmt ∧ t.jtag
    = s.jtag ∧ t.store = s.store ∧ t.sets = s.sets ∧ t.path = s.path ∧ t.qm = s.qm ∧ t.glaze = s.glaze ∧ t.easel =
    s.easel ∧ t.hb = s.hb ∧ t.adm = s.adm ∧ t.mx = s.mx ∧ t.hbm = s.hbm := by simp [latchIntCal]
@[simp] theorem jobErr_frame (s : State) (v : Nat) :
    let t := (jobErr s v); t.pending = s.pending ∧ t.timebase = s.timebase ∧ t.freeCtr = s.freeCtr ∧ t.balls =
    s.balls ∧ t.fuses = s.fuses ∧ t.glob = s.glob ∧ t.latch = s.latch ∧ t.mem = s.mem ∧ t.hostMem = s.hostMem ∧
    t.cals = s.cals ∧ t.power = s.power ∧ t.ports = s.ports ∧ t.subs = s.subs ∧ t.mgmt = s.mgmt ∧ t.jtag = s.jtag ∧
    t.store = s.store ∧ t.sets = s.sets ∧ t.path = s.path ∧ t.qm = s.qm ∧ t.glaze = s.glaze ∧ t.easel = s.easel ∧
    t.hb = s.hb ∧ t.adm = s.adm ∧ t.mx = s.mx ∧ t.hbm = s.hbm := by simp [jobErr]
@[simp] theorem ackMarkers_frame (s : State) (v : Nat) :
    let t := (ackMarkers s v); t.pending = s.pending ∧ t.timebase = s.timebase ∧ t.freeCtr = s.freeCtr ∧ t.balls =
    s.balls ∧ t.fuses = s.fuses ∧ t.glob = s.glob ∧ t.latch = s.latch ∧ t.mem = s.mem ∧ t.hostMem = s.hostMem ∧
    t.vents = s.vents ∧ t.cals = s.cals ∧ t.power = s.power ∧ t.ports = s.ports ∧ t.subs = s.subs ∧ t.mgmt = s.mgmt
    ∧ t.jtag = s.jtag ∧ t.store = s.store ∧ t.sets = s.sets ∧ t.path = s.path ∧ t.qm = s.qm ∧ t.glaze = s.glaze ∧
    t.hb = s.hb ∧ t.adm = s.adm ∧ t.mx = s.mx ∧ t.hbm = s.hbm := by simp [ackMarkers]
@[simp] theorem ventReset_frame (s : State) (v : Nat) :
    let t := (ventReset s v); t.pending = s.pending ∧ t.timebase = s.timebase ∧ t.freeCtr = s.freeCtr ∧ t.balls =
    s.balls ∧ t.fuses = s.fuses ∧ t.glob = s.glob ∧ t.latch = s.latch ∧ t.mem = s.mem ∧ t.hostMem = s.hostMem ∧
    t.cals = s.cals ∧ t.power = s.power ∧ t.ports = s.ports ∧ t.subs = s.subs ∧ t.mgmt = s.mgmt ∧ t.jtag = s.jtag ∧
    t.sets = s.sets ∧ t.path = s.path ∧ t.qm = s.qm ∧ t.glaze = s.glaze ∧ t.hb = s.hb ∧ t.adm = s.adm ∧ t.mx = s.mx
    ∧ t.hbm = s.hbm := by simp [ventReset]

/-! ### Machine/Events.lean -/

@[simp] theorem setRing_frame (s : State) (r : Nat) (x : Ring) :
    let t := (setRing s r x); t.pending = s.pending ∧ t.timebase = s.timebase ∧ t.freeCtr = s.freeCtr ∧ t.balls =
    s.balls ∧ t.fuses = s.fuses ∧ t.glob = s.glob ∧ t.latch = s.latch ∧ t.mem = s.mem ∧ t.hostMem = s.hostMem ∧
    t.vents = s.vents ∧ t.cals = s.cals ∧ t.power = s.power ∧ t.ports = s.ports ∧ t.subs = s.subs ∧ t.mgmt = s.mgmt
    ∧ t.jtag = s.jtag ∧ t.store = s.store ∧ t.sets = s.sets ∧ t.path = s.path ∧ t.qm = s.qm ∧ t.glaze = s.glaze ∧
    t.easel = s.easel ∧ t.adm = s.adm ∧ t.mx = s.mx ∧ t.hbm = s.hbm := by simp [setRing]
@[simp] theorem delRing_frame (s : State) (r : Nat) :
    let t := (delRing s r); t.pending = s.pending ∧ t.timebase = s.timebase ∧ t.freeCtr = s.freeCtr ∧ t.balls =
    s.balls ∧ t.fuses = s.fuses ∧ t.glob = s.glob ∧ t.latch = s.latch ∧ t.mem = s.mem ∧ t.hostMem = s.hostMem ∧
    t.vents = s.vents ∧ t.cals = s.cals ∧ t.power = s.power ∧ t.ports = s.ports ∧ t.subs = s.subs ∧ t.mgmt = s.mgmt
    ∧ t.jtag = s.jtag ∧ t.store = s.store ∧ t.sets = s.sets ∧ t.path = s.path ∧ t.qm = s.qm ∧ t.glaze = s.glaze ∧
    t.easel = s.easel ∧ t.adm = s.adm ∧ t.mx = s.mx ∧ t.hbm = s.hbm := by simp [delRing]
@[simp] theorem updFunc_frame (s : State) (f : Nat) (g : Func → Func) :
    let t := (updFunc s f g); t.pending = s.pending ∧ t.timebase = s.timebase ∧ t.freeCtr = s.freeCtr ∧ t.balls =
    s.balls ∧ t.fuses = s.fuses ∧ t.glob = s.glob ∧ t.latch = s.latch ∧ t.mem = s.mem ∧ t.hostMem = s.hostMem ∧
    t.vents = s.vents ∧ t.cals = s.cals ∧ t.power = s.power ∧ t.ports = s.ports ∧ t.subs = s.subs ∧ t.mgmt = s.mgmt
    ∧ t.jtag = s.jtag ∧ t.store = s.store ∧ t.sets = s.sets ∧ t.path = s.path ∧ t.qm = s.qm ∧ t.glaze = s.glaze ∧
    t.easel = s.easel ∧ t.adm = s.adm ∧ t.mx = s.mx ∧ t.hbm = s.hbm := by simp [updFunc]
@[simp] theorem hostAsk_frame (s : State) (f : Nat) (ns wr : Bool) (a n : Nat) :
    let t := (hostAsk s f ns wr a n); t.pending = s.pending ∧ t.timebase = s.timebase ∧ t.freeCtr = s.freeCtr ∧
    t.balls = s.balls ∧ t.fuses = s.fuses ∧ t.glob = s.glob ∧ t.latch = s.latch ∧ t.mem = s.mem ∧ t.hostMem =
    s.hostMem ∧ t.vents = s.vents ∧ t.cals = s.cals ∧ t.power = s.power ∧ t.ports = s.ports ∧ t.subs = s.subs ∧
    t.mgmt = s.mgmt ∧ t.jtag = s.jtag ∧ t.store = s.store ∧ t.sets = s.sets ∧ t.path = s.path ∧ t.qm = s.qm ∧
    t.glaze = s.glaze ∧ t.easel = s.easel ∧ t.adm = s.adm ∧ t.mx = s.mx ∧ t.hbm = s.hbm := by simp [hostAsk]
@[simp] theorem hostPut_frame (s : State) (f : Nat) (ns : Bool) (a : Nat) (bs : List Byte) :
    let t := (hostPut s f ns a bs); t.pending = s.pending ∧ t.timebase = s.timebase ∧ t.freeCtr = s.freeCtr ∧
    t.balls = s.balls ∧ t.fuses = s.fuses ∧ t.glob = s.glob ∧ t.latch = s.latch ∧ t.mem = s.mem ∧ t.vents = s.vents
    ∧ t.cals = s.cals ∧ t.power = s.power ∧ t.ports = s.ports ∧ t.subs = s.subs ∧ t.mgmt = s.mgmt ∧ t.jtag = s.jtag
    ∧ t.store = s.store ∧ t.sets = s.sets ∧ t.path = s.path ∧ t.qm = s.qm ∧ t.glaze = s.glaze ∧ t.easel = s.easel ∧
    t.adm = s.adm ∧ t.mx = s.mx ∧ t.hbm = s.hbm := by simp [hostPut]
@[simp] theorem hbErr_frame (s : State) (b : Nat) :
    let t := (hbErr s b); t.pending = s.pending ∧ t.timebase = s.timebase ∧ t.freeCtr = s.freeCtr ∧ t.balls =
    s.balls ∧ t.fuses = s.fuses ∧ t.glob = s.glob ∧ t.latch = s.latch ∧ t.mem = s.mem ∧ t.hostMem = s.hostMem ∧
    t.vents = s.vents ∧ t.cals = s.cals ∧ t.power = s.power ∧ t.ports = s.ports ∧ t.subs = s.subs ∧ t.mgmt = s.mgmt
    ∧ t.jtag = s.jtag ∧ t.store = s.store ∧ t.sets = s.sets ∧ t.path = s.path ∧ t.qm = s.qm ∧ t.glaze = s.glaze ∧
    t.easel = s.easel ∧ t.adm = s.adm ∧ t.mx = s.mx ∧ t.hbm = s.hbm := by simp [hbErr]
@[simp] theorem hostReadFail_frame (s : State) (addr : Nat) :
    let t := (hostReadFail s addr); t.pending = s.pending ∧ t.timebase = s.timebase ∧ t.freeCtr = s.freeCtr ∧
    t.balls = s.balls ∧ t.fuses = s.fuses ∧ t.glob = s.glob ∧ t.latch = s.latch ∧ t.mem = s.mem ∧ t.hostMem =
    s.hostMem ∧ t.vents = s.vents ∧ t.cals = s.cals ∧ t.power = s.power ∧ t.ports = s.ports ∧ t.subs = s.subs ∧
    t.mgmt = s.mgmt ∧ t.jtag = s.jtag ∧ t.store = s.store ∧ t.sets = s.sets ∧ t.path = s.path ∧ t.qm = s.qm ∧
    t.glaze = s.glaze ∧ t.easel = s.easel ∧ t.adm = s.adm ∧ t.mx = s.mx ∧ t.hbm = s.hbm := by simp [hostReadFail]
@[simp] theorem aerSet_frame (s : State) (b : Nat) :
    let t := (aerSet s b); t.pending = s.pending ∧ t.timebase = s.timebase ∧ t.freeCtr = s.freeCtr ∧ t.balls =
    s.balls ∧ t.fuses = s.fuses ∧ t.glob = s.glob ∧ t.latch = s.latch ∧ t.mem = s.mem ∧ t.hostMem = s.hostMem ∧
    t.vents = s.vents ∧ t.cals = s.cals ∧ t.power = s.power ∧ t.ports = s.ports ∧ t.subs = s.subs ∧ t.mgmt = s.mgmt
    ∧ t.jtag = s.jtag ∧ t.store = s.store ∧ t.sets = s.sets ∧ t.path = s.path ∧ t.qm = s.qm ∧ t.glaze = s.glaze ∧
    t.easel = s.easel ∧ t.adm = s.adm ∧ t.mx = s.mx ∧ t.hbm = s.hbm := by simp [aerSet]
@[simp] theorem hostReadBad_frame (s : State) (addr : Nat) :
    let t := (hostReadBad s addr); t.pending = s.pending ∧ t.timebase = s.timebase ∧ t.freeCtr = s.freeCtr ∧ t.balls
    = s.balls ∧ t.fuses = s.fuses ∧ t.glob = s.glob ∧ t.latch = s.latch ∧ t.mem = s.mem ∧ t.hostMem = s.hostMem ∧
    t.vents = s.vents ∧ t.cals = s.cals ∧ t.power = s.power ∧ t.ports = s.ports ∧ t.subs = s.subs ∧ t.mgmt = s.mgmt
    ∧ t.jtag = s.jtag ∧ t.store = s.store ∧ t.sets = s.sets ∧ t.path = s.path ∧ t.qm = s.qm ∧ t.glaze = s.glaze ∧
    t.easel = s.easel ∧ t.adm = s.adm ∧ t.mx = s.mx ∧ t.hbm = s.hbm := by simp [hostReadBad]
@[simp] theorem updVec_frame (s : State) (f v : Nat) (g : MsixVec → MsixVec) :
    let t := (updVec s f v g); t.pending = s.pending ∧ t.timebase = s.timebase ∧ t.freeCtr = s.freeCtr ∧ t.balls =
    s.balls ∧ t.fuses = s.fuses ∧ t.glob = s.glob ∧ t.latch = s.latch ∧ t.mem = s.mem ∧ t.hostMem = s.hostMem ∧
    t.vents = s.vents ∧ t.cals = s.cals ∧ t.power = s.power ∧ t.ports = s.ports ∧ t.subs = s.subs ∧ t.mgmt = s.mgmt
    ∧ t.jtag = s.jtag ∧ t.store = s.store ∧ t.sets = s.sets ∧ t.path = s.path ∧ t.qm = s.qm ∧ t.glaze = s.glaze ∧
    t.easel = s.easel ∧ t.adm = s.adm ∧ t.mx = s.mx ∧ t.hbm = s.hbm := by simp [updVec]
@[simp] theorem msixFire_frame (s : State) (f v : Nat) :
    let t := (msixFire s f v); t.pending = s.pending ∧ t.timebase = s.timebase ∧ t.freeCtr = s.freeCtr ∧ t.balls =
    s.balls ∧ t.fuses = s.fuses ∧ t.glob = s.glob ∧ t.latch = s.latch ∧ t.mem = s.mem ∧ t.hostMem = s.hostMem ∧
    t.vents = s.vents ∧ t.cals = s.cals ∧ t.power = s.power ∧ t.ports = s.ports ∧ t.subs = s.subs ∧ t.mgmt = s.mgmt
    ∧ t.jtag = s.jtag ∧ t.store = s.store ∧ t.sets = s.sets ∧ t.path = s.path ∧ t.qm = s.qm ∧ t.glaze = s.glaze ∧
    t.easel = s.easel ∧ t.adm = s.adm ∧ t.mx = s.mx ∧ t.hbm = s.hbm := by simp [msixFire]
@[simp] theorem msixCount_frame (s0 : State) (f v : Nat) :
    let t := (msixCount s0 f v); t.pending = s0.pending ∧ t.timebase = s0.timebase ∧ t.freeCtr = s0.freeCtr ∧
    t.balls = s0.balls ∧ t.fuses = s0.fuses ∧ t.glob = s0.glob ∧ t.latch = s0.latch ∧ t.mem = s0.mem ∧ t.hostMem =
    s0.hostMem ∧ t.vents = s0.vents ∧ t.cals = s0.cals ∧ t.power = s0.power ∧ t.ports = s0.ports ∧ t.subs = s0.subs
    ∧ t.mgmt = s0.mgmt ∧ t.jtag = s0.jtag ∧ t.store = s0.store ∧ t.sets = s0.sets ∧ t.path = s0.path ∧ t.qm = s0.qm
    ∧ t.glaze = s0.glaze ∧ t.easel = s0.easel ∧ t.adm = s0.adm ∧ t.mx = s0.mx ∧ t.hbm = s0.hbm := by simp [msixCount]
@[simp] theorem msixRelease_frame (s : State) (f v : Nat) :
    let t := (msixRelease s f v); t.pending = s.pending ∧ t.timebase = s.timebase ∧ t.freeCtr = s.freeCtr ∧ t.balls
    = s.balls ∧ t.fuses = s.fuses ∧ t.glob = s.glob ∧ t.latch = s.latch ∧ t.mem = s.mem ∧ t.hostMem = s.hostMem ∧
    t.vents = s.vents ∧ t.cals = s.cals ∧ t.power = s.power ∧ t.ports = s.ports ∧ t.subs = s.subs ∧ t.mgmt = s.mgmt
    ∧ t.jtag = s.jtag ∧ t.store = s.store ∧ t.sets = s.sets ∧ t.path = s.path ∧ t.qm = s.qm ∧ t.glaze = s.glaze ∧
    t.easel = s.easel ∧ t.adm = s.adm ∧ t.mx = s.mx ∧ t.hbm = s.hbm := by simp [msixRelease]
@[simp] theorem msixReleaseAll_frame (s : State) (f : Nat) :
    let t := (msixReleaseAll s f); t.pending = s.pending ∧ t.timebase = s.timebase ∧ t.freeCtr = s.freeCtr ∧ t.balls
    = s.balls ∧ t.fuses = s.fuses ∧ t.glob = s.glob ∧ t.latch = s.latch ∧ t.mem = s.mem ∧ t.hostMem = s.hostMem ∧
    t.vents = s.vents ∧ t.cals = s.cals ∧ t.power = s.power ∧ t.ports = s.ports ∧ t.subs = s.subs ∧ t.mgmt = s.mgmt
    ∧ t.jtag = s.jtag ∧ t.store = s.store ∧ t.sets = s.sets ∧ t.path = s.path ∧ t.qm = s.qm ∧ t.glaze = s.glaze ∧
    t.easel = s.easel ∧ t.adm = s.adm ∧ t.mx = s.mx ∧ t.hbm = s.hbm := by simp [msixReleaseAll]
@[simp] theorem ringWrite_frame (s : State) (r : Nat) (e : BitVec 128) :
    let t := (ringWrite s r e); t.pending = s.pending ∧ t.timebase = s.timebase ∧ t.freeCtr = s.freeCtr ∧ t.balls =
    s.balls ∧ t.fuses = s.fuses ∧ t.glob = s.glob ∧ t.latch = s.latch ∧ t.mem = s.mem ∧ t.vents = s.vents ∧ t.cals =
    s.cals ∧ t.power = s.power ∧ t.ports = s.ports ∧ t.subs = s.subs ∧ t.mgmt = s.mgmt ∧ t.jtag = s.jtag ∧ t.store =
    s.store ∧ t.sets = s.sets ∧ t.path = s.path ∧ t.qm = s.qm ∧ t.glaze = s.glaze ∧ t.easel = s.easel ∧ t.adm =
    s.adm ∧ t.mx = s.mx ∧ t.hbm = s.hbm := by
  unfold ringWrite
  (repeat' split) <;> simp
@[simp] theorem writeHeld_frame (f r : Nat) (n0 : Nat) (s : State) :
    let t := (writeHeld f r n0 s); t.pending = s.pending ∧ t.timebase = s.timebase ∧ t.freeCtr = s.freeCtr ∧ t.balls
    = s.balls ∧ t.fuses = s.fuses ∧ t.glob = s.glob ∧ t.latch = s.latch ∧ t.mem = s.mem ∧ t.vents = s.vents ∧ t.cals
    = s.cals ∧ t.power = s.power ∧ t.ports = s.ports ∧ t.subs = s.subs ∧ t.mgmt = s.mgmt ∧ t.jtag = s.jtag ∧ t.store
    = s.store ∧ t.sets = s.sets ∧ t.path = s.path ∧ t.qm = s.qm ∧ t.glaze = s.glaze ∧ t.easel = s.easel ∧ t.adm =
    s.adm ∧ t.mx = s.mx ∧ t.hbm = s.hbm := by
  induction n0 generalizing s with
  | zero => simp [writeHeld]
  | succ n ih => unfold writeHeld; (repeat' (first | (split <;> try (rename_i h; first | (have e := pair_third h; clear h; subst e) | (have e := pair_snd h; have e2 := pair_fst h; clear h; subst e; try subst e2) | (have e := pair_fst h; clear h; subst e))) | (dsimp only; split))) <;> simp [ih]
@[simp] theorem flushEvents_frame (s : State) (f : Nat) :
    let t := (flushEvents s f); t.pending = s.pending ∧ t.timebase = s.timebase ∧ t.freeCtr = s.freeCtr ∧ t.balls =
    s.balls ∧ t.fuses = s.fuses ∧ t.glob = s.glob ∧ t.latch = s.latch ∧ t.mem = s.mem ∧ t.vents = s.vents ∧ t.cals =
    s.cals ∧ t.power = s.power ∧ t.ports = s.ports ∧ t.subs = s.subs ∧ t.mgmt = s.mgmt ∧ t.jtag = s.jtag ∧ t.store =
    s.store ∧ t.sets = s.sets ∧ t.path = s.path ∧ t.qm = s.qm ∧ t.glaze = s.glaze ∧ t.easel = s.easel ∧ t.adm =
    s.adm ∧ t.mx = s.mx ∧ t.hbm = s.hbm := by
  unfold flushEvents
  (repeat' (first | (split <;> try (rename_i h; first | (have e := pair_third h; clear h; subst e) | (have e := pair_snd h; have e2 := pair_fst h; clear h; subst e; try subst e2) | (have e := pair_fst h; clear h; subst e))) | (dsimp only; split))) <;> simp
@[simp] theorem postEvent_frame (s : State) (f src code arg : Nat) :
    let t := (postEvent s f src code arg); t.pending = s.pending ∧ t.timebase = s.timebase ∧ t.freeCtr = s.freeCtr ∧
    t.balls = s.balls ∧ t.fuses = s.fuses ∧ t.glob = s.glob ∧ t.latch = s.latch ∧ t.mem = s.mem ∧ t.vents = s.vents
    ∧ t.cals = s.cals ∧ t.power = s.power ∧ t.ports = s.ports ∧ t.subs = s.subs ∧ t.mgmt = s.mgmt ∧ t.jtag = s.jtag
    ∧ t.store = s.store ∧ t.sets = s.sets ∧ t.path = s.path ∧ t.qm = s.qm ∧ t.glaze = s.glaze ∧ t.easel = s.easel ∧
    t.adm = s.adm ∧ t.mx = s.mx ∧ t.hbm = s.hbm := by simp [postEvent]
@[simp] theorem keyEvent_frame (s : State) (code ctx slot : Nat) :
    let t := (keyEvent s code ctx slot); t.pending = s.pending ∧ t.timebase = s.timebase ∧ t.freeCtr = s.freeCtr ∧
    t.balls = s.balls ∧ t.fuses = s.fuses ∧ t.glob = s.glob ∧ t.latch = s.latch ∧ t.mem = s.mem ∧ t.vents = s.vents
    ∧ t.cals = s.cals ∧ t.power = s.power ∧ t.ports = s.ports ∧ t.subs = s.subs ∧ t.mgmt = s.mgmt ∧ t.jtag = s.jtag
    ∧ t.store = s.store ∧ t.sets = s.sets ∧ t.path = s.path ∧ t.qm = s.qm ∧ t.glaze = s.glaze ∧ t.easel = s.easel ∧
    t.adm = s.adm ∧ t.mx = s.mx ∧ t.hbm = s.hbm := by simp [keyEvent]
@[simp] theorem updCmd_frame (s : State) (id : Nat) (g : AdmCmd → AdmCmd) :
    let t := (updCmd s id g); t.pending = s.pending ∧ t.timebase = s.timebase ∧ t.freeCtr = s.freeCtr ∧ t.balls =
    s.balls ∧ t.fuses = s.fuses ∧ t.glob = s.glob ∧ t.latch = s.latch ∧ t.mem = s.mem ∧ t.hostMem = s.hostMem ∧
    t.vents = s.vents ∧ t.cals = s.cals ∧ t.power = s.power ∧ t.ports = s.ports ∧ t.subs = s.subs ∧ t.mgmt = s.mgmt
    ∧ t.jtag = s.jtag ∧ t.store = s.store ∧ t.sets = s.sets ∧ t.path = s.path ∧ t.qm = s.qm ∧ t.glaze = s.glaze ∧
    t.easel = s.easel ∧ t.hb = s.hb ∧ t.mx = s.mx ∧ t.hbm = s.hbm := by simp [updCmd]
@[simp] theorem admEnd_frame (s : State) (id status detail result : Nat) :
    let t := (admEnd s id status detail result); t.pending = s.pending ∧ t.timebase = s.timebase ∧ t.freeCtr =
    s.freeCtr ∧ t.balls = s.balls ∧ t.fuses = s.fuses ∧ t.glob = s.glob ∧ t.latch = s.latch ∧ t.mem = s.mem ∧
    t.hostMem = s.hostMem ∧ t.vents = s.vents ∧ t.cals = s.cals ∧ t.power = s.power ∧ t.ports = s.ports ∧ t.subs =
    s.subs ∧ t.mgmt = s.mgmt ∧ t.jtag = s.jtag ∧ t.store = s.store ∧ t.sets = s.sets ∧ t.path = s.path ∧ t.qm = s.qm
    ∧ t.glaze = s.glaze ∧ t.easel = s.easel ∧ t.hb = s.hb ∧ t.mx = s.mx ∧ t.hbm = s.hbm := by simp [admEnd]
@[simp] theorem easelErr_frame (s : State) (b : Nat) :
    let t := (easelErr s b); t.pending = s.pending ∧ t.timebase = s.timebase ∧ t.freeCtr = s.freeCtr ∧ t.balls =
    s.balls ∧ t.fuses = s.fuses ∧ t.glob = s.glob ∧ t.latch = s.latch ∧ t.mem = s.mem ∧ t.hostMem = s.hostMem ∧
    t.vents = s.vents ∧ t.cals = s.cals ∧ t.power = s.power ∧ t.ports = s.ports ∧ t.subs = s.subs ∧ t.mgmt = s.mgmt
    ∧ t.jtag = s.jtag ∧ t.store = s.store ∧ t.sets = s.sets ∧ t.path = s.path ∧ t.qm = s.qm ∧ t.glaze = s.glaze ∧
    t.hb = s.hb ∧ t.adm = s.adm ∧ t.mx = s.mx ∧ t.hbm = s.hbm := by simp [easelErr]
@[simp] theorem markLate_frame (s : State) (v : Nat) (m : Migration) :
    let t := (markLate s v m); t.pending = s.pending ∧ t.timebase = s.timebase ∧ t.freeCtr = s.freeCtr ∧ t.balls =
    s.balls ∧ t.fuses = s.fuses ∧ t.glob = s.glob ∧ t.latch = s.latch ∧ t.mem = s.mem ∧ t.vents = s.vents ∧ t.cals =
    s.cals ∧ t.power = s.power ∧ t.ports = s.ports ∧ t.subs = s.subs ∧ t.mgmt = s.mgmt ∧ t.jtag = s.jtag ∧ t.store =
    s.store ∧ t.sets = s.sets ∧ t.path = s.path ∧ t.qm = s.qm ∧ t.glaze = s.glaze ∧ t.adm = s.adm ∧ t.mx = s.mx ∧
    t.hbm = s.hbm := by simp [markLate]
@[simp] theorem marksLate_frame (s : State) (v : Nat) :
    let t := (marksLate s v); t.pending = s.pending ∧ t.timebase = s.timebase ∧ t.freeCtr = s.freeCtr ∧ t.balls =
    s.balls ∧ t.fuses = s.fuses ∧ t.glob = s.glob ∧ t.latch = s.latch ∧ t.mem = s.mem ∧ t.vents = s.vents ∧ t.cals =
    s.cals ∧ t.power = s.power ∧ t.ports = s.ports ∧ t.subs = s.subs ∧ t.mgmt = s.mgmt ∧ t.jtag = s.jtag ∧ t.store =
    s.store ∧ t.sets = s.sets ∧ t.path = s.path ∧ t.qm = s.qm ∧ t.glaze = s.glaze ∧ t.adm = s.adm ∧ t.mx = s.mx ∧
    t.hbm = s.hbm := by simp [marksLate]
@[simp] theorem resetVent_frame (s : State) (v : Nat) :
    let t := (resetVent s v); t.pending = s.pending ∧ t.timebase = s.timebase ∧ t.freeCtr = s.freeCtr ∧ t.balls =
    s.balls ∧ t.fuses = s.fuses ∧ t.glob = s.glob ∧ t.latch = s.latch ∧ t.mem = s.mem ∧ t.cals = s.cals ∧ t.power =
    s.power ∧ t.ports = s.ports ∧ t.subs = s.subs ∧ t.mgmt = s.mgmt ∧ t.jtag = s.jtag ∧ t.sets = s.sets ∧ t.path =
    s.path ∧ t.qm = s.qm ∧ t.glaze = s.glaze ∧ t.adm = s.adm ∧ t.mx = s.mx ∧ t.hbm = s.hbm := by simp [resetVent]
@[simp] theorem countDrop_frame (s : State) (src code : Nat) :
    let t := (countDrop s src code); t.pending = s.pending ∧ t.timebase = s.timebase ∧ t.freeCtr = s.freeCtr ∧
    t.balls = s.balls ∧ t.fuses = s.fuses ∧ t.glob = s.glob ∧ t.latch = s.latch ∧ t.mem = s.mem ∧ t.hostMem =
    s.hostMem ∧ t.vents = s.vents ∧ t.cals = s.cals ∧ t.power = s.power ∧ t.ports = s.ports ∧ t.subs = s.subs ∧
    t.mgmt = s.mgmt ∧ t.jtag = s.jtag ∧ t.store = s.store ∧ t.sets = s.sets ∧ t.qm = s.qm ∧ t.glaze = s.glaze ∧
    t.easel = s.easel ∧ t.hb = s.hb ∧ t.adm = s.adm ∧ t.mx = s.mx ∧ t.hbm = s.hbm := by simp [countDrop]

/-! ### Machine/Store.lean -/

@[simp] theorem updCtx_frame (s : State) (c : Nat) (g : CtxRec → CtxRec) :
    let t := (updCtx s c g); t.pending = s.pending ∧ t.timebase = s.timebase ∧ t.freeCtr = s.freeCtr ∧ t.balls =
    s.balls ∧ t.fuses = s.fuses ∧ t.glob = s.glob ∧ t.latch = s.latch ∧ t.mem = s.mem ∧ t.hostMem = s.hostMem ∧
    t.vents = s.vents ∧ t.cals = s.cals ∧ t.power = s.power ∧ t.ports = s.ports ∧ t.subs = s.subs ∧ t.mgmt = s.mgmt
    ∧ t.jtag = s.jtag ∧ t.sets = s.sets ∧ t.path = s.path ∧ t.qm = s.qm ∧ t.glaze = s.glaze ∧ t.easel = s.easel ∧
    t.hb = s.hb ∧ t.adm = s.adm ∧ t.mx = s.mx ∧ t.hbm = s.hbm := by simp [updCtx]
@[simp] theorem updSlot_frame (s : State) (c k : Nat) (g : SlotMeta → SlotMeta) :
    let t := (updSlot s c k g); t.pending = s.pending ∧ t.timebase = s.timebase ∧ t.freeCtr = s.freeCtr ∧ t.balls =
    s.balls ∧ t.fuses = s.fuses ∧ t.glob = s.glob ∧ t.latch = s.latch ∧ t.mem = s.mem ∧ t.hostMem = s.hostMem ∧
    t.vents = s.vents ∧ t.cals = s.cals ∧ t.power = s.power ∧ t.ports = s.ports ∧ t.subs = s.subs ∧ t.mgmt = s.mgmt
    ∧ t.jtag = s.jtag ∧ t.sets = s.sets ∧ t.path = s.path ∧ t.qm = s.qm ∧ t.glaze = s.glaze ∧ t.easel = s.easel ∧
    t.hb = s.hb ∧ t.adm = s.adm ∧ t.mx = s.mx ∧ t.hbm = s.hbm := by simp [updSlot]
@[simp] theorem setKey_frame (s : State) (c k : Nat) (x : KeySlot) :
    let t := (setKey s c k x); t.pending = s.pending ∧ t.timebase = s.timebase ∧ t.freeCtr = s.freeCtr ∧ t.balls =
    s.balls ∧ t.fuses = s.fuses ∧ t.glob = s.glob ∧ t.latch = s.latch ∧ t.mem = s.mem ∧ t.hostMem = s.hostMem ∧
    t.vents = s.vents ∧ t.cals = s.cals ∧ t.power = s.power ∧ t.ports = s.ports ∧ t.subs = s.subs ∧ t.mgmt = s.mgmt
    ∧ t.jtag = s.jtag ∧ t.sets = s.sets ∧ t.path = s.path ∧ t.qm = s.qm ∧ t.glaze = s.glaze ∧ t.easel = s.easel ∧
    t.hb = s.hb ∧ t.adm = s.adm ∧ t.mx = s.mx ∧ t.hbm = s.hbm := by simp [setKey]
@[simp] theorem ctxErr_frame (s : State) (b : Nat) :
    let t := (ctxErr s b); t.pending = s.pending ∧ t.timebase = s.timebase ∧ t.freeCtr = s.freeCtr ∧ t.balls =
    s.balls ∧ t.fuses = s.fuses ∧ t.glob = s.glob ∧ t.latch = s.latch ∧ t.mem = s.mem ∧ t.hostMem = s.hostMem ∧
    t.vents = s.vents ∧ t.cals = s.cals ∧ t.power = s.power ∧ t.ports = s.ports ∧ t.subs = s.subs ∧ t.mgmt = s.mgmt
    ∧ t.jtag = s.jtag ∧ t.sets = s.sets ∧ t.path = s.path ∧ t.qm = s.qm ∧ t.glaze = s.glaze ∧ t.easel = s.easel ∧
    t.hb = s.hb ∧ t.adm = s.adm ∧ t.mx = s.mx ∧ t.hbm = s.hbm := by simp [ctxErr]
@[simp] theorem softNum_frame (s : State) (c k : Nat) (e : Bool) (n : Nat) :
    let t := (softNum s c k e n); t.pending = s.pending ∧ t.timebase = s.timebase ∧ t.freeCtr = s.freeCtr ∧ t.balls
    = s.balls ∧ t.fuses = s.fuses ∧ t.glob = s.glob ∧ t.latch = s.latch ∧ t.mem = s.mem ∧ t.vents = s.vents ∧ t.cals
    = s.cals ∧ t.power = s.power ∧ t.ports = s.ports ∧ t.subs = s.subs ∧ t.mgmt = s.mgmt ∧ t.jtag = s.jtag ∧ t.sets
    = s.sets ∧ t.path = s.path ∧ t.qm = s.qm ∧ t.glaze = s.glaze ∧ t.easel = s.easel ∧ t.adm = s.adm ∧ t.mx = s.mx ∧
    t.hbm = s.hbm := by simp [softNum]
@[simp] theorem makeSpent_frame (s : State) (c k : Nat) :
    let t := (makeSpent s c k); t.pending = s.pending ∧ t.timebase = s.timebase ∧ t.freeCtr = s.freeCtr ∧ t.balls =
    s.balls ∧ t.fuses = s.fuses ∧ t.glob = s.glob ∧ t.latch = s.latch ∧ t.mem = s.mem ∧ t.vents = s.vents ∧ t.cals =
    s.cals ∧ t.power = s.power ∧ t.ports = s.ports ∧ t.subs = s.subs ∧ t.mgmt = s.mgmt ∧ t.jtag = s.jtag ∧ t.sets =
    s.sets ∧ t.path = s.path ∧ t.qm = s.qm ∧ t.glaze = s.glaze ∧ t.easel = s.easel ∧ t.adm = s.adm ∧ t.mx = s.mx ∧
    t.hbm = s.hbm := by simp [makeSpent]
@[simp] theorem takeNum_frame (s : State) (c k : Nat) (e : Bool) :
    let t := (takeNum s c k e).1; t.pending = s.pending ∧ t.timebase = s.timebase ∧ t.freeCtr = s.freeCtr ∧ t.balls
    = s.balls ∧ t.fuses = s.fuses ∧ t.glob = s.glob ∧ t.latch = s.latch ∧ t.mem = s.mem ∧ t.vents = s.vents ∧ t.cals
    = s.cals ∧ t.power = s.power ∧ t.ports = s.ports ∧ t.subs = s.subs ∧ t.mgmt = s.mgmt ∧ t.jtag = s.jtag ∧ t.sets
    = s.sets ∧ t.path = s.path ∧ t.qm = s.qm ∧ t.glaze = s.glaze ∧ t.easel = s.easel ∧ t.adm = s.adm ∧ t.mx = s.mx ∧
    t.hbm = s.hbm := by simp [takeNum]
@[simp] theorem takeNone_frame (s : State) :
    let t := (takeNone s).1; t.pending = s.pending ∧ t.timebase = s.timebase ∧ t.balls = s.balls ∧ t.fuses = s.fuses
    ∧ t.glob = s.glob ∧ t.latch = s.latch ∧ t.mem = s.mem ∧ t.hostMem = s.hostMem ∧ t.vents = s.vents ∧ t.cals =
    s.cals ∧ t.power = s.power ∧ t.ports = s.ports ∧ t.subs = s.subs ∧ t.mgmt = s.mgmt ∧ t.jtag = s.jtag ∧ t.store =
    s.store ∧ t.sets = s.sets ∧ t.path = s.path ∧ t.qm = s.qm ∧ t.glaze = s.glaze ∧ t.easel = s.easel ∧ t.hb = s.hb
    ∧ t.adm = s.adm ∧ t.mx = s.mx ∧ t.hbm = s.hbm := by simp [takeNone]
@[simp] theorem kcTake_frame (s : State) (c : Nat) (e : Bool) (t : Nat) :
    let t := (kcTake s c e t).1; t.pending = s.pending ∧ t.timebase = s.timebase ∧ t.balls = s.balls ∧ t.fuses =
    s.fuses ∧ t.glob = s.glob ∧ t.latch = s.latch ∧ t.mem = s.mem ∧ t.vents = s.vents ∧ t.cals = s.cals ∧ t.power =
    s.power ∧ t.ports = s.ports ∧ t.subs = s.subs ∧ t.mgmt = s.mgmt ∧ t.jtag = s.jtag ∧ t.sets = s.sets ∧ t.path =
    s.path ∧ t.qm = s.qm ∧ t.glaze = s.glaze ∧ t.easel = s.easel ∧ t.adm = s.adm ∧ t.mx = s.mx ∧ t.hbm = s.hbm := by
  unfold kcTake
  (repeat' (first | (split <;> try (rename_i h; first | (have e := pair_third h; clear h; subst e) | (have e := pair_snd h; have e2 := pair_fst h; clear h; subst e; try subst e2) | (have e := pair_fst h; clear h; subst e))) | (dsimp only; split))) <;> simp
@[simp] theorem txTakeOne_frame (s : State) (v : Nat) :
    let t := (txTakeOne s v); t.pending = s.pending ∧ t.timebase = s.timebase ∧ t.balls = s.balls ∧ t.fuses =
    s.fuses ∧ t.glob = s.glob ∧ t.latch = s.latch ∧ t.mem = s.mem ∧ t.vents = s.vents ∧ t.cals = s.cals ∧ t.power =
    s.power ∧ t.ports = s.ports ∧ t.subs = s.subs ∧ t.mgmt = s.mgmt ∧ t.jtag = s.jtag ∧ t.sets = s.sets ∧ t.path =
    s.path ∧ t.qm = s.qm ∧ t.glaze = s.glaze ∧ t.easel = s.easel ∧ t.adm = s.adm ∧ t.mx = s.mx ∧ t.hbm = s.hbm := by simp [txTakeOne]
@[simp] theorem txFlush_frame (s : State) :
    let t := (txFlush s); t.pending = s.pending ∧ t.timebase = s.timebase ∧ t.balls = s.balls ∧ t.fuses = s.fuses ∧
    t.glob = s.glob ∧ t.latch = s.latch ∧ t.mem = s.mem ∧ t.vents = s.vents ∧ t.cals = s.cals ∧ t.power = s.power ∧
    t.ports = s.ports ∧ t.subs = s.subs ∧ t.mgmt = s.mgmt ∧ t.jtag = s.jtag ∧ t.sets = s.sets ∧ t.path = s.path ∧
    t.qm = s.qm ∧ t.glaze = s.glaze ∧ t.easel = s.easel ∧ t.adm = s.adm ∧ t.mx = s.mx ∧ t.hbm = s.hbm := by simp [txFlush]
@[simp] theorem txTakeDo_frame (s : State) (v : Nat) :
    let t := (txTakeDo s v); t.pending = s.pending ∧ t.timebase = s.timebase ∧ t.balls = s.balls ∧ t.fuses = s.fuses
    ∧ t.glob = s.glob ∧ t.latch = s.latch ∧ t.mem = s.mem ∧ t.vents = s.vents ∧ t.cals = s.cals ∧ t.power = s.power
    ∧ t.ports = s.ports ∧ t.subs = s.subs ∧ t.mgmt = s.mgmt ∧ t.jtag = s.jtag ∧ t.sets = s.sets ∧ t.path = s.path ∧
    t.qm = s.qm ∧ t.glaze = s.glaze ∧ t.easel = s.easel ∧ t.adm = s.adm ∧ t.mx = s.mx ∧ t.hbm = s.hbm := by simp [txTakeDo]
@[simp] theorem countFinal_frame (s : State) (w : Nat) :
    let t := (countFinal s w); t.pending = s.pending ∧ t.timebase = s.timebase ∧ t.freeCtr = s.freeCtr ∧ t.balls =
    s.balls ∧ t.fuses = s.fuses ∧ t.glob = s.glob ∧ t.latch = s.latch ∧ t.mem = s.mem ∧ t.hostMem = s.hostMem ∧
    t.vents = s.vents ∧ t.cals = s.cals ∧ t.power = s.power ∧ t.ports = s.ports ∧ t.subs = s.subs ∧ t.mgmt = s.mgmt
    ∧ t.jtag = s.jtag ∧ t.sets = s.sets ∧ t.path = s.path ∧ t.qm = s.qm ∧ t.glaze = s.glaze ∧ t.easel = s.easel ∧
    t.hb = s.hb ∧ t.adm = s.adm ∧ t.mx = s.mx ∧ t.hbm = s.hbm := by simp [countFinal]
@[simp] theorem setWin_frame (s : State) (c k : Nat) (w : WinWord) :
    let t := (setWin s c k w); t.pending = s.pending ∧ t.timebase = s.timebase ∧ t.freeCtr = s.freeCtr ∧ t.balls =
    s.balls ∧ t.fuses = s.fuses ∧ t.glob = s.glob ∧ t.latch = s.latch ∧ t.mem = s.mem ∧ t.hostMem = s.hostMem ∧
    t.vents = s.vents ∧ t.cals = s.cals ∧ t.power = s.power ∧ t.ports = s.ports ∧ t.subs = s.subs ∧ t.mgmt = s.mgmt
    ∧ t.jtag = s.jtag ∧ t.sets = s.sets ∧ t.path = s.path ∧ t.qm = s.qm ∧ t.glaze = s.glaze ∧ t.easel = s.easel ∧
    t.hb = s.hb ∧ t.adm = s.adm ∧ t.mx = s.mx ∧ t.hbm = s.hbm := by simp [setWin]
@[simp] theorem reserveWin_frame (s : State) (c k : Nat) :
    let t := (reserveWin s c k); t.pending = s.pending ∧ t.timebase = s.timebase ∧ t.balls = s.balls ∧ t.fuses =
    s.fuses ∧ t.glob = s.glob ∧ t.latch = s.latch ∧ t.mem = s.mem ∧ t.hostMem = s.hostMem ∧ t.vents = s.vents ∧
    t.cals = s.cals ∧ t.power = s.power ∧ t.ports = s.ports ∧ t.subs = s.subs ∧ t.mgmt = s.mgmt ∧ t.jtag = s.jtag ∧
    t.sets = s.sets ∧ t.path = s.path ∧ t.qm = s.qm ∧ t.glaze = s.glaze ∧ t.easel = s.easel ∧ t.hb = s.hb ∧ t.adm =
    s.adm ∧ t.mx = s.mx ∧ t.hbm = s.hbm := by simp [reserveWin]
@[simp] theorem freeWin_frame (s : State) (c k : Nat) :
    let t := (freeWin s c k); t.pending = s.pending ∧ t.timebase = s.timebase ∧ t.freeCtr = s.freeCtr ∧ t.balls =
    s.balls ∧ t.fuses = s.fuses ∧ t.glob = s.glob ∧ t.latch = s.latch ∧ t.mem = s.mem ∧ t.hostMem = s.hostMem ∧
    t.vents = s.vents ∧ t.cals = s.cals ∧ t.power = s.power ∧ t.ports = s.ports ∧ t.subs = s.subs ∧ t.mgmt = s.mgmt
    ∧ t.jtag = s.jtag ∧ t.sets = s.sets ∧ t.path = s.path ∧ t.qm = s.qm ∧ t.glaze = s.glaze ∧ t.easel = s.easel ∧
    t.hb = s.hb ∧ t.adm = s.adm ∧ t.mx = s.mx ∧ t.hbm = s.hbm := by simp [freeWin]
@[simp] theorem setWinBits_frame (s : State) (w : Nat) (b : BitVec 1024) :
    let t := (setWinBits s w b); t.pending = s.pending ∧ t.timebase = s.timebase ∧ t.freeCtr = s.freeCtr ∧ t.balls =
    s.balls ∧ t.fuses = s.fuses ∧ t.glob = s.glob ∧ t.latch = s.latch ∧ t.mem = s.mem ∧ t.hostMem = s.hostMem ∧
    t.vents = s.vents ∧ t.cals = s.cals ∧ t.power = s.power ∧ t.ports = s.ports ∧ t.subs = s.subs ∧ t.mgmt = s.mgmt
    ∧ t.jtag = s.jtag ∧ t.sets = s.sets ∧ t.path = s.path ∧ t.qm = s.qm ∧ t.glaze = s.glaze ∧ t.easel = s.easel ∧
    t.hb = s.hb ∧ t.adm = s.adm ∧ t.mx = s.mx ∧ t.hbm = s.hbm := by simp [setWinBits]
@[simp] theorem finalCheck_frame (s : State) (c k : Nat) (e : Bool) (p : Nat) :
    let t := (finalCheck s c k e p).2; t.pending = s.pending ∧ t.timebase = s.timebase ∧ t.freeCtr = s.freeCtr ∧
    t.balls = s.balls ∧ t.fuses = s.fuses ∧ t.glob = s.glob ∧ t.latch = s.latch ∧ t.mem = s.mem ∧ t.vents = s.vents
    ∧ t.cals = s.cals ∧ t.power = s.power ∧ t.ports = s.ports ∧ t.subs = s.subs ∧ t.mgmt = s.mgmt ∧ t.jtag = s.jtag
    ∧ t.sets = s.sets ∧ t.path = s.path ∧ t.qm = s.qm ∧ t.glaze = s.glaze ∧ t.easel = s.easel ∧ t.adm = s.adm ∧ t.mx
    = s.mx ∧ t.hbm = s.hbm := by simp [finalCheck]
@[simp] theorem kcFinal_frame (s : State) (c k : Nat) (e : Bool) (p : Nat) :
    let t := (kcFinal s c k e p).2; t.pending = s.pending ∧ t.timebase = s.timebase ∧ t.balls = s.balls ∧ t.fuses =
    s.fuses ∧ t.glob = s.glob ∧ t.latch = s.latch ∧ t.mem = s.mem ∧ t.vents = s.vents ∧ t.cals = s.cals ∧ t.power =
    s.power ∧ t.ports = s.ports ∧ t.subs = s.subs ∧ t.mgmt = s.mgmt ∧ t.jtag = s.jtag ∧ t.sets = s.sets ∧ t.path =
    s.path ∧ t.qm = s.qm ∧ t.glaze = s.glaze ∧ t.easel = s.easel ∧ t.adm = s.adm ∧ t.mx = s.mx ∧ t.hbm = s.hbm := by simp [kcFinal]
@[simp] theorem keyInstall_frame (s : State) (c k : Nat) (x : KeySlot) (m : SlotMeta) (init : DWord) :
    let t := (keyInstall s c k x m init); t.pending = s.pending ∧ t.timebase = s.timebase ∧ t.freeCtr = s.freeCtr ∧
    t.balls = s.balls ∧ t.fuses = s.fuses ∧ t.glob = s.glob ∧ t.latch = s.latch ∧ t.mem = s.mem ∧ t.hostMem =
    s.hostMem ∧ t.vents = s.vents ∧ t.cals = s.cals ∧ t.power = s.power ∧ t.ports = s.ports ∧ t.subs = s.subs ∧
    t.mgmt = s.mgmt ∧ t.jtag = s.jtag ∧ t.sets = s.sets ∧ t.path = s.path ∧ t.qm = s.qm ∧ t.glaze = s.glaze ∧
    t.easel = s.easel ∧ t.hb = s.hb ∧ t.adm = s.adm ∧ t.mx = s.mx ∧ t.hbm = s.hbm := by simp [keyInstall]
@[simp] theorem keyEmpty_frame (s : State) (c k : Nat) :
    let t := (keyEmpty s c k); t.pending = s.pending ∧ t.timebase = s.timebase ∧ t.freeCtr = s.freeCtr ∧ t.balls =
    s.balls ∧ t.fuses = s.fuses ∧ t.glob = s.glob ∧ t.latch = s.latch ∧ t.mem = s.mem ∧ t.hostMem = s.hostMem ∧
    t.vents = s.vents ∧ t.cals = s.cals ∧ t.power = s.power ∧ t.ports = s.ports ∧ t.subs = s.subs ∧ t.mgmt = s.mgmt
    ∧ t.jtag = s.jtag ∧ t.sets = s.sets ∧ t.path = s.path ∧ t.qm = s.qm ∧ t.glaze = s.glaze ∧ t.easel = s.easel ∧
    t.hb = s.hb ∧ t.adm = s.adm ∧ t.mx = s.mx ∧ t.hbm = s.hbm := by simp [keyEmpty]
@[simp] theorem drainEnd_frame (s : State) (d : DrainJob) :
    let t := (drainEnd s d); t.pending = s.pending ∧ t.timebase = s.timebase ∧ t.freeCtr = s.freeCtr ∧ t.balls =
    s.balls ∧ t.fuses = s.fuses ∧ t.glob = s.glob ∧ t.latch = s.latch ∧ t.mem = s.mem ∧ t.hostMem = s.hostMem ∧
    t.vents = s.vents ∧ t.cals = s.cals ∧ t.power = s.power ∧ t.ports = s.ports ∧ t.subs = s.subs ∧ t.mgmt = s.mgmt
    ∧ t.jtag = s.jtag ∧ t.sets = s.sets ∧ t.path = s.path ∧ t.qm = s.qm ∧ t.glaze = s.glaze ∧ t.easel = s.easel ∧
    t.hb = s.hb ∧ t.mx = s.mx ∧ t.hbm = s.hbm := by
  unfold drainEnd
  (repeat' split) <;> simp
@[simp] theorem drainDone_frame (s : State) (c k : Nat) :
    let t := (drainDone s c k); t.pending = s.pending ∧ t.timebase = s.timebase ∧ t.balls = s.balls ∧ t.fuses =
    s.fuses ∧ t.glob = s.glob ∧ t.latch = s.latch ∧ t.mem = s.mem ∧ t.vents = s.vents ∧ t.cals = s.cals ∧ t.power =
    s.power ∧ t.ports = s.ports ∧ t.subs = s.subs ∧ t.mgmt = s.mgmt ∧ t.jtag = s.jtag ∧ t.sets = s.sets ∧ t.path =
    s.path ∧ t.qm = s.qm ∧ t.glaze = s.glaze ∧ t.easel = s.easel ∧ t.mx = s.mx ∧ t.hbm = s.hbm := by
  unfold drainDone
  (repeat' split) <;> simp
@[simp] theorem drainStart_frame (s : State) (d : DrainJob) :
    let t := (drainStart s d); t.pending = s.pending ∧ t.timebase = s.timebase ∧ t.freeCtr = s.freeCtr ∧ t.balls =
    s.balls ∧ t.fuses = s.fuses ∧ t.glob = s.glob ∧ t.latch = s.latch ∧ t.mem = s.mem ∧ t.hostMem = s.hostMem ∧
    t.vents = s.vents ∧ t.cals = s.cals ∧ t.power = s.power ∧ t.ports = s.ports ∧ t.subs = s.subs ∧ t.mgmt = s.mgmt
    ∧ t.jtag = s.jtag ∧ t.sets = s.sets ∧ t.path = s.path ∧ t.qm = s.qm ∧ t.glaze = s.glaze ∧ t.easel = s.easel ∧
    t.hb = s.hb ∧ t.adm = s.adm ∧ t.mx = s.mx ∧ t.hbm = s.hbm := by simp [drainStart]
@[simp] theorem keyLoadStart_frame (s0 : State) (c k : Nat) (x : KeySlot) (m : SlotMeta) (init : DWord) (id : Nat) (kem : Bool) :
    let t := (keyLoadStart s0 c k x m init id kem); t.pending = s0.pending ∧ t.timebase = s0.timebase ∧ t.balls =
    s0.balls ∧ t.fuses = s0.fuses ∧ t.glob = s0.glob ∧ t.latch = s0.latch ∧ t.mem = s0.mem ∧ t.vents = s0.vents ∧
    t.cals = s0.cals ∧ t.power = s0.power ∧ t.ports = s0.ports ∧ t.subs = s0.subs ∧ t.mgmt = s0.mgmt ∧ t.jtag =
    s0.jtag ∧ t.sets = s0.sets ∧ t.path = s0.path ∧ t.qm = s0.qm ∧ t.glaze = s0.glaze ∧ t.easel = s0.easel ∧ t.mx =
    s0.mx ∧ t.hbm = s0.hbm := by simp [keyLoadStart]
@[simp] theorem keyRetireStart_frame (s0 : State) (c k id : Nat) :
    let t := (keyRetireStart s0 c k id); t.pending = s0.pending ∧ t.timebase = s0.timebase ∧ t.balls = s0.balls ∧
    t.fuses = s0.fuses ∧ t.glob = s0.glob ∧ t.latch = s0.latch ∧ t.mem = s0.mem ∧ t.vents = s0.vents ∧ t.cals =
    s0.cals ∧ t.power = s0.power ∧ t.ports = s0.ports ∧ t.subs = s0.subs ∧ t.mgmt = s0.mgmt ∧ t.jtag = s0.jtag ∧
    t.sets = s0.sets ∧ t.path = s0.path ∧ t.qm = s0.qm ∧ t.glaze = s0.glaze ∧ t.easel = s0.easel ∧ t.mx = s0.mx ∧
    t.hbm = s0.hbm := by simp [keyRetireStart]
@[simp] theorem rxExpire_frame (s0 : State) (f : Frame) (k : Nat) :
    let t := (rxExpire s0 f k); t.pending = s0.pending ∧ t.timebase = s0.timebase ∧ t.balls = s0.balls ∧ t.fuses =
    s0.fuses ∧ t.glob = s0.glob ∧ t.latch = s0.latch ∧ t.mem = s0.mem ∧ t.vents = s0.vents ∧ t.cals = s0.cals ∧
    t.power = s0.power ∧ t.ports = s0.ports ∧ t.subs = s0.subs ∧ t.mgmt = s0.mgmt ∧ t.jtag = s0.jtag ∧ t.sets =
    s0.sets ∧ t.path = s0.path ∧ t.qm = s0.qm ∧ t.glaze = s0.glaze ∧ t.easel = s0.easel ∧ t.adm = s0.adm ∧ t.mx =
    s0.mx ∧ t.hbm = s0.hbm := by simp [rxExpire]
@[simp] theorem keyScanSlot_frame (s : State) (c k : Nat) :
    let t := (keyScanSlot s c k); t.pending = s.pending ∧ t.timebase = s.timebase ∧ t.freeCtr = s.freeCtr ∧ t.balls
    = s.balls ∧ t.fuses = s.fuses ∧ t.glob = s.glob ∧ t.latch = s.latch ∧ t.mem = s.mem ∧ t.vents = s.vents ∧ t.cals
    = s.cals ∧ t.power = s.power ∧ t.ports = s.ports ∧ t.subs = s.subs ∧ t.mgmt = s.mgmt ∧ t.jtag = s.jtag ∧ t.sets
    = s.sets ∧ t.path = s.path ∧ t.qm = s.qm ∧ t.glaze = s.glaze ∧ t.easel = s.easel ∧ t.adm = s.adm ∧ t.mx = s.mx ∧
    t.hbm = s.hbm := by simp [keyScanSlot]
@[simp] theorem storeRead_frame (s : State) (o n : Nat) :
    let t := (storeRead s o n).2.2; t.pending = s.pending ∧ t.timebase = s.timebase ∧ t.balls = s.balls ∧ t.fuses =
    s.fuses ∧ t.glob = s.glob ∧ t.latch = s.latch ∧ t.mem = s.mem ∧ t.vents = s.vents ∧ t.cals = s.cals ∧ t.power =
    s.power ∧ t.ports = s.ports ∧ t.subs = s.subs ∧ t.mgmt = s.mgmt ∧ t.jtag = s.jtag ∧ t.sets = s.sets ∧ t.path =
    s.path ∧ t.qm = s.qm ∧ t.glaze = s.glaze ∧ t.easel = s.easel ∧ t.adm = s.adm ∧ t.mx = s.mx ∧ t.hbm = s.hbm := by
  unfold storeRead
  (repeat' (first | (split <;> try (rename_i h; first | (have e := pair_third h; clear h; subst e) | (have e := pair_snd h; have e2 := pair_fst h; clear h; subst e; try subst e2) | (have e := pair_fst h; clear h; subst e))) | (dsimp only; split))) <;> simp (disch := first | (intros; (repeat' (first | (split <;> try (rename_i h; first | (have e := pair_third h; clear h; subst e) | (have e := pair_snd h; have e2 := pair_fst h; clear h; subst e; try subst e2) | (have e := pair_fst h; clear h; subst e))) | (dsimp only; split))) <;> simp; done) | (intros; simp; done) | assumption)
@[simp] theorem storeWriteByte_frame (s : State) (o : Nat) (b : Byte) :
    let t := (storeWriteByte s o b); t.pending = s.pending ∧ t.timebase = s.timebase ∧ t.freeCtr = s.freeCtr ∧
    t.balls = s.balls ∧ t.fuses = s.fuses ∧ t.glob = s.glob ∧ t.latch = s.latch ∧ t.mem = s.mem ∧ t.hostMem =
    s.hostMem ∧ t.vents = s.vents ∧ t.cals = s.cals ∧ t.power = s.power ∧ t.ports = s.ports ∧ t.subs = s.subs ∧
    t.mgmt = s.mgmt ∧ t.jtag = s.jtag ∧ t.sets = s.sets ∧ t.path = s.path ∧ t.qm = s.qm ∧ t.glaze = s.glaze ∧
    t.easel = s.easel ∧ t.hb = s.hb ∧ t.adm = s.adm ∧ t.mx = s.mx ∧ t.hbm = s.hbm := by
  unfold storeWriteByte
  split <;> simp
@[simp] theorem storeWrite_frame (s : State) (w : List (Nat × Byte)) :
    let t := (storeWrite s w).2; t.pending = s.pending ∧ t.timebase = s.timebase ∧ t.balls = s.balls ∧ t.fuses =
    s.fuses ∧ t.glob = s.glob ∧ t.latch = s.latch ∧ t.mem = s.mem ∧ t.vents = s.vents ∧ t.cals = s.cals ∧ t.power =
    s.power ∧ t.ports = s.ports ∧ t.subs = s.subs ∧ t.mgmt = s.mgmt ∧ t.jtag = s.jtag ∧ t.sets = s.sets ∧ t.path =
    s.path ∧ t.qm = s.qm ∧ t.glaze = s.glaze ∧ t.easel = s.easel ∧ t.adm = s.adm ∧ t.mx = s.mx ∧ t.hbm = s.hbm := by
  unfold storeWrite
  (repeat' (first | (split <;> try (rename_i h; first | (have e := pair_third h; clear h; subst e) | (have e := pair_snd h; have e2 := pair_fst h; clear h; subst e; try subst e2) | (have e := pair_fst h; clear h; subst e))) | (dsimp only; split))) <;> simp (disch := first | (intros; (repeat' (first | (split <;> try (rename_i h; first | (have e := pair_third h; clear h; subst e) | (have e := pair_snd h; have e2 := pair_fst h; clear h; subst e; try subst e2) | (have e := pair_fst h; clear h; subst e))) | (dsimp only; split))) <;> simp; done) | (intros; simp; done) | assumption)
@[simp] theorem updSet_frame (s : State) (e : Bool) (g : ConfigSet → ConfigSet) :
    let t := (updSet s e g); t.pending = s.pending ∧ t.timebase = s.timebase ∧ t.freeCtr = s.freeCtr ∧ t.balls =
    s.balls ∧ t.fuses = s.fuses ∧ t.glob = s.glob ∧ t.latch = s.latch ∧ t.mem = s.mem ∧ t.hostMem = s.hostMem ∧
    t.vents = s.vents ∧ t.cals = s.cals ∧ t.power = s.power ∧ t.ports = s.ports ∧ t.subs = s.subs ∧ t.mgmt = s.mgmt
    ∧ t.jtag = s.jtag ∧ t.store = s.store ∧ t.path = s.path ∧ t.qm = s.qm ∧ t.glaze = s.glaze ∧ t.easel = s.easel ∧
    t.hb = s.hb ∧ t.adm = s.adm ∧ t.mx = s.mx ∧ t.hbm = s.hbm := by simp [updSet]

/-! ### Machine/Views.lean -/

@[simp] theorem updPort_frame (s : State) (p : Nat) (g : Port → Port) :
    let t := (updPort s p g); t.pending = s.pending ∧ t.timebase = s.timebase ∧ t.freeCtr = s.freeCtr ∧ t.balls =
    s.balls ∧ t.fuses = s.fuses ∧ t.glob = s.glob ∧ t.latch = s.latch ∧ t.mem = s.mem ∧ t.hostMem = s.hostMem ∧
    t.vents = s.vents ∧ t.cals = s.cals ∧ t.power = s.power ∧ t.subs = s.subs ∧ t.mgmt = s.mgmt ∧ t.jtag = s.jtag ∧
    t.store = s.store ∧ t.sets = s.sets ∧ t.path = s.path ∧ t.qm = s.qm ∧ t.glaze = s.glaze ∧ t.easel = s.easel ∧
    t.hb = s.hb ∧ t.adm = s.adm ∧ t.mx = s.mx ∧ t.hbm = s.hbm := by simp [updPort]
@[simp] theorem updSub_frame (s : State) (src : Nat) (g : SubPort → SubPort) :
    let t := (updSub s src g); t.pending = s.pending ∧ t.timebase = s.timebase ∧ t.freeCtr = s.freeCtr ∧ t.balls =
    s.balls ∧ t.fuses = s.fuses ∧ t.glob = s.glob ∧ t.latch = s.latch ∧ t.mem = s.mem ∧ t.hostMem = s.hostMem ∧
    t.vents = s.vents ∧ t.cals = s.cals ∧ t.power = s.power ∧ t.ports = s.ports ∧ t.mgmt = s.mgmt ∧ t.jtag = s.jtag
    ∧ t.store = s.store ∧ t.sets = s.sets ∧ t.path = s.path ∧ t.qm = s.qm ∧ t.glaze = s.glaze ∧ t.easel = s.easel ∧
    t.hb = s.hb ∧ t.adm = s.adm ∧ t.mx = s.mx ∧ t.hbm = s.hbm := by simp [updSub]
@[simp] theorem subDown_frame (s : State) (src reason : Nat) :
    let t := (subDown s src reason); t.pending = s.pending ∧ t.timebase = s.timebase ∧ t.freeCtr = s.freeCtr ∧
    t.balls = s.balls ∧ t.fuses = s.fuses ∧ t.glob = s.glob ∧ t.latch = s.latch ∧ t.mem = s.mem ∧ t.vents = s.vents
    ∧ t.cals = s.cals ∧ t.power = s.power ∧ t.subs = s.subs ∧ t.mgmt = s.mgmt ∧ t.jtag = s.jtag ∧ t.store = s.store
    ∧ t.sets = s.sets ∧ t.path = s.path ∧ t.qm = s.qm ∧ t.glaze = s.glaze ∧ t.easel = s.easel ∧ t.adm = s.adm ∧ t.mx
    = s.mx ∧ t.hbm = s.hbm := by simp [subDown]
@[simp] theorem portDown_frame (s : State) (p reason : Nat) :
    let t := (portDown s p reason); t.pending = s.pending ∧ t.timebase = s.timebase ∧ t.freeCtr = s.freeCtr ∧
    t.balls = s.balls ∧ t.fuses = s.fuses ∧ t.glob = s.glob ∧ t.latch = s.latch ∧ t.mem = s.mem ∧ t.vents = s.vents
    ∧ t.cals = s.cals ∧ t.power = s.power ∧ t.subs = s.subs ∧ t.mgmt = s.mgmt ∧ t.jtag = s.jtag ∧ t.store = s.store
    ∧ t.sets = s.sets ∧ t.path = s.path ∧ t.qm = s.qm ∧ t.glaze = s.glaze ∧ t.easel = s.easel ∧ t.adm = s.adm ∧ t.mx
    = s.mx ∧ t.hbm = s.hbm := by simp [portDown]
@[simp] theorem retrainPort_frame (s : State) (p : Nat) :
    let t := (retrainPort s p); t.pending = s.pending ∧ t.timebase = s.timebase ∧ t.freeCtr = s.freeCtr ∧ t.balls =
    s.balls ∧ t.fuses = s.fuses ∧ t.glob = s.glob ∧ t.latch = s.latch ∧ t.mem = s.mem ∧ t.vents = s.vents ∧ t.cals =
    s.cals ∧ t.power = s.power ∧ t.subs = s.subs ∧ t.mgmt = s.mgmt ∧ t.jtag = s.jtag ∧ t.store = s.store ∧ t.sets =
    s.sets ∧ t.path = s.path ∧ t.qm = s.qm ∧ t.glaze = s.glaze ∧ t.easel = s.easel ∧ t.adm = s.adm ∧ t.mx = s.mx ∧
    t.hbm = s.hbm := by simp [retrainPort]
@[simp] theorem qmErr_frame (s : State) (b : Nat) :
    let t := (qmErr s b); t.pending = s.pending ∧ t.timebase = s.timebase ∧ t.freeCtr = s.freeCtr ∧ t.balls =
    s.balls ∧ t.fuses = s.fuses ∧ t.glob = s.glob ∧ t.latch = s.latch ∧ t.mem = s.mem ∧ t.hostMem = s.hostMem ∧
    t.cals = s.cals ∧ t.power = s.power ∧ t.ports = s.ports ∧ t.subs = s.subs ∧ t.mgmt = s.mgmt ∧ t.jtag = s.jtag ∧
    t.store = s.store ∧ t.sets = s.sets ∧ t.path = s.path ∧ t.glaze = s.glaze ∧ t.easel = s.easel ∧ t.hb = s.hb ∧
    t.adm = s.adm ∧ t.mx = s.mx ∧ t.hbm = s.hbm := by simp [qmErr]
@[simp] theorem setSteer_frame (s : State) (j b : Nat) (e : Steer) :
    let t := (setSteer s j b e); t.pending = s.pending ∧ t.timebase = s.timebase ∧ t.freeCtr = s.freeCtr ∧ t.balls =
    s.balls ∧ t.fuses = s.fuses ∧ t.glob = s.glob ∧ t.latch = s.latch ∧ t.mem = s.mem ∧ t.hostMem = s.hostMem ∧
    t.vents = s.vents ∧ t.cals = s.cals ∧ t.power = s.power ∧ t.ports = s.ports ∧ t.subs = s.subs ∧ t.mgmt = s.mgmt
    ∧ t.jtag = s.jtag ∧ t.store = s.store ∧ t.sets = s.sets ∧ t.path = s.path ∧ t.qm = s.qm ∧ t.glaze = s.glaze ∧
    t.hb = s.hb ∧ t.adm = s.adm ∧ t.mx = s.mx ∧ t.hbm = s.hbm := by simp [setSteer]

/-! ### Machine/DmaBase.lean -/

@[simp] theorem updDma_frame (s : State) (n : Nat) (g : Dma → Dma) :
    let t := (updDma s n g); t.pending = s.pending ∧ t.timebase = s.timebase ∧ t.freeCtr = s.freeCtr ∧ t.balls =
    s.balls ∧ t.fuses = s.fuses ∧ t.glob = s.glob ∧ t.latch = s.latch ∧ t.mem = s.mem ∧ t.hostMem = s.hostMem ∧
    t.vents = s.vents ∧ t.cals = s.cals ∧ t.power = s.power ∧ t.ports = s.ports ∧ t.subs = s.subs ∧ t.mgmt = s.mgmt
    ∧ t.jtag = s.jtag ∧ t.store = s.store ∧ t.sets = s.sets ∧ t.path = s.path ∧ t.qm = s.qm ∧ t.glaze = s.glaze ∧
    t.easel = s.easel ∧ t.hb = s.hb ∧ t.adm = s.adm ∧ t.hbm = s.hbm := by simp [updDma]
@[simp] theorem dmaNotice_frame (s : State) (n : Nat) :
    let t := (dmaNotice s n); t.pending = s.pending ∧ t.timebase = s.timebase ∧ t.freeCtr = s.freeCtr ∧ t.balls =
    s.balls ∧ t.fuses = s.fuses ∧ t.glob = s.glob ∧ t.latch = s.latch ∧ t.mem = s.mem ∧ t.hostMem = s.hostMem ∧
    t.cals = s.cals ∧ t.power = s.power ∧ t.ports = s.ports ∧ t.subs = s.subs ∧ t.mgmt = s.mgmt ∧ t.jtag = s.jtag ∧
    t.store = s.store ∧ t.sets = s.sets ∧ t.path = s.path ∧ t.qm = s.qm ∧ t.glaze = s.glaze ∧ t.easel = s.easel ∧
    t.hb = s.hb ∧ t.adm = s.adm ∧ t.hbm = s.hbm := by simp [dmaNotice]
@[simp] theorem dmaWait_frame (s : State) (n : Nat) :
    let t := (dmaWait s n); t.pending = s.pending ∧ t.timebase = s.timebase ∧ t.freeCtr = s.freeCtr ∧ t.balls =
    s.balls ∧ t.fuses = s.fuses ∧ t.glob = s.glob ∧ t.latch = s.latch ∧ t.mem = s.mem ∧ t.hostMem = s.hostMem ∧
    t.vents = s.vents ∧ t.cals = s.cals ∧ t.power = s.power ∧ t.ports = s.ports ∧ t.subs = s.subs ∧ t.mgmt = s.mgmt
    ∧ t.jtag = s.jtag ∧ t.store = s.store ∧ t.sets = s.sets ∧ t.path = s.path ∧ t.qm = s.qm ∧ t.glaze = s.glaze ∧
    t.easel = s.easel ∧ t.hb = s.hb ∧ t.adm = s.adm ∧ t.hbm = s.hbm := by simp [dmaWait]
@[simp] theorem dmaUnwait_frame (s : State) (n : Nat) :
    let t := (dmaUnwait s n); t.pending = s.pending ∧ t.timebase = s.timebase ∧ t.freeCtr = s.freeCtr ∧ t.balls =
    s.balls ∧ t.fuses = s.fuses ∧ t.glob = s.glob ∧ t.latch = s.latch ∧ t.mem = s.mem ∧ t.hostMem = s.hostMem ∧
    t.vents = s.vents ∧ t.cals = s.cals ∧ t.power = s.power ∧ t.ports = s.ports ∧ t.subs = s.subs ∧ t.mgmt = s.mgmt
    ∧ t.jtag = s.jtag ∧ t.store = s.store ∧ t.sets = s.sets ∧ t.path = s.path ∧ t.qm = s.qm ∧ t.glaze = s.glaze ∧
    t.easel = s.easel ∧ t.hb = s.hb ∧ t.adm = s.adm ∧ t.hbm = s.hbm := by simp [dmaUnwait]
@[simp] theorem dmaHalt_frame (s : State) (n cause : Nat) :
    let t := (dmaHalt s n cause); t.pending = s.pending ∧ t.timebase = s.timebase ∧ t.freeCtr = s.freeCtr ∧ t.balls
    = s.balls ∧ t.fuses = s.fuses ∧ t.glob = s.glob ∧ t.latch = s.latch ∧ t.mem = s.mem ∧ t.hostMem = s.hostMem ∧
    t.cals = s.cals ∧ t.power = s.power ∧ t.ports = s.ports ∧ t.subs = s.subs ∧ t.mgmt = s.mgmt ∧ t.jtag = s.jtag ∧
    t.store = s.store ∧ t.sets = s.sets ∧ t.path = s.path ∧ t.qm = s.qm ∧ t.glaze = s.glaze ∧ t.easel = s.easel ∧
    t.hb = s.hb ∧ t.adm = s.adm ∧ t.hbm = s.hbm := by simp [dmaHalt]
@[simp] theorem dmaStart_frame (s : State) (n : Nat) :
    let t := (dmaStart s n); t.pending = s.pending ∧ t.timebase = s.timebase ∧ t.freeCtr = s.freeCtr ∧ t.balls =
    s.balls ∧ t.fuses = s.fuses ∧ t.glob = s.glob ∧ t.latch = s.latch ∧ t.mem = s.mem ∧ t.hostMem = s.hostMem ∧
    t.vents = s.vents ∧ t.cals = s.cals ∧ t.power = s.power ∧ t.ports = s.ports ∧ t.subs = s.subs ∧ t.mgmt = s.mgmt
    ∧ t.jtag = s.jtag ∧ t.store = s.store ∧ t.sets = s.sets ∧ t.path = s.path ∧ t.qm = s.qm ∧ t.glaze = s.glaze ∧
    t.easel = s.easel ∧ t.hb = s.hb ∧ t.adm = s.adm ∧ t.hbm = s.hbm := by simp [dmaStart]
@[simp] theorem dmaAbort_frame (s : State) (n : Nat) :
    let t := (dmaAbort s n); t.pending = s.pending ∧ t.timebase = s.timebase ∧ t.freeCtr = s.freeCtr ∧ t.balls =
    s.balls ∧ t.fuses = s.fuses ∧ t.glob = s.glob ∧ t.latch = s.latch ∧ t.mem = s.mem ∧ t.hostMem = s.hostMem ∧
    t.cals = s.cals ∧ t.power = s.power ∧ t.ports = s.ports ∧ t.subs = s.subs ∧ t.mgmt = s.mgmt ∧ t.jtag = s.jtag ∧
    t.store = s.store ∧ t.sets = s.sets ∧ t.path = s.path ∧ t.qm = s.qm ∧ t.glaze = s.glaze ∧ t.easel = s.easel ∧
    t.hb = s.hb ∧ t.adm = s.adm ∧ t.hbm = s.hbm := by simp [dmaAbort]
@[simp] theorem dmaHaltCal_frame (s : State) (c cause : Nat) :
    let t := (dmaHaltCal s c cause); t.pending = s.pending ∧ t.timebase = s.timebase ∧ t.freeCtr = s.freeCtr ∧
    t.balls = s.balls ∧ t.fuses = s.fuses ∧ t.glob = s.glob ∧ t.latch = s.latch ∧ t.mem = s.mem ∧ t.hostMem =
    s.hostMem ∧ t.cals = s.cals ∧ t.power = s.power ∧ t.ports = s.ports ∧ t.subs = s.subs ∧ t.mgmt = s.mgmt ∧ t.jtag
    = s.jtag ∧ t.store = s.store ∧ t.sets = s.sets ∧ t.path = s.path ∧ t.qm = s.qm ∧ t.glaze = s.glaze ∧ t.easel =
    s.easel ∧ t.hb = s.hb ∧ t.adm = s.adm ∧ t.hbm = s.hbm := by simp [dmaHaltCal]

/-! ### Machine/RegsBase.lean -/

@[simp] theorem latchLow_frame (s : State) (addr : Nat) (w : Word) :
    let t := (latchLow s addr w); t.pending = s.pending ∧ t.timebase = s.timebase ∧ t.freeCtr = s.freeCtr ∧ t.balls
    = s.balls ∧ t.fuses = s.fuses ∧ t.glob = s.glob ∧ t.mem = s.mem ∧ t.hostMem = s.hostMem ∧ t.vents = s.vents ∧
    t.cals = s.cals ∧ t.power = s.power ∧ t.ports = s.ports ∧ t.subs = s.subs ∧ t.mgmt = s.mgmt ∧ t.jtag = s.jtag ∧
    t.store = s.store ∧ t.sets = s.sets ∧ t.path = s.path ∧ t.qm = s.qm ∧ t.glaze = s.glaze ∧ t.easel = s.easel ∧
    t.hb = s.hb ∧ t.adm = s.adm ∧ t.mx = s.mx ∧ t.hbm = s.hbm := by simp [latchLow]
@[simp] theorem joinHigh_frame (s : State) (addr cur : Nat) (w : Word) :
    let t := (joinHigh s addr cur w).2; t.pending = s.pending ∧ t.timebase = s.timebase ∧ t.freeCtr = s.freeCtr ∧
    t.balls = s.balls ∧ t.fuses = s.fuses ∧ t.glob = s.glob ∧ t.mem = s.mem ∧ t.hostMem = s.hostMem ∧ t.vents =
    s.vents ∧ t.cals = s.cals ∧ t.power = s.power ∧ t.ports = s.ports ∧ t.subs = s.subs ∧ t.mgmt = s.mgmt ∧ t.jtag =
    s.jtag ∧ t.store = s.store ∧ t.sets = s.sets ∧ t.path = s.path ∧ t.qm = s.qm ∧ t.glaze = s.glaze ∧ t.easel =
    s.easel ∧ t.hb = s.hb ∧ t.adm = s.adm ∧ t.mx = s.mx ∧ t.hbm = s.hbm := by simp [joinHigh]
@[simp] theorem readLatched_frame (s : State) (addr : Nat) (n0 : RegRd) :
    let t := (readLatched s addr n0).2; t.pending = s.pending ∧ t.timebase = s.timebase ∧ t.balls = s.balls ∧
    t.fuses = s.fuses ∧ t.glob = s.glob ∧ t.mem = s.mem ∧ t.hostMem = s.hostMem ∧ t.vents = s.vents ∧ t.cals =
    s.cals ∧ t.power = s.power ∧ t.ports = s.ports ∧ t.subs = s.subs ∧ t.mgmt = s.mgmt ∧ t.jtag = s.jtag ∧ t.store =
    s.store ∧ t.sets = s.sets ∧ t.path = s.path ∧ t.qm = s.qm ∧ t.glaze = s.glaze ∧ t.easel = s.easel ∧ t.hb = s.hb
    ∧ t.adm = s.adm ∧ t.mx = s.mx ∧ t.hbm = s.hbm := by
  unfold readLatched
  (repeat' (first | (split <;> try (rename_i h; first | (have e := pair_third h; clear h; subst e) | (have e := pair_snd h; have e2 := pair_fst h; clear h; subst e; try subst e2) | (have e := pair_fst h; clear h; subst e))) | (dsimp only; split))) <;> simp
@[simp] theorem errStat_frame (s : State) (b : Nat) :
    let t := (errStat s b); t.pending = s.pending ∧ t.timebase = s.timebase ∧ t.freeCtr = s.freeCtr ∧ t.balls =
    s.balls ∧ t.fuses = s.fuses ∧ t.latch = s.latch ∧ t.mem = s.mem ∧ t.hostMem = s.hostMem ∧ t.vents = s.vents ∧
    t.cals = s.cals ∧ t.power = s.power ∧ t.ports = s.ports ∧ t.subs = s.subs ∧ t.mgmt = s.mgmt ∧ t.jtag = s.jtag ∧
    t.store = s.store ∧ t.sets = s.sets ∧ t.path = s.path ∧ t.qm = s.qm ∧ t.glaze = s.glaze ∧ t.easel = s.easel ∧
    t.hb = s.hb ∧ t.adm = s.adm ∧ t.mx = s.mx ∧ t.hbm = s.hbm := by simp [errStat]
@[simp] theorem primeGo_frame (s : State) :
    let t := (primeGo s); t.pending = s.pending ∧ t.timebase = s.timebase ∧ t.freeCtr = s.freeCtr ∧ t.balls =
    s.balls ∧ t.fuses = s.fuses ∧ t.latch = s.latch ∧ t.mem = s.mem ∧ t.hostMem = s.hostMem ∧ t.vents = s.vents ∧
    t.cals = s.cals ∧ t.power = s.power ∧ t.ports = s.ports ∧ t.subs = s.subs ∧ t.mgmt = s.mgmt ∧ t.jtag = s.jtag ∧
    t.store = s.store ∧ t.sets = s.sets ∧ t.path = s.path ∧ t.qm = s.qm ∧ t.glaze = s.glaze ∧ t.easel = s.easel ∧
    t.hb = s.hb ∧ t.adm = s.adm ∧ t.mx = s.mx ∧ t.hbm = s.hbm := by simp [primeGo]
@[simp] theorem remapWrite_frame (s : State) (m : Master) (w : Word) :
    let t := (remapWrite s m w); t.pending = s.pending ∧ t.timebase = s.timebase ∧ t.freeCtr = s.freeCtr ∧ t.balls =
    s.balls ∧ t.fuses = s.fuses ∧ t.latch = s.latch ∧ t.mem = s.mem ∧ t.hostMem = s.hostMem ∧ t.vents = s.vents ∧
    t.cals = s.cals ∧ t.power = s.power ∧ t.ports = s.ports ∧ t.subs = s.subs ∧ t.mgmt = s.mgmt ∧ t.jtag = s.jtag ∧
    t.store = s.store ∧ t.sets = s.sets ∧ t.path = s.path ∧ t.qm = s.qm ∧ t.glaze = s.glaze ∧ t.easel = s.easel ∧
    t.hb = s.hb ∧ t.adm = s.adm ∧ t.mx = s.mx ∧ t.hbm = s.hbm := by simp [remapWrite]
@[simp] theorem globalWrite_frame (s : State) (m : Master) (o : Nat) (w : Word) :
    let t := (globalWrite s m o w); t.pending = s.pending ∧ t.timebase = s.timebase ∧ t.freeCtr = s.freeCtr ∧
    t.balls = s.balls ∧ t.fuses = s.fuses ∧ t.latch = s.latch ∧ t.mem = s.mem ∧ t.hostMem = s.hostMem ∧ t.vents =
    s.vents ∧ t.cals = s.cals ∧ t.power = s.power ∧ t.ports = s.ports ∧ t.subs = s.subs ∧ t.mgmt = s.mgmt ∧ t.jtag =
    s.jtag ∧ t.store = s.store ∧ t.sets = s.sets ∧ t.path = s.path ∧ t.qm = s.qm ∧ t.glaze = s.glaze ∧ t.easel =
    s.easel ∧ t.hb = s.hb ∧ t.adm = s.adm ∧ t.mx = s.mx ∧ t.hbm = s.hbm := by simp [globalWrite]
@[simp] theorem msixWrite_frame (s : State) (f v i : Nat) (w : Word) :
    let t := (msixWrite s f v i w); t.pending = s.pending ∧ t.timebase = s.timebase ∧ t.freeCtr = s.freeCtr ∧
    t.balls = s.balls ∧ t.fuses = s.fuses ∧ t.glob = s.glob ∧ t.latch = s.latch ∧ t.mem = s.mem ∧ t.hostMem =
    s.hostMem ∧ t.vents = s.vents ∧ t.cals = s.cals ∧ t.power = s.power ∧ t.ports = s.ports ∧ t.subs = s.subs ∧
    t.mgmt = s.mgmt ∧ t.jtag = s.jtag ∧ t.store = s.store ∧ t.sets = s.sets ∧ t.path = s.path ∧ t.qm = s.qm ∧
    t.glaze = s.glaze ∧ t.easel = s.easel ∧ t.adm = s.adm ∧ t.mx = s.mx ∧ t.hbm = s.hbm := by simp [msixWrite]
@[simp] theorem msixModWrite_frame (s : State) (f v : Nat) (w : Word) :
    let t := (msixModWrite s f v w); t.pending = s.pending ∧ t.timebase = s.timebase ∧ t.freeCtr = s.freeCtr ∧
    t.balls = s.balls ∧ t.fuses = s.fuses ∧ t.glob = s.glob ∧ t.latch = s.latch ∧ t.mem = s.mem ∧ t.hostMem =
    s.hostMem ∧ t.vents = s.vents ∧ t.cals = s.cals ∧ t.power = s.power ∧ t.ports = s.ports ∧ t.subs = s.subs ∧
    t.mgmt = s.mgmt ∧ t.jtag = s.jtag ∧ t.store = s.store ∧ t.sets = s.sets ∧ t.path = s.path ∧ t.qm = s.qm ∧
    t.glaze = s.glaze ∧ t.easel = s.easel ∧ t.adm = s.adm ∧ t.mx = s.mx ∧ t.hbm = s.hbm := by simp [msixModWrite]
@[simp] theorem stageWrite_frame (s : State) (x : Nat) :
    let t := (stageWrite s x); t.pending = s.pending ∧ t.timebase = s.timebase ∧ t.freeCtr = s.freeCtr ∧ t.balls =
    s.balls ∧ t.fuses = s.fuses ∧ t.glob = s.glob ∧ t.latch = s.latch ∧ t.mem = s.mem ∧ t.hostMem = s.hostMem ∧
    t.vents = s.vents ∧ t.cals = s.cals ∧ t.power = s.power ∧ t.ports = s.ports ∧ t.subs = s.subs ∧ t.mgmt = s.mgmt
    ∧ t.jtag = s.jtag ∧ t.store = s.store ∧ t.sets = s.sets ∧ t.path = s.path ∧ t.qm = s.qm ∧ t.glaze = s.glaze ∧
    t.easel = s.easel ∧ t.adm = s.adm ∧ t.mx = s.mx ∧ t.hbm = s.hbm := by
  unfold stageWrite
  simp only []
  split <;> simp
@[simp] theorem admOpen_frame (s : State) (c : BitVec 24) :
    let t := (admOpen s c); t.pending = s.pending ∧ t.timebase = s.timebase ∧ t.freeCtr = s.freeCtr ∧ t.balls =
    s.balls ∧ t.fuses = s.fuses ∧ t.glob = s.glob ∧ t.latch = s.latch ∧ t.mem = s.mem ∧ t.hostMem = s.hostMem ∧
    t.vents = s.vents ∧ t.cals = s.cals ∧ t.power = s.power ∧ t.ports = s.ports ∧ t.subs = s.subs ∧ t.mgmt = s.mgmt
    ∧ t.jtag = s.jtag ∧ t.store = s.store ∧ t.sets = s.sets ∧ t.path = s.path ∧ t.qm = s.qm ∧ t.glaze = s.glaze ∧
    t.easel = s.easel ∧ t.mx = s.mx ∧ t.hbm = s.hbm := by simp [admOpen]
@[simp] theorem admClose_frame (s : State) :
    let t := (admClose s); t.pending = s.pending ∧ t.timebase = s.timebase ∧ t.freeCtr = s.freeCtr ∧ t.balls =
    s.balls ∧ t.fuses = s.fuses ∧ t.glob = s.glob ∧ t.latch = s.latch ∧ t.mem = s.mem ∧ t.hostMem = s.hostMem ∧
    t.vents = s.vents ∧ t.cals = s.cals ∧ t.power = s.power ∧ t.ports = s.ports ∧ t.subs = s.subs ∧ t.mgmt = s.mgmt
    ∧ t.jtag = s.jtag ∧ t.store = s.store ∧ t.sets = s.sets ∧ t.path = s.path ∧ t.qm = s.qm ∧ t.glaze = s.glaze ∧
    t.easel = s.easel ∧ t.mx = s.mx ∧ t.hbm = s.hbm := by simp [admClose]
@[simp] theorem admCfgWrite_frame (s : State) (w : Word) :
    let t := (admCfgWrite s w); t.pending = s.pending ∧ t.timebase = s.timebase ∧ t.freeCtr = s.freeCtr ∧ t.balls =
    s.balls ∧ t.fuses = s.fuses ∧ t.glob = s.glob ∧ t.latch = s.latch ∧ t.mem = s.mem ∧ t.hostMem = s.hostMem ∧
    t.vents = s.vents ∧ t.cals = s.cals ∧ t.power = s.power ∧ t.ports = s.ports ∧ t.subs = s.subs ∧ t.mgmt = s.mgmt
    ∧ t.jtag = s.jtag ∧ t.store = s.store ∧ t.sets = s.sets ∧ t.path = s.path ∧ t.qm = s.qm ∧ t.glaze = s.glaze ∧
    t.easel = s.easel ∧ t.mx = s.mx ∧ t.hbm = s.hbm := by simp [admCfgWrite]
@[simp] theorem ringSkip_frame (s : State) (r : Nat) (tag : BitVec 16) :
    let t := (ringSkip s r tag); t.pending = s.pending ∧ t.timebase = s.timebase ∧ t.freeCtr = s.freeCtr ∧ t.balls =
    s.balls ∧ t.fuses = s.fuses ∧ t.glob = s.glob ∧ t.latch = s.latch ∧ t.mem = s.mem ∧ t.hostMem = s.hostMem ∧
    t.vents = s.vents ∧ t.cals = s.cals ∧ t.power = s.power ∧ t.ports = s.ports ∧ t.subs = s.subs ∧ t.mgmt = s.mgmt
    ∧ t.jtag = s.jtag ∧ t.store = s.store ∧ t.sets = s.sets ∧ t.path = s.path ∧ t.qm = s.qm ∧ t.glaze = s.glaze ∧
    t.easel = s.easel ∧ t.mx = s.mx ∧ t.hbm = s.hbm := by
  unfold ringSkip
  split <;> simp
@[simp] theorem ringSkipDue_frame (s : State) (r : Nat) :
    let t := (ringSkipDue s r); t.pending = s.pending ∧ t.timebase = s.timebase ∧ t.freeCtr = s.freeCtr ∧ t.balls =
    s.balls ∧ t.fuses = s.fuses ∧ t.glob = s.glob ∧ t.latch = s.latch ∧ t.mem = s.mem ∧ t.hostMem = s.hostMem ∧
    t.vents = s.vents ∧ t.cals = s.cals ∧ t.power = s.power ∧ t.ports = s.ports ∧ t.subs = s.subs ∧ t.mgmt = s.mgmt
    ∧ t.jtag = s.jtag ∧ t.store = s.store ∧ t.sets = s.sets ∧ t.path = s.path ∧ t.qm = s.qm ∧ t.glaze = s.glaze ∧
    t.easel = s.easel ∧ t.mx = s.mx ∧ t.hbm = s.hbm := by
  unfold ringSkipDue
  (repeat' split) <;> simp
@[simp] theorem ringCtl_frame (s : State) (r : Nat) (resume skip : Bool) (tag : BitVec 16) :
    let t := (ringCtl s r resume skip tag); t.pending = s.pending ∧ t.timebase = s.timebase ∧ t.freeCtr = s.freeCtr
    ∧ t.balls = s.balls ∧ t.fuses = s.fuses ∧ t.glob = s.glob ∧ t.latch = s.latch ∧ t.mem = s.mem ∧ t.hostMem =
    s.hostMem ∧ t.vents = s.vents ∧ t.cals = s.cals ∧ t.power = s.power ∧ t.ports = s.ports ∧ t.subs = s.subs ∧
    t.mgmt = s.mgmt ∧ t.jtag = s.jtag ∧ t.store = s.store ∧ t.sets = s.sets ∧ t.path = s.path ∧ t.qm = s.qm ∧
    t.glaze = s.glaze ∧ t.easel = s.easel ∧ t.mx = s.mx ∧ t.hbm = s.hbm := by
  unfold ringCtl
  split <;> simp
@[simp] theorem ringCtlWrite_frame (s : State) (r : Nat) (w : Word) :
    let t := (ringCtlWrite s r w); t.pending = s.pending ∧ t.timebase = s.timebase ∧ t.balls = s.balls ∧ t.fuses =
    s.fuses ∧ t.glob = s.glob ∧ t.latch = s.latch ∧ t.mem = s.mem ∧ t.hostMem = s.hostMem ∧ t.vents = s.vents ∧
    t.cals = s.cals ∧ t.power = s.power ∧ t.ports = s.ports ∧ t.subs = s.subs ∧ t.mgmt = s.mgmt ∧ t.jtag = s.jtag ∧
    t.store = s.store ∧ t.sets = s.sets ∧ t.path = s.path ∧ t.qm = s.qm ∧ t.glaze = s.glaze ∧ t.easel = s.easel ∧
    t.mx = s.mx ∧ t.hbm = s.hbm := by simp [ringCtlWrite]
@[simp] theorem hwinWrite_frame (s : State) (addr w8 i : Nat) (w : Word) :
    let t := (hwinWrite s addr w8 i w); t.pending = s.pending ∧ t.timebase = s.timebase ∧ t.freeCtr = s.freeCtr ∧
    t.balls = s.balls ∧ t.fuses = s.fuses ∧ t.glob = s.glob ∧ t.mem = s.mem ∧ t.hostMem = s.hostMem ∧ t.vents =
    s.vents ∧ t.cals = s.cals ∧ t.power = s.power ∧ t.ports = s.ports ∧ t.subs = s.subs ∧ t.mgmt = s.mgmt ∧ t.jtag =
    s.jtag ∧ t.store = s.store ∧ t.sets = s.sets ∧ t.path = s.path ∧ t.qm = s.qm ∧ t.glaze = s.glaze ∧ t.easel =
    s.easel ∧ t.adm = s.adm ∧ t.mx = s.mx ∧ t.hbm = s.hbm := by
  unfold hwinWrite
  split <;> simp
@[simp] theorem baseWrite_frame (s : State) (addr : Nat) (sq high : Bool) (w : Word) :
    let t := (baseWrite s addr sq high w); t.pending = s.pending ∧ t.timebase = s.timebase ∧ t.freeCtr = s.freeCtr ∧
    t.balls = s.balls ∧ t.fuses = s.fuses ∧ t.glob = s.glob ∧ t.mem = s.mem ∧ t.hostMem = s.hostMem ∧ t.vents =
    s.vents ∧ t.cals = s.cals ∧ t.power = s.power ∧ t.ports = s.ports ∧ t.subs = s.subs ∧ t.mgmt = s.mgmt ∧ t.jtag =
    s.jtag ∧ t.store = s.store ∧ t.sets = s.sets ∧ t.path = s.path ∧ t.qm = s.qm ∧ t.glaze = s.glaze ∧ t.easel =
    s.easel ∧ t.adm = s.adm ∧ t.mx = s.mx ∧ t.hbm = s.hbm := by simp [baseWrite]
@[simp] theorem hbWrite_frame (s : State) (o : Nat) (w : Word) :
    let t := (hbWrite s o w); t.pending = s.pending ∧ t.timebase = s.timebase ∧ t.balls = s.balls ∧ t.fuses =
    s.fuses ∧ t.glob = s.glob ∧ t.mem = s.mem ∧ t.hostMem = s.hostMem ∧ t.vents = s.vents ∧ t.cals = s.cals ∧
    t.power = s.power ∧ t.ports = s.ports ∧ t.subs = s.subs ∧ t.mgmt = s.mgmt ∧ t.jtag = s.jtag ∧ t.store = s.store
    ∧ t.sets = s.sets ∧ t.path = s.path ∧ t.qm = s.qm ∧ t.glaze = s.glaze ∧ t.easel = s.easel ∧ t.mx = s.mx ∧ t.hbm
    = s.hbm := by simp [hbWrite]

/-! ### Machine/Regs.lean -/

@[simp] theorem ctxWrite_frame (s : State) (o : Nat) (w : Word) :
    let t := (ctxWrite s o w); t.pending = s.pending ∧ t.timebase = s.timebase ∧ t.freeCtr = s.freeCtr ∧ t.balls =
    s.balls ∧ t.fuses = s.fuses ∧ t.glob = s.glob ∧ t.mem = s.mem ∧ t.hostMem = s.hostMem ∧ t.vents = s.vents ∧
    t.cals = s.cals ∧ t.power = s.power ∧ t.ports = s.ports ∧ t.subs = s.subs ∧ t.mgmt = s.mgmt ∧ t.jtag = s.jtag ∧
    t.sets = s.sets ∧ t.path = s.path ∧ t.qm = s.qm ∧ t.glaze = s.glaze ∧ t.easel = s.easel ∧ t.hb = s.hb ∧ t.adm =
    s.adm ∧ t.mx = s.mx ∧ t.hbm = s.hbm := by simp [ctxWrite]
@[simp] theorem qmWrite_frame (s : State) (o : Nat) (w : Word) :
    let t := (qmWrite s o w); t.pending = s.pending ∧ t.timebase = s.timebase ∧ t.freeCtr = s.freeCtr ∧ t.balls =
    s.balls ∧ t.fuses = s.fuses ∧ t.glob = s.glob ∧ t.mem = s.mem ∧ t.hostMem = s.hostMem ∧ t.vents = s.vents ∧
    t.cals = s.cals ∧ t.power = s.power ∧ t.ports = s.ports ∧ t.subs = s.subs ∧ t.mgmt = s.mgmt ∧ t.jtag = s.jtag ∧
    t.store = s.store ∧ t.sets = s.sets ∧ t.path = s.path ∧ t.glaze = s.glaze ∧ t.easel = s.easel ∧ t.hb = s.hb ∧
    t.adm = s.adm ∧ t.mx = s.mx ∧ t.hbm = s.hbm := by simp [qmWrite]
@[simp] theorem intakeWrite_frame (s : State) (o : Nat) (w : Word) :
    let t := (intakeWrite s o w); t.pending = s.pending ∧ t.timebase = s.timebase ∧ t.freeCtr = s.freeCtr ∧ t.balls
    = s.balls ∧ t.fuses = s.fuses ∧ t.glob = s.glob ∧ t.latch = s.latch ∧ t.mem = s.mem ∧ t.hostMem = s.hostMem ∧
    t.vents = s.vents ∧ t.cals = s.cals ∧ t.power = s.power ∧ t.ports = s.ports ∧ t.subs = s.subs ∧ t.mgmt = s.mgmt
    ∧ t.jtag = s.jtag ∧ t.store = s.store ∧ t.sets = s.sets ∧ t.qm = s.qm ∧ t.glaze = s.glaze ∧ t.easel = s.easel ∧
    t.hb = s.hb ∧ t.adm = s.adm ∧ t.mx = s.mx ∧ t.hbm = s.hbm := by simp [intakeWrite]
@[simp] theorem glazeWrite_frame (s : State) (o : Nat) (w : Word) :
    let t := (glazeWrite s o w); t.pending = s.pending ∧ t.timebase = s.timebase ∧ t.freeCtr = s.freeCtr ∧ t.balls =
    s.balls ∧ t.fuses = s.fuses ∧ t.glob = s.glob ∧ t.latch = s.latch ∧ t.mem = s.mem ∧ t.hostMem = s.hostMem ∧
    t.vents = s.vents ∧ t.cals = s.cals ∧ t.power = s.power ∧ t.ports = s.ports ∧ t.subs = s.subs ∧ t.mgmt = s.mgmt
    ∧ t.jtag = s.jtag ∧ t.store = s.store ∧ t.sets = s.sets ∧ t.path = s.path ∧ t.qm = s.qm ∧ t.easel = s.easel ∧
    t.hb = s.hb ∧ t.adm = s.adm ∧ t.mx = s.mx ∧ t.hbm = s.hbm := by simp [glazeWrite]
@[simp] theorem easelCfgWrite_frame (s : State) (w0 : Word) :
    let t := (easelCfgWrite s w0); t.pending = s.pending ∧ t.timebase = s.timebase ∧ t.freeCtr = s.freeCtr ∧ t.balls
    = s.balls ∧ t.fuses = s.fuses ∧ t.glob = s.glob ∧ t.latch = s.latch ∧ t.mem = s.mem ∧ t.hostMem = s.hostMem ∧
    t.vents = s.vents ∧ t.cals = s.cals ∧ t.power = s.power ∧ t.ports = s.ports ∧ t.subs = s.subs ∧ t.mgmt = s.mgmt
    ∧ t.jtag = s.jtag ∧ t.store = s.store ∧ t.sets = s.sets ∧ t.path = s.path ∧ t.qm = s.qm ∧ t.glaze = s.glaze ∧
    t.hb = s.hb ∧ t.adm = s.adm ∧ t.mx = s.mx ∧ t.hbm = s.hbm := by simp [easelCfgWrite]
@[simp] theorem markAck_frame (s : State) (v migno : Nat) :
    let t := (markAck s v migno); t.pending = s.pending ∧ t.timebase = s.timebase ∧ t.freeCtr = s.freeCtr ∧ t.balls
    = s.balls ∧ t.fuses = s.fuses ∧ t.glob = s.glob ∧ t.latch = s.latch ∧ t.mem = s.mem ∧ t.vents = s.vents ∧ t.cals
    = s.cals ∧ t.power = s.power ∧ t.ports = s.ports ∧ t.subs = s.subs ∧ t.mgmt = s.mgmt ∧ t.jtag = s.jtag ∧ t.store
    = s.store ∧ t.sets = s.sets ∧ t.path = s.path ∧ t.qm = s.qm ∧ t.glaze = s.glaze ∧ t.adm = s.adm ∧ t.mx = s.mx ∧
    t.hbm = s.hbm := by simp [markAck]
@[simp] theorem easelWrite_frame (s : State) (m : Master) (o : Nat) (w : Word) :
    let t := (easelWrite s m o w); t.pending = s.pending ∧ t.timebase = s.timebase ∧ t.freeCtr = s.freeCtr ∧ t.balls
    = s.balls ∧ t.fuses = s.fuses ∧ t.glob = s.glob ∧ t.latch = s.latch ∧ t.mem = s.mem ∧ t.vents = s.vents ∧ t.cals
    = s.cals ∧ t.power = s.power ∧ t.ports = s.ports ∧ t.subs = s.subs ∧ t.mgmt = s.mgmt ∧ t.jtag = s.jtag ∧ t.store
    = s.store ∧ t.sets = s.sets ∧ t.path = s.path ∧ t.qm = s.qm ∧ t.glaze = s.glaze ∧ t.adm = s.adm ∧ t.mx = s.mx ∧
    t.hbm = s.hbm := by
  unfold easelWrite
  (repeat' split) <;> simp
@[simp] theorem mxErr_frame (s : State) (b m t : Nat) :
    let t := (mxErr s b m t); t.pending = s.pending ∧ t.timebase = s.timebase ∧ t.freeCtr = s.freeCtr ∧ t.balls =
    s.balls ∧ t.fuses = s.fuses ∧ t.glob = s.glob ∧ t.latch = s.latch ∧ t.mem = s.mem ∧ t.hostMem = s.hostMem ∧
    t.vents = s.vents ∧ t.cals = s.cals ∧ t.power = s.power ∧ t.ports = s.ports ∧ t.subs = s.subs ∧ t.mgmt = s.mgmt
    ∧ t.jtag = s.jtag ∧ t.store = s.store ∧ t.sets = s.sets ∧ t.path = s.path ∧ t.qm = s.qm ∧ t.glaze = s.glaze ∧
    t.easel = s.easel ∧ t.hb = s.hb ∧ t.adm = s.adm ∧ t.hbm = s.hbm := by simp [mxErr]
@[simp] theorem mxWrite_frame (s : State) (o : Nat) (w : Word) :
    let t := (mxWrite s o w); t.pending = s.pending ∧ t.timebase = s.timebase ∧ t.freeCtr = s.freeCtr ∧ t.balls =
    s.balls ∧ t.fuses = s.fuses ∧ t.glob = s.glob ∧ t.latch = s.latch ∧ t.mem = s.mem ∧ t.hostMem = s.hostMem ∧
    t.vents = s.vents ∧ t.cals = s.cals ∧ t.power = s.power ∧ t.ports = s.ports ∧ t.subs = s.subs ∧ t.mgmt = s.mgmt
    ∧ t.jtag = s.jtag ∧ t.store = s.store ∧ t.sets = s.sets ∧ t.path = s.path ∧ t.qm = s.qm ∧ t.glaze = s.glaze ∧
    t.easel = s.easel ∧ t.hb = s.hb ∧ t.adm = s.adm ∧ t.hbm = s.hbm := by simp [mxWrite]
@[simp] theorem dmaWrite_frame (s : State) (o : Nat) (w : Word) :
    let t := (dmaWrite s o w); t.pending = s.pending ∧ t.timebase = s.timebase ∧ t.freeCtr = s.freeCtr ∧ t.balls =
    s.balls ∧ t.fuses = s.fuses ∧ t.glob = s.glob ∧ t.mem = s.mem ∧ t.hostMem = s.hostMem ∧ t.cals = s.cals ∧
    t.power = s.power ∧ t.ports = s.ports ∧ t.subs = s.subs ∧ t.mgmt = s.mgmt ∧ t.jtag = s.jtag ∧ t.store = s.store
    ∧ t.sets = s.sets ∧ t.path = s.path ∧ t.qm = s.qm ∧ t.glaze = s.glaze ∧ t.easel = s.easel ∧ t.hb = s.hb ∧ t.adm
    = s.adm ∧ t.hbm = s.hbm := by simp [dmaWrite]
@[simp] theorem laneClr_frame (s : State) (p : Nat) (w : Word) :
    let t := (laneClr s p w); t.pending = s.pending ∧ t.timebase = s.timebase ∧ t.freeCtr = s.freeCtr ∧ t.balls =
    s.balls ∧ t.fuses = s.fuses ∧ t.glob = s.glob ∧ t.latch = s.latch ∧ t.mem = s.mem ∧ t.vents = s.vents ∧ t.cals =
    s.cals ∧ t.power = s.power ∧ t.subs = s.subs ∧ t.mgmt = s.mgmt ∧ t.jtag = s.jtag ∧ t.store = s.store ∧ t.sets =
    s.sets ∧ t.path = s.path ∧ t.qm = s.qm ∧ t.glaze = s.glaze ∧ t.easel = s.easel ∧ t.adm = s.adm ∧ t.mx = s.mx ∧
    t.hbm = s.hbm := by simp [laneClr]
@[simp] theorem i2cRetry_frame (s : State) (w : Word) :
    let t := (i2cRetry s w); t.pending = s.pending ∧ t.timebase = s.timebase ∧ t.freeCtr = s.freeCtr ∧ t.balls =
    s.balls ∧ t.fuses = s.fuses ∧ t.glob = s.glob ∧ t.latch = s.latch ∧ t.mem = s.mem ∧ t.hostMem = s.hostMem ∧
    t.vents = s.vents ∧ t.cals = s.cals ∧ t.power = s.power ∧ t.ports = s.ports ∧ t.subs = s.subs ∧ t.jtag = s.jtag
    ∧ t.store = s.store ∧ t.sets = s.sets ∧ t.path = s.path ∧ t.qm = s.qm ∧ t.glaze = s.glaze ∧ t.easel = s.easel ∧
    t.hb = s.hb ∧ t.adm = s.adm ∧ t.mx = s.mx ∧ t.hbm = s.hbm := by simp [i2cRetry]
@[simp] theorem portsWrite_frame (s : State) (o : Nat) (w : Word) :
    let t := (portsWrite s o w); t.pending = s.pending ∧ t.timebase = s.timebase ∧ t.freeCtr = s.freeCtr ∧ t.balls =
    s.balls ∧ t.fuses = s.fuses ∧ t.glob = s.glob ∧ t.latch = s.latch ∧ t.mem = s.mem ∧ t.vents = s.vents ∧ t.cals =
    s.cals ∧ t.power = s.power ∧ t.subs = s.subs ∧ t.jtag = s.jtag ∧ t.store = s.store ∧ t.sets = s.sets ∧ t.path =
    s.path ∧ t.qm = s.qm ∧ t.glaze = s.glaze ∧ t.easel = s.easel ∧ t.adm = s.adm ∧ t.mx = s.mx ∧ t.hbm = s.hbm := by simp [portsWrite]
@[simp] theorem hbmWrite_frame (s : State) (o : Nat) (w : Word) :
    let t := (hbmWrite s o w); t.pending = s.pending ∧ t.timebase = s.timebase ∧ t.freeCtr = s.freeCtr ∧ t.balls =
    s.balls ∧ t.fuses = s.fuses ∧ t.glob = s.glob ∧ t.latch = s.latch ∧ t.mem = s.mem ∧ t.hostMem = s.hostMem ∧
    t.vents = s.vents ∧ t.cals = s.cals ∧ t.power = s.power ∧ t.ports = s.ports ∧ t.subs = s.subs ∧ t.mgmt = s.mgmt
    ∧ t.jtag = s.jtag ∧ t.store = s.store ∧ t.sets = s.sets ∧ t.path = s.path ∧ t.qm = s.qm ∧ t.glaze = s.glaze ∧
    t.easel = s.easel ∧ t.hb = s.hb ∧ t.adm = s.adm ∧ t.mx = s.mx := by simp [hbmWrite]
@[simp] theorem powerErr_frame (s : State) (b : Nat) :
    let t := (powerErr s b); t.pending = s.pending ∧ t.timebase = s.timebase ∧ t.freeCtr = s.freeCtr ∧ t.balls =
    s.balls ∧ t.fuses = s.fuses ∧ t.glob = s.glob ∧ t.latch = s.latch ∧ t.mem = s.mem ∧ t.hostMem = s.hostMem ∧
    t.vents = s.vents ∧ t.cals = s.cals ∧ t.ports = s.ports ∧ t.subs = s.subs ∧ t.mgmt = s.mgmt ∧ t.jtag = s.jtag ∧
    t.store = s.store ∧ t.sets = s.sets ∧ t.path = s.path ∧ t.qm = s.qm ∧ t.glaze = s.glaze ∧ t.easel = s.easel ∧
    t.hb = s.hb ∧ t.adm = s.adm ∧ t.mx = s.mx ∧ t.hbm = s.hbm := by simp [powerErr]
@[simp] theorem acceptFar_frame (s : State) (c : Nat) (on : Bool) :
    let t := (acceptFar s c on); t.pending = s.pending ∧ t.timebase = s.timebase ∧ t.freeCtr = s.freeCtr ∧ t.balls =
    s.balls ∧ t.fuses = s.fuses ∧ t.glob = s.glob ∧ t.latch = s.latch ∧ t.mem = s.mem ∧ t.hostMem = s.hostMem ∧
    t.cals = s.cals ∧ t.power = s.power ∧ t.ports = s.ports ∧ t.subs = s.subs ∧ t.mgmt = s.mgmt ∧ t.jtag = s.jtag ∧
    t.store = s.store ∧ t.sets = s.sets ∧ t.path = s.path ∧ t.qm = s.qm ∧ t.glaze = s.glaze ∧ t.easel = s.easel ∧
    t.hb = s.hb ∧ t.adm = s.adm ∧ t.mx = s.mx ∧ t.hbm = s.hbm := by simp [acceptFar]
@[simp] theorem gateStart_frame (s0 : State) (c : Nat) :
    let t := (gateStart s0 c); t.pending = s0.pending ∧ t.timebase = s0.timebase ∧ t.freeCtr = s0.freeCtr ∧ t.balls
    = s0.balls ∧ t.fuses = s0.fuses ∧ t.glob = s0.glob ∧ t.latch = s0.latch ∧ t.mem = s0.mem ∧ t.hostMem =
    s0.hostMem ∧ t.ports = s0.ports ∧ t.subs = s0.subs ∧ t.mgmt = s0.mgmt ∧ t.jtag = s0.jtag ∧ t.store = s0.store ∧
    t.sets = s0.sets ∧ t.path = s0.path ∧ t.qm = s0.qm ∧ t.glaze = s0.glaze ∧ t.easel = s0.easel ∧ t.hb = s0.hb ∧
    t.adm = s0.adm ∧ t.hbm = s0.hbm := by simp [gateStart]
@[simp] theorem gateBit_frame (s : State) (c : Nat) (g : Bool) :
    let t := (gateBit s c g); t.pending = s.pending ∧ t.timebase = s.timebase ∧ t.freeCtr = s.freeCtr ∧ t.balls =
    s.balls ∧ t.fuses = s.fuses ∧ t.glob = s.glob ∧ t.latch = s.latch ∧ t.mem = s.mem ∧ t.hostMem = s.hostMem ∧
    t.ports = s.ports ∧ t.subs = s.subs ∧ t.mgmt = s.mgmt ∧ t.jtag = s.jtag ∧ t.store = s.store ∧ t.sets = s.sets ∧
    t.path = s.path ∧ t.qm = s.qm ∧ t.glaze = s.glaze ∧ t.easel = s.easel ∧ t.hb = s.hb ∧ t.adm = s.adm ∧ t.hbm =
    s.hbm := by simp [gateBit]
@[simp] theorem powerWrite_frame (s : State) (o : Nat) (w : Word) :
    let t := (powerWrite s o w); t.pending = s.pending ∧ t.timebase = s.timebase ∧ t.freeCtr = s.freeCtr ∧ t.balls =
    s.balls ∧ t.fuses = s.fuses ∧ t.glob = s.glob ∧ t.latch = s.latch ∧ t.mem = s.mem ∧ t.hostMem = s.hostMem ∧
    t.ports = s.ports ∧ t.subs = s.subs ∧ t.mgmt = s.mgmt ∧ t.jtag = s.jtag ∧ t.store = s.store ∧ t.sets = s.sets ∧
    t.path = s.path ∧ t.qm = s.qm ∧ t.glaze = s.glaze ∧ t.easel = s.easel ∧ t.hb = s.hb ∧ t.adm = s.adm ∧ t.hbm =
    s.hbm := by simp [powerWrite]
@[simp] theorem vinCfgWrite_frame (s : State) (v : Nat) (w0 : Word) :
    let t := (vinCfgWrite s v w0); t.pending = s.pending ∧ t.timebase = s.timebase ∧ t.freeCtr = s.freeCtr ∧ t.balls
    = s.balls ∧ t.fuses = s.fuses ∧ t.glob = s.glob ∧ t.latch = s.latch ∧ t.mem = s.mem ∧ t.hostMem = s.hostMem ∧
    t.cals = s.cals ∧ t.power = s.power ∧ t.ports = s.ports ∧ t.subs = s.subs ∧ t.mgmt = s.mgmt ∧ t.jtag = s.jtag ∧
    t.store = s.store ∧ t.sets = s.sets ∧ t.path = s.path ∧ t.qm = s.qm ∧ t.glaze = s.glaze ∧ t.easel = s.easel ∧
    t.hb = s.hb ∧ t.adm = s.adm ∧ t.mx = s.mx ∧ t.hbm = s.hbm := by simp [vinCfgWrite]
@[simp] theorem vinConsWrite_frame (s : State) (v : Nat) (w : Word) :
    let t := (vinConsWrite s v w); t.pending = s.pending ∧ t.timebase = s.timebase ∧ t.freeCtr = s.freeCtr ∧ t.balls
    = s.balls ∧ t.fuses = s.fuses ∧ t.glob = s.glob ∧ t.latch = s.latch ∧ t.mem = s.mem ∧ t.hostMem = s.hostMem ∧
    t.cals = s.cals ∧ t.power = s.power ∧ t.ports = s.ports ∧ t.subs = s.subs ∧ t.mgmt = s.mgmt ∧ t.jtag = s.jtag ∧
    t.store = s.store ∧ t.sets = s.sets ∧ t.path = s.path ∧ t.qm = s.qm ∧ t.glaze = s.glaze ∧ t.easel = s.easel ∧
    t.hb = s.hb ∧ t.adm = s.adm ∧ t.mx = s.mx ∧ t.hbm = s.hbm := by simp [vinConsWrite]
@[simp] theorem wdExpire_frame (s : State) (v : Nat) :
    let t := (wdExpire s v); t.pending = s.pending ∧ t.timebase = s.timebase ∧ t.freeCtr = s.freeCtr ∧ t.balls =
    s.balls ∧ t.fuses = s.fuses ∧ t.glob = s.glob ∧ t.latch = s.latch ∧ t.mem = s.mem ∧ t.cals = s.cals ∧ t.power =
    s.power ∧ t.ports = s.ports ∧ t.subs = s.subs ∧ t.mgmt = s.mgmt ∧ t.jtag = s.jtag ∧ t.sets = s.sets ∧ t.path =
    s.path ∧ t.qm = s.qm ∧ t.glaze = s.glaze ∧ t.adm = s.adm ∧ t.mx = s.mx ∧ t.hbm = s.hbm := by simp [wdExpire]
@[simp] theorem vwdogWrite_frame (s : State) (m : Master) (v : Nat) (w : Word) :
    let t := (vwdogWrite s m v w); t.pending = s.pending ∧ t.timebase = s.timebase ∧ t.freeCtr = s.freeCtr ∧ t.balls
    = s.balls ∧ t.fuses = s.fuses ∧ t.glob = s.glob ∧ t.latch = s.latch ∧ t.mem = s.mem ∧ t.cals = s.cals ∧ t.power
    = s.power ∧ t.ports = s.ports ∧ t.subs = s.subs ∧ t.mgmt = s.mgmt ∧ t.jtag = s.jtag ∧ t.sets = s.sets ∧ t.path =
    s.path ∧ t.qm = s.qm ∧ t.glaze = s.glaze ∧ t.adm = s.adm ∧ t.mx = s.mx ∧ t.hbm = s.hbm := by simp [vwdogWrite]
@[simp] theorem ventRegWrite_frame (s : State) (m : Master) (v i : Nat) (w : Word) :
    let t := (ventRegWrite s m v i w).2; t.pending = s.pending ∧ t.timebase = s.timebase ∧ t.freeCtr = s.freeCtr ∧
    t.balls = s.balls ∧ t.fuses = s.fuses ∧ t.glob = s.glob ∧ t.mem = s.mem ∧ t.cals = s.cals ∧ t.power = s.power ∧
    t.ports = s.ports ∧ t.subs = s.subs ∧ t.mgmt = s.mgmt ∧ t.jtag = s.jtag ∧ t.sets = s.sets ∧ t.path = s.path ∧
    t.qm = s.qm ∧ t.glaze = s.glaze ∧ t.adm = s.adm ∧ t.mx = s.mx ∧ t.hbm = s.hbm := by simp [ventRegWrite]
@[simp] theorem blockWrite_frame (s : State) (m : Master) (b o : Nat) (w : Word) :
    let t := (blockWrite s m b o w); t.pending = s.pending ∧ t.timebase = s.timebase ∧ t.balls = s.balls ∧ t.fuses =
    s.fuses ∧ t.mem = s.mem ∧ t.subs = s.subs ∧ t.jtag = s.jtag ∧ t.sets = s.sets := by
  unfold blockWrite
  split <;> simp
@[simp] theorem regRead_frame (m : Master) (a : Nat) (s : State) :
    let t := (regRead m a s).2.2; t.pending = s.pending ∧ t.timebase = s.timebase ∧ t.balls = s.balls ∧ t.fuses =
    s.fuses ∧ t.mem = s.mem ∧ t.hostMem = s.hostMem ∧ t.vents = s.vents ∧ t.cals = s.cals ∧ t.power = s.power ∧
    t.ports = s.ports ∧ t.subs = s.subs ∧ t.mgmt = s.mgmt ∧ t.jtag = s.jtag ∧ t.store = s.store ∧ t.sets = s.sets ∧
    t.path = s.path ∧ t.qm = s.qm ∧ t.glaze = s.glaze ∧ t.easel = s.easel ∧ t.hb = s.hb ∧ t.adm = s.adm ∧ t.mx =
    s.mx ∧ t.hbm = s.hbm := by
  unfold regRead
  (repeat' (first | (split <;> try (rename_i h; first | (have e := pair_third h; clear h; subst e) | (have e := pair_snd h; have e2 := pair_fst h; clear h; subst e; try subst e2) | (have e := pair_fst h; clear h; subst e))) | (dsimp only; split))) <;> simp
@[simp] theorem regWrite_frame (m : Master) (a : Nat) (w : Word) (s : State) :
    let t := (regWrite m a w s).2; t.pending = s.pending ∧ t.timebase = s.timebase ∧ t.balls = s.balls ∧ t.fuses =
    s.fuses ∧ t.mem = s.mem ∧ t.subs = s.subs ∧ t.jtag = s.jtag ∧ t.sets = s.sets := by
  unfold regWrite
  split <;> simp

/-! ### Machine/MatrixBase.lean -/

@[simp] theorem regReadWords_frame (m : Master) (n0 : Nat) (n1 : Nat) (s : State) :
    let t := (regReadWords m n0 n1 s).2.2; t.pending = s.pending ∧ t.timebase = s.timebase ∧ t.balls = s.balls ∧
    t.fuses = s.fuses ∧ t.mem = s.mem ∧ t.hostMem = s.hostMem ∧ t.vents = s.vents ∧ t.cals = s.cals ∧ t.power =
    s.power ∧ t.ports = s.ports ∧ t.subs = s.subs ∧ t.mgmt = s.mgmt ∧ t.jtag = s.jtag ∧ t.store = s.store ∧ t.sets =
    s.sets ∧ t.path = s.path ∧ t.qm = s.qm ∧ t.glaze = s.glaze ∧ t.easel = s.easel ∧ t.hb = s.hb ∧ t.adm = s.adm ∧
    t.mx = s.mx ∧ t.hbm = s.hbm := by
  induction n0 generalizing n1 s with
  | zero => simp [regReadWords]
  | succ n ih => unfold regReadWords; (repeat' (first | (split <;> try (rename_i h; first | (have e := pair_third h; clear h; subst e) | (have e := pair_snd h; have e2 := pair_fst h; clear h; subst e; try subst e2) | (have e := pair_fst h; clear h; subst e))) | (dsimp only; split))) <;> simp [ih]
@[simp] theorem regReadBytes_frame (m : Master) (a n : Nat) (s : State) :
    let t := (regReadBytes m a n s).2.2; t.pending = s.pending ∧ t.timebase = s.timebase ∧ t.balls = s.balls ∧
    t.fuses = s.fuses ∧ t.mem = s.mem ∧ t.hostMem = s.hostMem ∧ t.vents = s.vents ∧ t.cals = s.cals ∧ t.power =
    s.power ∧ t.ports = s.ports ∧ t.subs = s.subs ∧ t.mgmt = s.mgmt ∧ t.jtag = s.jtag ∧ t.store = s.store ∧ t.sets =
    s.sets ∧ t.path = s.path ∧ t.qm = s.qm ∧ t.glaze = s.glaze ∧ t.easel = s.easel ∧ t.hb = s.hb ∧ t.adm = s.adm ∧
    t.mx = s.mx ∧ t.hbm = s.hbm := by simp [regReadBytes]
@[simp] theorem regWriteBytes_frame (m : Master) (w : List (Nat × Byte)) (s : State) :
    let t := (regWriteBytes m w s).2; t.pending = s.pending ∧ t.timebase = s.timebase ∧ t.balls = s.balls ∧ t.fuses
    = s.fuses ∧ t.mem = s.mem ∧ t.subs = s.subs ∧ t.jtag = s.jtag ∧ t.sets = s.sets := by simp [regWriteBytes]
@[simp] theorem zeroRegion_frame (s : State) (r : Nat) :
    let t := (zeroRegion s r); t.pending = s.pending ∧ t.timebase = s.timebase ∧ t.freeCtr = s.freeCtr ∧ t.balls =
    s.balls ∧ t.fuses = s.fuses ∧ t.glob = s.glob ∧ t.latch = s.latch ∧ t.hostMem = s.hostMem ∧ t.vents = s.vents ∧
    t.cals = s.cals ∧ t.power = s.power ∧ t.ports = s.ports ∧ t.subs = s.subs ∧ t.mgmt = s.mgmt ∧ t.jtag = s.jtag ∧
    t.store = s.store ∧ t.sets = s.sets ∧ t.path = s.path ∧ t.qm = s.qm ∧ t.glaze = s.glaze ∧ t.easel = s.easel ∧
    t.hb = s.hb ∧ t.adm = s.adm ∧ t.mx = s.mx := by simp [zeroRegion]
@[simp] theorem hbmErr_frame (s : State) (b : Nat) :
    let t := (hbmErr s b); t.pending = s.pending ∧ t.timebase = s.timebase ∧ t.freeCtr = s.freeCtr ∧ t.balls =
    s.balls ∧ t.fuses = s.fuses ∧ t.glob = s.glob ∧ t.latch = s.latch ∧ t.mem = s.mem ∧ t.hostMem = s.hostMem ∧
    t.vents = s.vents ∧ t.cals = s.cals ∧ t.power = s.power ∧ t.ports = s.ports ∧ t.subs = s.subs ∧ t.mgmt = s.mgmt
    ∧ t.jtag = s.jtag ∧ t.store = s.store ∧ t.sets = s.sets ∧ t.path = s.path ∧ t.qm = s.qm ∧ t.glaze = s.glaze ∧
    t.easel = s.easel ∧ t.hb = s.hb ∧ t.adm = s.adm ∧ t.mx = s.mx := by simp [hbmErr]
@[simp] theorem hbmCorrected_frame (s : State) :
    let t := (hbmCorrected s); t.pending = s.pending ∧ t.timebase = s.timebase ∧ t.freeCtr = s.freeCtr ∧ t.balls =
    s.balls ∧ t.fuses = s.fuses ∧ t.glob = s.glob ∧ t.latch = s.latch ∧ t.mem = s.mem ∧ t.hostMem = s.hostMem ∧
    t.vents = s.vents ∧ t.cals = s.cals ∧ t.power = s.power ∧ t.ports = s.ports ∧ t.subs = s.subs ∧ t.mgmt = s.mgmt
    ∧ t.jtag = s.jtag ∧ t.store = s.store ∧ t.sets = s.sets ∧ t.path = s.path ∧ t.qm = s.qm ∧ t.glaze = s.glaze ∧
    t.easel = s.easel ∧ t.hb = s.hb ∧ t.adm = s.adm ∧ t.mx = s.mx := by simp [hbmCorrected]
@[simp] theorem hbmPoison_frame (s : State) (b k : Nat) :
    let t := (hbmPoison s b k); t.pending = s.pending ∧ t.timebase = s.timebase ∧ t.freeCtr = s.freeCtr ∧ t.balls =
    s.balls ∧ t.fuses = s.fuses ∧ t.glob = s.glob ∧ t.latch = s.latch ∧ t.mem = s.mem ∧ t.hostMem = s.hostMem ∧
    t.vents = s.vents ∧ t.cals = s.cals ∧ t.power = s.power ∧ t.ports = s.ports ∧ t.subs = s.subs ∧ t.mgmt = s.mgmt
    ∧ t.jtag = s.jtag ∧ t.store = s.store ∧ t.sets = s.sets ∧ t.path = s.path ∧ t.qm = s.qm ∧ t.glaze = s.glaze ∧
    t.easel = s.easel ∧ t.hb = s.hb ∧ t.adm = s.adm ∧ t.mx = s.mx := by simp [hbmPoison]
@[simp] theorem hbmMeet_frame (s : State) (k : Nat) :
    let t := (hbmMeet s k); t.pending = s.pending ∧ t.timebase = s.timebase ∧ t.freeCtr = s.freeCtr ∧ t.balls =
    s.balls ∧ t.fuses = s.fuses ∧ t.glob = s.glob ∧ t.latch = s.latch ∧ t.mem = s.mem ∧ t.hostMem = s.hostMem ∧
    t.vents = s.vents ∧ t.cals = s.cals ∧ t.power = s.power ∧ t.ports = s.ports ∧ t.subs = s.subs ∧ t.mgmt = s.mgmt
    ∧ t.jtag = s.jtag ∧ t.store = s.store ∧ t.sets = s.sets ∧ t.path = s.path ∧ t.qm = s.qm ∧ t.glaze = s.glaze ∧
    t.easel = s.easel ∧ t.hb = s.hb ∧ t.adm = s.adm ∧ t.mx = s.mx := by
  unfold hbmMeet
  (repeat' split) <;> simp
@[simp] theorem hbmReadBytes_frame (s : State) (o n : Nat) :
    let t := (hbmReadBytes s o n).2.2; t.pending = s.pending ∧ t.timebase = s.timebase ∧ t.freeCtr = s.freeCtr ∧
    t.balls = s.balls ∧ t.fuses = s.fuses ∧ t.glob = s.glob ∧ t.latch = s.latch ∧ t.mem = s.mem ∧ t.hostMem =
    s.hostMem ∧ t.vents = s.vents ∧ t.cals = s.cals ∧ t.power = s.power ∧ t.ports = s.ports ∧ t.subs = s.subs ∧
    t.mgmt = s.mgmt ∧ t.jtag = s.jtag ∧ t.store = s.store ∧ t.sets = s.sets ∧ t.path = s.path ∧ t.qm = s.qm ∧
    t.glaze = s.glaze ∧ t.easel = s.easel ∧ t.hb = s.hb ∧ t.adm = s.adm ∧ t.mx = s.mx := by
  unfold hbmReadBytes
  (repeat' (first | (split <;> try (rename_i h; first | (have e := pair_third h; clear h; subst e) | (have e := pair_snd h; have e2 := pair_fst h; clear h; subst e; try subst e2) | (have e := pair_fst h; clear h; subst e))) | (dsimp only; split))) <;> simp
@[simp] theorem hbmWriteBytes_frame (s : State) (w : List (Nat × Byte)) :
    let t := (hbmWriteBytes s w).2; t.pending = s.pending ∧ t.timebase = s.timebase ∧ t.freeCtr = s.freeCtr ∧
    t.balls = s.balls ∧ t.fuses = s.fuses ∧ t.glob = s.glob ∧ t.latch = s.latch ∧ t.hostMem = s.hostMem ∧ t.vents =
    s.vents ∧ t.cals = s.cals ∧ t.power = s.power ∧ t.ports = s.ports ∧ t.subs = s.subs ∧ t.mgmt = s.mgmt ∧ t.jtag =
    s.jtag ∧ t.store = s.store ∧ t.sets = s.sets ∧ t.path = s.path ∧ t.qm = s.qm ∧ t.glaze = s.glaze ∧ t.easel =
    s.easel ∧ t.hb = s.hb ∧ t.adm = s.adm ∧ t.mx = s.mx := by simp [hbmWriteBytes]
@[simp] theorem hbmPut_frame (s : State) (w : List (Nat × Byte)) :
    let t := (hbmPut s w); t.pending = s.pending ∧ t.timebase = s.timebase ∧ t.freeCtr = s.freeCtr ∧ t.balls =
    s.balls ∧ t.fuses = s.fuses ∧ t.glob = s.glob ∧ t.latch = s.latch ∧ t.hostMem = s.hostMem ∧ t.vents = s.vents ∧
    t.cals = s.cals ∧ t.power = s.power ∧ t.ports = s.ports ∧ t.subs = s.subs ∧ t.mgmt = s.mgmt ∧ t.jtag = s.jtag ∧
    t.store = s.store ∧ t.sets = s.sets ∧ t.path = s.path ∧ t.qm = s.qm ∧ t.glaze = s.glaze ∧ t.easel = s.easel ∧
    t.hb = s.hb ∧ t.adm = s.adm ∧ t.mx = s.mx := by simp [hbmPut]
@[simp] theorem pbUe_frame (s : State) (cell : Nat) :
    let t := (pbUe s cell); t.pending = s.pending ∧ t.timebase = s.timebase ∧ t.freeCtr = s.freeCtr ∧ t.balls =
    s.balls ∧ t.fuses = s.fuses ∧ t.glob = s.glob ∧ t.latch = s.latch ∧ t.mem = s.mem ∧ t.hostMem = s.hostMem ∧
    t.cals = s.cals ∧ t.power = s.power ∧ t.ports = s.ports ∧ t.subs = s.subs ∧ t.mgmt = s.mgmt ∧ t.jtag = s.jtag ∧
    t.store = s.store ∧ t.sets = s.sets ∧ t.path = s.path ∧ t.glaze = s.glaze ∧ t.easel = s.easel ∧ t.hb = s.hb ∧
    t.adm = s.adm ∧ t.mx = s.mx ∧ t.hbm = s.hbm := by simp [pbUe]
@[simp] theorem winAsk_frame (s : State) (w o : Nat) (wr : Bool) (n : Nat) :
    let t := (winAsk s w o wr n); t.pending = s.pending ∧ t.timebase = s.timebase ∧ t.freeCtr = s.freeCtr ∧ t.balls
    = s.balls ∧ t.fuses = s.fuses ∧ t.glob = s.glob ∧ t.latch = s.latch ∧ t.mem = s.mem ∧ t.hostMem = s.hostMem ∧
    t.vents = s.vents ∧ t.cals = s.cals ∧ t.power = s.power ∧ t.ports = s.ports ∧ t.subs = s.subs ∧ t.mgmt = s.mgmt
    ∧ t.jtag = s.jtag ∧ t.store = s.store ∧ t.sets = s.sets ∧ t.path = s.path ∧ t.qm = s.qm ∧ t.glaze = s.glaze ∧
    t.easel = s.easel ∧ t.adm = s.adm ∧ t.mx = s.mx ∧ t.hbm = s.hbm := by simp [winAsk]
@[simp] theorem winRead_frame (s : State) (w o n : Nat) :
    let t := (winRead s w o n).2.2; t.pending = s.pending ∧ t.timebase = s.timebase ∧ t.freeCtr = s.freeCtr ∧
    t.balls = s.balls ∧ t.fuses = s.fuses ∧ t.glob = s.glob ∧ t.latch = s.latch ∧ t.mem = s.mem ∧ t.hostMem =
    s.hostMem ∧ t.vents = s.vents ∧ t.cals = s.cals ∧ t.power = s.power ∧ t.ports = s.ports ∧ t.subs = s.subs ∧
    t.mgmt = s.mgmt ∧ t.jtag = s.jtag ∧ t.store = s.store ∧ t.sets = s.sets ∧ t.path = s.path ∧ t.qm = s.qm ∧
    t.glaze = s.glaze ∧ t.easel = s.easel ∧ t.adm = s.adm ∧ t.mx = s.mx ∧ t.hbm = s.hbm := by
  unfold winRead
  (repeat' (first | (split <;> try (rename_i h; first | (have e := pair_third h; clear h; subst e) | (have e := pair_snd h; have e2 := pair_fst h; clear h; subst e; try subst e2) | (have e := pair_fst h; clear h; subst e))) | (dsimp only; split))) <;> simp
@[simp] theorem matRead0_frame (m : Master) (a n : Nat) (s : State) :
    let t := (matRead0 m a n s).2.2; t.pending = s.pending ∧ t.timebase = s.timebase ∧ t.balls = s.balls ∧ t.fuses =
    s.fuses ∧ t.mem = s.mem ∧ t.cals = s.cals ∧ t.power = s.power ∧ t.ports = s.ports ∧ t.subs = s.subs ∧ t.mgmt =
    s.mgmt ∧ t.jtag = s.jtag ∧ t.sets = s.sets ∧ t.path = s.path ∧ t.glaze = s.glaze ∧ t.easel = s.easel ∧ t.adm =
    s.adm ∧ t.mx = s.mx := by
  unfold matRead0
  (repeat' (first | (split <;> try (rename_i h; first | (have e := pair_third h; clear h; subst e) | (have e := pair_snd h; have e2 := pair_fst h; clear h; subst e; try subst e2) | (have e := pair_fst h; clear h; subst e))) | (dsimp only; split))) <;> simp
@[simp] theorem matWrite0_frame (m : Master) (w : List (Nat × Byte)) (s : State) :
    let t := (matWrite0 m w s).2; t.pending = s.pending ∧ t.timebase = s.timebase ∧ t.balls = s.balls ∧ t.fuses =
    s.fuses ∧ t.subs = s.subs ∧ t.jtag = s.jtag ∧ t.sets = s.sets := by
  unfold matWrite0
  (repeat' split) <;> simp
@[simp] theorem submitJob_frame (s : State) (v : Nat) (bs : List Byte) :
    let t := (submitJob s v bs); t.pending = s.pending ∧ t.timebase = s.timebase ∧ t.freeCtr = s.freeCtr ∧ t.balls =
    s.balls ∧ t.fuses = s.fuses ∧ t.glob = s.glob ∧ t.latch = s.latch ∧ t.mem = s.mem ∧ t.hostMem = s.hostMem ∧
    t.vents = s.vents ∧ t.cals = s.cals ∧ t.power = s.power ∧ t.ports = s.ports ∧ t.subs = s.subs ∧ t.mgmt = s.mgmt
    ∧ t.jtag = s.jtag ∧ t.sets = s.sets ∧ t.qm = s.qm ∧ t.glaze = s.glaze ∧ t.easel = s.easel ∧ t.hb = s.hb ∧ t.adm
    = s.adm ∧ t.mx = s.mx ∧ t.hbm = s.hbm := by simp [submitJob]

/-! ### Machine/Dma.lean -/

@[simp] theorem paceStart_frame (s : State) (n : Nat) :
    let t := (paceStart s n); t.pending = s.pending ∧ t.timebase = s.timebase ∧ t.freeCtr = s.freeCtr ∧ t.balls =
    s.balls ∧ t.fuses = s.fuses ∧ t.glob = s.glob ∧ t.latch = s.latch ∧ t.mem = s.mem ∧ t.hostMem = s.hostMem ∧
    t.cals = s.cals ∧ t.power = s.power ∧ t.ports = s.ports ∧ t.subs = s.subs ∧ t.mgmt = s.mgmt ∧ t.jtag = s.jtag ∧
    t.store = s.store ∧ t.sets = s.sets ∧ t.path = s.path ∧ t.qm = s.qm ∧ t.glaze = s.glaze ∧ t.easel = s.easel ∧
    t.hb = s.hb ∧ t.adm = s.adm ∧ t.hbm = s.hbm := by
  unfold paceStart
  (repeat' (first | (split <;> try (rename_i h; first | (have e := pair_third h; clear h; subst e) | (have e := pair_snd h; have e2 := pair_fst h; clear h; subst e; try subst e2) | (have e := pair_fst h; clear h; subst e))) | (dsimp only; split))) <;> simp
@[simp] theorem dmaFail_frame (s : State) (n : Nat) (code : RespCode) (addr : Nat) (tries limit : Nat) :
    let t := (dmaFail s n code addr tries limit); t.pending = s.pending ∧ t.timebase = s.timebase ∧ t.freeCtr =
    s.freeCtr ∧ t.balls = s.balls ∧ t.fuses = s.fuses ∧ t.glob = s.glob ∧ t.latch = s.latch ∧ t.mem = s.mem ∧
    t.hostMem = s.hostMem ∧ t.cals = s.cals ∧ t.power = s.power ∧ t.ports = s.ports ∧ t.subs = s.subs ∧ t.mgmt =
    s.mgmt ∧ t.jtag = s.jtag ∧ t.store = s.store ∧ t.sets = s.sets ∧ t.path = s.path ∧ t.qm = s.qm ∧ t.glaze =
    s.glaze ∧ t.easel = s.easel ∧ t.hb = s.hb ∧ t.adm = s.adm ∧ t.hbm = s.hbm := by simp [dmaFail]
@[simp] theorem dmaFetch_frame (s : State) (n tries limit : Nat) :
    let t := (dmaFetch s n tries limit); t.pending = s.pending ∧ t.timebase = s.timebase ∧ t.balls = s.balls ∧
    t.fuses = s.fuses ∧ t.mem = s.mem ∧ t.cals = s.cals ∧ t.power = s.power ∧ t.ports = s.ports ∧ t.subs = s.subs ∧
    t.mgmt = s.mgmt ∧ t.jtag = s.jtag ∧ t.sets = s.sets ∧ t.path = s.path ∧ t.glaze = s.glaze ∧ t.easel = s.easel ∧
    t.adm = s.adm := by simp [dmaFetch]
@[simp] theorem dmaBurst_frame (s : State) (n : Nat) :
    let t := (dmaBurst s n).2.2; t.pending = s.pending ∧ t.timebase = s.timebase ∧ t.balls = s.balls ∧ t.fuses =
    s.fuses ∧ t.subs = s.subs ∧ t.jtag = s.jtag ∧ t.sets = s.sets := by
  unfold dmaBurst
  (repeat' (first | (split <;> try (rename_i h; first | (have e := pair_third h; clear h; subst e) | (have e := pair_snd h; have e2 := pair_fst h; clear h; subst e; try subst e2) | (have e := pair_fst h; clear h; subst e))) | (dsimp only; split))) <;> simp
@[simp] theorem dmaOnce_frame (s : State) (n : Nat) :
    let t := (dmaOnce s n); t.pending = s.pending ∧ t.timebase = s.timebase ∧ t.balls = s.balls ∧ t.fuses = s.fuses
    ∧ t.subs = s.subs ∧ t.jtag = s.jtag ∧ t.sets = s.sets := by
  unfold dmaOnce
  (repeat' (first | (split <;> try (rename_i h; first | (have e := pair_third h; clear h; subst e) | (have e := pair_snd h; have e2 := pair_fst h; clear h; subst e; try subst e2) | (have e := pair_fst h; clear h; subst e))) | (dsimp only; split))) <;> simp
@[simp] theorem dmaServe_frame (s : State) (n : Nat) :
    let t := (dmaServe s n); t.pending = s.pending ∧ t.timebase = s.timebase ∧ t.balls = s.balls ∧ t.fuses = s.fuses
    ∧ t.subs = s.subs ∧ t.jtag = s.jtag ∧ t.sets = s.sets := by
  unfold dmaServe
  (repeat' (first | (split <;> try (rename_i h; first | (have e := pair_third h; clear h; subst e) | (have e := pair_snd h; have e2 := pair_fst h; clear h; subst e; try subst e2) | (have e := pair_fst h; clear h; subst e))) | (dsimp only; split))) <;> simp
@[simp] theorem dmaSettle_frame (s : State) :
    let t := (dmaSettle s); t.pending = s.pending ∧ t.timebase = s.timebase ∧ t.balls = s.balls ∧ t.fuses = s.fuses
    ∧ t.subs = s.subs ∧ t.jtag = s.jtag ∧ t.sets = s.sets := by simp [dmaSettle]
@[simp] theorem dmaMove_frame (n stop : Nat) (n0 : Nat) (s : State) :
    let t := (dmaMove n stop n0 s); t.pending = s.pending ∧ t.timebase = s.timebase ∧ t.balls = s.balls ∧ t.fuses =
    s.fuses ∧ t.subs = s.subs ∧ t.jtag = s.jtag ∧ t.sets = s.sets := by
  induction n0 generalizing s with
  | zero => simp [dmaMove]
  | succ n ih => unfold dmaMove; (repeat' (first | (split <;> try (rename_i h; first | (have e := pair_third h; clear h; subst e) | (have e := pair_snd h; have e2 := pair_fst h; clear h; subst e; try subst e2) | (have e := pair_fst h; clear h; subst e))) | (dsimp only; split))) <;> simp [ih]
@[simp] theorem paceChange_frame (s : State) (n : Nat) :
    let t := (paceChange s n); t.pending = s.pending ∧ t.timebase = s.timebase ∧ t.freeCtr = s.freeCtr ∧ t.balls =
    s.balls ∧ t.fuses = s.fuses ∧ t.glob = s.glob ∧ t.latch = s.latch ∧ t.mem = s.mem ∧ t.hostMem = s.hostMem ∧
    t.cals = s.cals ∧ t.power = s.power ∧ t.ports = s.ports ∧ t.subs = s.subs ∧ t.mgmt = s.mgmt ∧ t.jtag = s.jtag ∧
    t.store = s.store ∧ t.sets = s.sets ∧ t.path = s.path ∧ t.qm = s.qm ∧ t.glaze = s.glaze ∧ t.easel = s.easel ∧
    t.hb = s.hb ∧ t.adm = s.adm ∧ t.hbm = s.hbm := by
  unfold paceChange
  (repeat' (first | (split <;> try (rename_i h; first | (have e := pair_third h; clear h; subst e) | (have e := pair_snd h; have e2 := pair_fst h; clear h; subst e; try subst e2) | (have e := pair_fst h; clear h; subst e))) | (dsimp only; split))) <;> simp
@[simp] theorem dmaComplete_frame (s0 : State) (n : Nat) :
    let t := (dmaComplete s0 n); t.pending = s0.pending ∧ t.timebase = s0.timebase ∧ t.balls = s0.balls ∧ t.fuses =
    s0.fuses ∧ t.subs = s0.subs ∧ t.jtag = s0.jtag ∧ t.sets = s0.sets := by
  unfold dmaComplete
  (repeat' (first | (split <;> try (rename_i h; first | (have e := pair_third h; clear h; subst e) | (have e := pair_snd h; have e2 := pair_fst h; clear h; subst e; try subst e2) | (have e := pair_fst h; clear h; subst e))) | (dsimp only; split))) <;> simp
@[simp] theorem dmaFetchError_frame (s : State) (n : Nat) (code : RespCode) :
    let t := (dmaFetchError s n code); t.pending = s.pending ∧ t.timebase = s.timebase ∧ t.freeCtr = s.freeCtr ∧
    t.balls = s.balls ∧ t.fuses = s.fuses ∧ t.glob = s.glob ∧ t.latch = s.latch ∧ t.mem = s.mem ∧ t.hostMem =
    s.hostMem ∧ t.cals = s.cals ∧ t.power = s.power ∧ t.ports = s.ports ∧ t.subs = s.subs ∧ t.mgmt = s.mgmt ∧ t.jtag
    = s.jtag ∧ t.store = s.store ∧ t.sets = s.sets ∧ t.path = s.path ∧ t.qm = s.qm ∧ t.glaze = s.glaze ∧ t.easel =
    s.easel ∧ t.hb = s.hb ∧ t.adm = s.adm ∧ t.hbm = s.hbm := by simp [dmaFetchError]
@[simp] theorem dmaBurstError_frame (s : State) (n left : Nat) (wr : Bool) (code : RespCode) :
    let t := (dmaBurstError s n left wr code); t.pending = s.pending ∧ t.timebase = s.timebase ∧ t.balls = s.balls ∧
    t.fuses = s.fuses ∧ t.subs = s.subs ∧ t.jtag = s.jtag ∧ t.sets = s.sets := by simp [dmaBurstError]
@[simp] theorem dmaBusError_frame (s : State) (n : Nat) (what : DmaAccess) (code : RespCode) :
    let t := (dmaBusError s n what code); t.pending = s.pending ∧ t.timebase = s.timebase ∧ t.balls = s.balls ∧
    t.fuses = s.fuses ∧ t.subs = s.subs ∧ t.jtag = s.jtag ∧ t.sets = s.sets := by
  unfold dmaBusError
  split <;> simp
@[simp] theorem dmaRetryDo_frame (s : State) (n : Nat) (ok : Bool) (last : Option RespCode) :
    let t := (dmaRetryDo s n ok last); t.pending = s.pending ∧ t.timebase = s.timebase ∧ t.balls = s.balls ∧ t.fuses =
    s.fuses ∧ t.subs = s.subs ∧ t.jtag = s.jtag ∧ t.sets = s.sets := by
  unfold dmaRetryDo
  (repeat' (first | (split <;> try (rename_i h; first | (have e := pair_third h; clear h; subst e) | (have e := pair_snd h; have e2 := pair_fst h; clear h; subst e; try subst e2) | (have e := pair_fst h; clear h; subst e))) | (dsimp only; split))) <;> simp

/-! ### Machine/Matrix.lean -/

@[simp] theorem matRead_frame (m : Master) (a n : Nat) (s : State) :
    let t := (matRead m a n s).2.2; t.pending = s.pending ∧ t.timebase = s.timebase ∧ t.balls = s.balls ∧ t.fuses =
    s.fuses ∧ t.mem = s.mem ∧ t.cals = s.cals ∧ t.power = s.power ∧ t.ports = s.ports ∧ t.subs = s.subs ∧ t.mgmt =
    s.mgmt ∧ t.jtag = s.jtag ∧ t.sets = s.sets ∧ t.path = s.path ∧ t.glaze = s.glaze ∧ t.easel = s.easel ∧ t.adm =
    s.adm ∧ t.mx = s.mx := by simp [matRead]
@[simp] theorem matWrite_frame (m : Master) (w : List (Nat × Byte)) (s : State) :
    let t := (matWrite m w s).2; t.pending = s.pending ∧ t.timebase = s.timebase ∧ t.balls = s.balls ∧ t.fuses =
    s.fuses ∧ t.subs = s.subs ∧ t.jtag = s.jtag ∧ t.sets = s.sets := by simp [matWrite]
@[simp] theorem matPut_frame (m : Master) (w : List (Nat × Byte)) (s : State) :
    let t := (matPut m w s); t.pending = s.pending ∧ t.timebase = s.timebase ∧ t.balls = s.balls ∧ t.fuses = s.fuses
    ∧ t.subs = s.subs ∧ t.jtag = s.jtag ∧ t.sets = s.sets := by simp [matPut]
@[simp] theorem regPut_frame (s : State) :
    let t := (regPut m a w s); t.pending = s.pending ∧ t.timebase = s.timebase ∧ t.balls = s.balls ∧ t.fuses =
    s.fuses ∧ t.subs = s.subs ∧ t.jtag = s.jtag ∧ t.sets = s.sets := by simp [regPut]
end Sys2Proof.Machine
end

