-- ==== Sys2Proof/Laws/FramesVent.lean ====
section
/-! SUPPORT. The fields of State that each shared operation of the vents leaves as they were. -/

namespace Sys2Proof.Machine

/-! ### Machine/Ops.lean -/

@[simp] theorem readWordRaw_frame (s : State) (v a : Nat) :
    let t := (readWordRaw s v a).2.2; t.pending = s.pending ∧ t.timebase = s.timebase ∧ t.balls = s.balls ∧ t.fuses
    = s.fuses ∧ t.mem = s.mem ∧ t.cals = s.cals ∧ t.power = s.power ∧ t.ports = s.ports ∧ t.subs = s.subs ∧ t.mgmt =
    s.mgmt ∧ t.jtag = s.jtag ∧ t.sets = s.sets ∧ t.path = s.path ∧ t.glaze = s.glaze ∧ t.easel = s.easel ∧ t.adm =
    s.adm ∧ t.mx = s.mx := by
  unfold readWordRaw
  (repeat' (first | (split <;> try (rename_i h; first | (have e := pair_third h; clear h; subst e) | (have e := pair_snd h; have e2 := pair_fst h; clear h; subst e; try subst e2) | (have e := pair_fst h; clear h; subst e))) | (dsimp only; split))) <;> simp
@[simp] theorem writeBack_frame (s : State) (v : Nat) (l : DLine) :
    let t := (writeBack s v l); t.pending = s.pending ∧ t.timebase = s.timebase ∧ t.balls = s.balls ∧ t.fuses =
    s.fuses ∧ t.subs = s.subs ∧ t.jtag = s.jtag ∧ t.sets = s.sets := by simp [writeBack]
@[simp] theorem dcAlloc_frame (s : State) (v : Nat) (block : Nat) (bytes : List Byte) :
    let t := (dcAlloc s v block bytes); t.pending = s.pending ∧ t.timebase = s.timebase ∧ t.balls = s.balls ∧
    t.fuses = s.fuses ∧ t.subs = s.subs ∧ t.jtag = s.jtag ∧ t.sets = s.sets := by
  unfold dcAlloc
  (repeat' (first | (split <;> try (rename_i h; first | (have e := pair_third h; clear h; subst e) | (have e := pair_snd h; have e2 := pair_fst h; clear h; subst e; try subst e2) | (have e := pair_fst h; clear h; subst e))) | (dsimp only; split))) <;> simp
@[simp] theorem sbDrain_frame (s : State) (v : Nat) :
    let t := (sbDrain s v); t.pending = s.pending ∧ t.timebase = s.timebase ∧ t.balls = s.balls ∧ t.fuses = s.fuses
    ∧ t.subs = s.subs ∧ t.jtag = s.jtag ∧ t.sets = s.sets := by
  unfold sbDrain
  (repeat' (first | (split <;> try (rename_i h; first | (have e := pair_third h; clear h; subst e) | (have e := pair_snd h; have e2 := pair_fst h; clear h; subst e; try subst e2) | (have e := pair_fst h; clear h; subst e))) | (dsimp only; split))) <;> simp
@[simp] theorem entryOnce_frame (s : State) (v : Nat) (e : Event) :
    let t := (entryOnce s v e).1; t.pending = s.pending ∧ t.timebase = s.timebase ∧ t.balls = s.balls ∧ t.fuses =
    s.fuses ∧ t.mem = s.mem ∧ t.cals = s.cals ∧ t.power = s.power ∧ t.ports = s.ports ∧ t.subs = s.subs ∧ t.mgmt =
    s.mgmt ∧ t.jtag = s.jtag ∧ t.sets = s.sets ∧ t.path = s.path ∧ t.glaze = s.glaze ∧ t.easel = s.easel ∧ t.adm =
    s.adm ∧ t.mx = s.mx := by
  unfold entryOnce
  (repeat' (first | (split <;> try (rename_i h; first | (have e := pair_third h; clear h; subst e) | (have e := pair_snd h; have e2 := pair_fst h; clear h; subst e; try subst e2) | (have e := pair_fst h; clear h; subst e))) | (dsimp only; split))) <;> simp
@[simp] theorem ventEnter_frame (s : State) (v : Nat) (e : Event) :
    let t := (ventEnter s v e); t.pending = s.pending ∧ t.timebase = s.timebase ∧ t.balls = s.balls ∧ t.fuses =
    s.fuses ∧ t.mem = s.mem ∧ t.cals = s.cals ∧ t.power = s.power ∧ t.ports = s.ports ∧ t.subs = s.subs ∧ t.mgmt =
    s.mgmt ∧ t.jtag = s.jtag ∧ t.sets = s.sets ∧ t.path = s.path ∧ t.glaze = s.glaze ∧ t.easel = s.easel ∧ t.adm =
    s.adm ∧ t.mx = s.mx := by
  unfold ventEnter
  split
  · simp
  · split
    · next s1 h => rw [pair_fst h]; simp
    · next s1 a h =>
      have f : s1 = (entryOnce s v e).1 := pair_fst h
      clear h
      subst f
      split
      · simp
      · dsimp only
        split
        · simp
        · split
          · next s3 h => rw [pair_fst h]; simp
          · next s3 b h => rw [pair_fst h]; simp
@[simp] theorem takeAsync_frame (s : State) (v : Nat) :
    let t := (takeAsync s v); t.pending = s.pending ∧ t.timebase = s.timebase ∧ t.balls = s.balls ∧ t.fuses =
    s.fuses ∧ t.mem = s.mem ∧ t.cals = s.cals ∧ t.power = s.power ∧ t.ports = s.ports ∧ t.subs = s.subs ∧ t.mgmt =
    s.mgmt ∧ t.jtag = s.jtag ∧ t.sets = s.sets ∧ t.path = s.path ∧ t.glaze = s.glaze ∧ t.easel = s.easel ∧ t.adm =
    s.adm ∧ t.mx = s.mx := by
  unfold takeAsync
  split <;> simp

/-! ### Machine/VentEval.lean -/

@[simp] theorem farPiece_frame (s : State) (v : Nat) (p : FarPiece) :
    let t := (farPiece s v p).2.2; t.pending = s.pending ∧ t.timebase = s.timebase ∧ t.balls = s.balls ∧ t.fuses =
    s.fuses ∧ t.subs = s.subs ∧ t.jtag = s.jtag ∧ t.sets = s.sets := by
  unfold farPiece
  (repeat' (first | (split <;> try (rename_i h; first | (have e := pair_third h; clear h; subst e) | (have e := pair_snd h; have e2 := pair_fst h; clear h; subst e; try subst e2) | (have e := pair_fst h; clear h; subst e))) | (dsimp only; split))) <;> simp
@[simp] theorem farReads_frame (s : State) (v : Nat) (l : FarLoad) :
    let t := (farReads s v l).2; t.pending = s.pending ∧ t.timebase = s.timebase ∧ t.balls = s.balls ∧ t.fuses =
    s.fuses ∧ t.subs = s.subs ∧ t.jtag = s.jtag ∧ t.sets = s.sets := by simp [farReads]
@[simp] theorem farOutcome_frame (s : State) (v : Nat) (l : FarLoad) :
    let t := (farOutcome s v l).2.2; t.pending = s.pending ∧ t.timebase = s.timebase ∧ t.balls = s.balls ∧ t.fuses =
    s.fuses ∧ t.subs = s.subs ∧ t.jtag = s.jtag ∧ t.sets = s.sets := by simp [farOutcome]
@[simp] theorem farLand_frame (s : State) (v : Nat) (l : FarLoad) :
    let t := (farLand s v l); t.pending = s.pending ∧ t.timebase = s.timebase ∧ t.balls = s.balls ∧ t.fuses =
    s.fuses ∧ t.subs = s.subs ∧ t.jtag = s.jtag ∧ t.sets = s.sets := by simp [farLand]
@[simp] theorem codeRead_frame (s : State) (v m n : Nat) :
    let t := (codeRead s v m n).2.2; t.pending = s.pending ∧ t.timebase = s.timebase ∧ t.balls = s.balls ∧ t.fuses =
    s.fuses ∧ t.mem = s.mem ∧ t.cals = s.cals ∧ t.power = s.power ∧ t.ports = s.ports ∧ t.subs = s.subs ∧ t.mgmt =
    s.mgmt ∧ t.jtag = s.jtag ∧ t.sets = s.sets ∧ t.path = s.path ∧ t.glaze = s.glaze ∧ t.easel = s.easel ∧ t.adm =
    s.adm ∧ t.mx = s.mx := by
  unfold codeRead
  (repeat' split) <;> simp
@[simp] theorem strCopy_frame (c : Ctx) (k : OpKind) (sz d a : Nat) (n0 : Nat) (n1 : Nat) (s : State) :
    let t := (strCopy c k sz d a n0 n1 s); t.pending = s.pending ∧ t.timebase = s.timebase ∧ t.freeCtr = s.freeCtr ∧
    t.balls = s.balls ∧ t.fuses = s.fuses ∧ t.glob = s.glob ∧ t.latch = s.latch ∧ t.hostMem = s.hostMem ∧ t.vents =
    s.vents ∧ t.cals = s.cals ∧ t.power = s.power ∧ t.ports = s.ports ∧ t.subs = s.subs ∧ t.mgmt = s.mgmt ∧ t.jtag =
    s.jtag ∧ t.store = s.store ∧ t.sets = s.sets ∧ t.path = s.path ∧ t.qm = s.qm ∧ t.glaze = s.glaze ∧ t.easel =
    s.easel ∧ t.hb = s.hb ∧ t.adm = s.adm ∧ t.mx = s.mx := by
  induction n0 generalizing n1 s with
  | zero => simp [strCopy]
  | succ n ih => unfold strCopy; (repeat' (first | (split <;> try (rename_i h; first | (have e := pair_third h; clear h; subst e) | (have e := pair_snd h; have e2 := pair_fst h; clear h; subst e; try subst e2) | (have e := pair_fst h; clear h; subst e))) | (dsimp only; split))) <;> simp [ih]

/-! ### Machine/VentRun.lean -/

@[simp] theorem fetchLine_frame (s : State) (v a : Nat) :
    let t := (fetchLine s v a).2; t.pending = s.pending ∧ t.timebase = s.timebase ∧ t.balls = s.balls ∧ t.fuses =
    s.fuses ∧ t.mem = s.mem ∧ t.cals = s.cals ∧ t.power = s.power ∧ t.ports = s.ports ∧ t.subs = s.subs ∧ t.mgmt =
    s.mgmt ∧ t.jtag = s.jtag ∧ t.sets = s.sets ∧ t.path = s.path ∧ t.glaze = s.glaze ∧ t.easel = s.easel ∧ t.adm =
    s.adm ∧ t.mx = s.mx := by
  unfold fetchLine
  (repeat' (first | (split <;> try (rename_i h; first | (have e := pair_third h; clear h; subst e) | (have e := pair_snd h; have e2 := pair_fst h; clear h; subst e; try subst e2) | (have e := pair_fst h; clear h; subst e))) | (dsimp only; split))) <;> simp
@[simp] theorem fetchBundle_frame (s : State) (v pc words : Nat) :
    let t := (fetchBundle s v pc words); t.pending = s.pending ∧ t.timebase = s.timebase ∧ t.balls = s.balls ∧
    t.fuses = s.fuses ∧ t.mem = s.mem ∧ t.cals = s.cals ∧ t.power = s.power ∧ t.ports = s.ports ∧ t.subs = s.subs ∧
    t.mgmt = s.mgmt ∧ t.jtag = s.jtag ∧ t.sets = s.sets ∧ t.path = s.path ∧ t.glaze = s.glaze ∧ t.easel = s.easel ∧
    t.adm = s.adm ∧ t.mx = s.mx := by
  unfold fetchBundle
  (repeat' (first | (split <;> try (rename_i h; first | (have e := pair_third h; clear h; subst e) | (have e := pair_snd h; have e2 := pair_fst h; clear h; subst e; try subst e2) | (have e := pair_fst h; clear h; subst e))) | (dsimp only; split))) <;> first
    | (simp; done)
    | (have F := fetchLine_frame _ _ _ _ ‹_›; simp [F]; done)
@[simp] theorem commitEff_frame (v : Nat) (s : State) (x : Eff) :
    let t := (commitEff v s x); t.pending = s.pending ∧ t.timebase = s.timebase ∧ t.balls = s.balls ∧ t.fuses =
    s.fuses ∧ t.subs = s.subs ∧ t.jtag = s.jtag ∧ t.sets = s.sets := by
  unfold commitEff
  split <;> simp
@[simp] theorem answerSync_frame (v : Nat) (n0 : List Eff) (s : State) :
    let t := (answerSync v n0 s).1; t.pending = s.pending ∧ t.timebase = s.timebase ∧ t.balls = s.balls ∧ t.fuses =
    s.fuses ∧ t.subs = s.subs ∧ t.jtag = s.jtag ∧ t.sets = s.sets := by
  induction n0 generalizing s with
  | nil => simp [answerSync]
  | cons x r ih =>
    cases x <;> simp [answerSync, ih]
@[simp] theorem raiseFault_frame (s0 : State) (v lvl : Nat) (x : Chosen) :
    let t := (raiseFault s0 v lvl x); t.pending = s0.pending ∧ t.timebase = s0.timebase ∧ t.balls = s0.balls ∧
    t.fuses = s0.fuses ∧ t.subs = s0.subs ∧ t.jtag = s0.jtag ∧ t.sets = s0.sets := by
  unfold raiseFault
  (repeat' (first | (split <;> try (rename_i h; first | (have e := pair_third h; clear h; subst e) | (have e := pair_snd h; have e2 := pair_fst h; clear h; subst e; try subst e2) | (have e := pair_fst h; clear h; subst e))) | (dsimp only; split))) <;> simp
@[simp] theorem commitAll_frame (s : State) (v : Nat) (effs : List Eff) :
    let t := (commitAll s v effs); t.pending = s.pending ∧ t.timebase = s.timebase ∧ t.balls = s.balls ∧ t.fuses =
    s.fuses ∧ t.subs = s.subs ∧ t.jtag = s.jtag ∧ t.sets = s.sets := by simp [commitAll]
@[simp] theorem completeBundle_frame (s0 : State) (v lvl pc words : Nat) (rs : List OpRes) (trap : Option Event) :
    let t := (completeBundle s0 v lvl pc words rs trap); t.pending = s0.pending ∧ t.timebase = s0.timebase ∧ t.balls
    = s0.balls ∧ t.fuses = s0.fuses ∧ t.subs = s0.subs ∧ t.jtag = s0.jtag ∧ t.sets = s0.sets := by
  unfold completeBundle
  (repeat' (first | (split <;> try (rename_i h; first | (have e := pair_third h; clear h; subst e) | (have e := pair_snd h; have e2 := pair_fst h; clear h; subst e; try subst e2) | (have e := pair_fst h; clear h; subst e))) | (dsimp only; split))) <;> simp
@[simp] theorem stopBundle_frame (s0 : State) (v : Nat) (rs : List OpRes) :
    let t := (stopBundle s0 v rs); t.pending = s0.pending ∧ t.timebase = s0.timebase ∧ t.balls = s0.balls ∧ t.fuses
    = s0.fuses ∧ t.subs = s0.subs ∧ t.jtag = s0.jtag ∧ t.sets = s0.sets := by simp [stopBundle]
/-- A fault that is raised now is raiseFault's. -/
theorem tryRaise_some {s : State} {v lvl : Nat} {x : Chosen} {t : State} (h : tryRaise s v lvl x = some t) :
    raiseFault s v lvl x = t := by
  unfold tryRaise at h
  split at h
  · cases h
  · exact Option.some.inj h
theorem issueBundle_frame (s : State) (v words : Nat) (vt : Vent) (on : List (BOp × Nat × Nat)) (t : State) (h : issueBundle s v words vt on = some t) :
    t.pending = s.pending ∧ t.timebase = s.timebase ∧ t.balls = s.balls ∧ t.fuses = s.fuses ∧ t.subs = s.subs ∧
    t.jtag = s.jtag ∧ t.sets = s.sets := by
  unfold issueBundle at h
  (repeat' (first | (split at h <;> try (rename_i hx; first | (have e := pair_third hx; clear hx; subst e) | (have e := pair_snd hx; have e2 := pair_fst hx; clear hx; subst e; try subst e2) | (have e := pair_fst hx; clear hx; subst e))) | (dsimp only at h; split at h))) <;> first
    | (cases h; done)
    | (obtain rfl := tryRaise_some h; simp; done)
    | (obtain rfl := Option.some.inj h; simp)
theorem runBundle_frame (s0 : State) (v : Nat) (b : List BOp) (t : State) (h : runBundle s0 v b = some t) :
    t.pending = s0.pending ∧ t.timebase = s0.timebase ∧ t.balls = s0.balls ∧ t.fuses = s0.fuses ∧ t.subs = s0.subs ∧
    t.jtag = s0.jtag ∧ t.sets = s0.sets := by
  unfold runBundle at h
  extract_lets vt1 s1 pc lvl words fetch s at h
  have hs : s = s1 ∨ s = fetchBundle s1 v pc (min words 8) := by
    simp only [s]
    split <;> simp
  clear_value s
  split at h
  · cases h
  · split at h
    · obtain rfl := tryRaise_some h; simp [s1]
    · split at h
      · cases h
      · split at h
        · obtain rfl := tryRaise_some h
          rcases hs with rfl | rfl <;> simp [s1]
        · split at h
          · cases h
          · have F := issueBundle_frame _ _ _ _ _ _ h
            rcases hs with rfl | rfl <;> simp [F, s1]
@[simp] theorem offerOp_frame (s : State) (v : Nat) (k : OpKind) (e : OpEnc) (stop : Option Nat) :
    let t := (offerOp s v k e stop); t.pending = s.pending ∧ t.timebase = s.timebase ∧ t.balls = s.balls ∧ t.fuses =
    s.fuses ∧ t.subs = s.subs ∧ t.jtag = s.jtag ∧ t.sets = s.sets := by
  unfold offerOp
  (repeat' (first | (split <;> try (rename_i h; first | (have e := pair_third h; clear h; subst e) | (have e := pair_snd h; have e2 := pair_fst h; clear h; subst e; try subst e2) | (have e := pair_fst h; clear h; subst e))) | (dsimp only; split))) <;> first
    | (simp; done)
    | (have F := runBundle_frame _ _ _ _ ‹_›; simp [F]; done)

/-! ### Machine/VentEvents.lean -/

@[simp] theorem absorbFar_frame (s : State) (v : Nat) (l : FarLoad) :
    let t := (absorbFar s v l); t.pending = s.pending ∧ t.timebase = s.timebase ∧ t.balls = s.balls ∧ t.fuses =
    s.fuses ∧ t.mem = s.mem ∧ t.cals = s.cals ∧ t.power = s.power ∧ t.ports = s.ports ∧ t.subs = s.subs ∧ t.mgmt =
    s.mgmt ∧ t.jtag = s.jtag ∧ t.sets = s.sets ∧ t.path = s.path ∧ t.glaze = s.glaze ∧ t.easel = s.easel ∧ t.adm =
    s.adm ∧ t.mx = s.mx := by simp [absorbFar]
@[simp] theorem farResponse_frame (s : State) (v n : Nat) :
    let t := (farResponse s v n); t.pending = s.pending ∧ t.timebase = s.timebase ∧ t.balls = s.balls ∧ t.fuses =
    s.fuses ∧ t.subs = s.subs ∧ t.jtag = s.jtag ∧ t.sets = s.sets := by
  unfold farResponse
  split <;> simp
@[simp] theorem releaseVent_frame (s : State) (v : Nat) :
    let t := (releaseVent s v); t.pending = s.pending ∧ t.timebase = s.timebase ∧ t.freeCtr = s.freeCtr ∧ t.balls =
    s.balls ∧ t.fuses = s.fuses ∧ t.glob = s.glob ∧ t.latch = s.latch ∧ t.mem = s.mem ∧ t.hostMem = s.hostMem ∧
    t.cals = s.cals ∧ t.power = s.power ∧ t.ports = s.ports ∧ t.subs = s.subs ∧ t.mgmt = s.mgmt ∧ t.jtag = s.jtag ∧
    t.store = s.store ∧ t.sets = s.sets ∧ t.path = s.path ∧ t.qm = s.qm ∧ t.glaze = s.glaze ∧ t.easel = s.easel ∧
    t.hb = s.hb ∧ t.adm = s.adm ∧ t.mx = s.mx ∧ t.hbm = s.hbm := by simp [releaseVent]

end Sys2Proof.Machine
end

