-- ==== Sys2Proof/Laws/FramesPath.lean ====
section
/-! SUPPORT. The fields of State that each shared operation of the frame path leaves as they were. -/

namespace Sys2Proof.Machine

/-! ### Machine/Frames.lean -/

@[simp] theorem updFrame_frame (s : State) (n : Nat) (g : Frame → Frame) :
    let t := (updFrame s n g); t.pending = s.pending ∧ t.timebase = s.timebase ∧ t.freeCtr = s.freeCtr ∧ t.balls =
    s.balls ∧ t.fuses = s.fuses ∧ t.glob = s.glob ∧ t.latch = s.latch ∧ t.mem = s.mem ∧ t.hostMem = s.hostMem ∧
    t.vents = s.vents ∧ t.cals = s.cals ∧ t.power = s.power ∧ t.ports = s.ports ∧ t.subs = s.subs ∧ t.mgmt = s.mgmt
    ∧ t.jtag = s.jtag ∧ t.store = s.store ∧ t.sets = s.sets ∧ t.qm = s.qm ∧ t.glaze = s.glaze ∧ t.easel = s.easel ∧
    t.hb = s.hb ∧ t.adm = s.adm ∧ t.mx = s.mx ∧ t.hbm = s.hbm := by simp [updFrame]
@[simp] theorem delFrame_frame (s : State) (n : Nat) :
    let t := (delFrame s n); t.pending = s.pending ∧ t.timebase = s.timebase ∧ t.freeCtr = s.freeCtr ∧ t.balls =
    s.balls ∧ t.fuses = s.fuses ∧ t.glob = s.glob ∧ t.latch = s.latch ∧ t.mem = s.mem ∧ t.hostMem = s.hostMem ∧
    t.vents = s.vents ∧ t.cals = s.cals ∧ t.power = s.power ∧ t.ports = s.ports ∧ t.subs = s.subs ∧ t.mgmt = s.mgmt
    ∧ t.jtag = s.jtag ∧ t.store = s.store ∧ t.sets = s.sets ∧ t.qm = s.qm ∧ t.glaze = s.glaze ∧ t.easel = s.easel ∧
    t.hb = s.hb ∧ t.adm = s.adm ∧ t.mx = s.mx ∧ t.hbm = s.hbm := by simp [delFrame]
@[simp] theorem newFrame_frame (s : State) (f : Frame) :
    let t := (newFrame s f).2; t.pending = s.pending ∧ t.timebase = s.timebase ∧ t.freeCtr = s.freeCtr ∧ t.balls =
    s.balls ∧ t.fuses = s.fuses ∧ t.glob = s.glob ∧ t.latch = s.latch ∧ t.mem = s.mem ∧ t.hostMem = s.hostMem ∧
    t.vents = s.vents ∧ t.cals = s.cals ∧ t.power = s.power ∧ t.ports = s.ports ∧ t.subs = s.subs ∧ t.mgmt = s.mgmt
    ∧ t.jtag = s.jtag ∧ t.store = s.store ∧ t.sets = s.sets ∧ t.qm = s.qm ∧ t.glaze = s.glaze ∧ t.easel = s.easel ∧
    t.hb = s.hb ∧ t.adm = s.adm ∧ t.mx = s.mx ∧ t.hbm = s.hbm := by simp [newFrame]
@[simp] theorem writeCells_frame (s : State) (cells : List Nat) (bs : List Byte) :
    let t := (writeCells s cells bs); t.pending = s.pending ∧ t.timebase = s.timebase ∧ t.freeCtr = s.freeCtr ∧
    t.balls = s.balls ∧ t.fuses = s.fuses ∧ t.glob = s.glob ∧ t.latch = s.latch ∧ t.hostMem = s.hostMem ∧ t.vents =
    s.vents ∧ t.cals = s.cals ∧ t.power = s.power ∧ t.ports = s.ports ∧ t.subs = s.subs ∧ t.mgmt = s.mgmt ∧ t.jtag =
    s.jtag ∧ t.store = s.store ∧ t.sets = s.sets ∧ t.path = s.path ∧ t.qm = s.qm ∧ t.glaze = s.glaze ∧ t.easel =
    s.easel ∧ t.hb = s.hb ∧ t.adm = s.adm ∧ t.mx = s.mx := by simp [writeCells]
@[simp] theorem setFrameBytes_frame (s : State) (n : Nat) (cells : List Nat) (bs : List Byte) :
    let t := (setFrameBytes s n cells bs); t.pending = s.pending ∧ t.timebase = s.timebase ∧ t.freeCtr = s.freeCtr ∧
    t.balls = s.balls ∧ t.fuses = s.fuses ∧ t.glob = s.glob ∧ t.latch = s.latch ∧ t.hostMem = s.hostMem ∧ t.vents =
    s.vents ∧ t.cals = s.cals ∧ t.power = s.power ∧ t.ports = s.ports ∧ t.subs = s.subs ∧ t.mgmt = s.mgmt ∧ t.jtag =
    s.jtag ∧ t.store = s.store ∧ t.sets = s.sets ∧ t.qm = s.qm ∧ t.glaze = s.glaze ∧ t.easel = s.easel ∧ t.hb = s.hb
    ∧ t.adm = s.adm ∧ t.mx = s.mx := by simp [setFrameBytes]
@[simp] theorem endTicket_frame (s : State) (bucket : Nat) (t : Word) :
    let t := (endTicket s bucket t); t.pending = s.pending ∧ t.timebase = s.timebase ∧ t.freeCtr = s.freeCtr ∧
    t.balls = s.balls ∧ t.fuses = s.fuses ∧ t.glob = s.glob ∧ t.latch = s.latch ∧ t.mem = s.mem ∧ t.hostMem =
    s.hostMem ∧ t.vents = s.vents ∧ t.cals = s.cals ∧ t.power = s.power ∧ t.ports = s.ports ∧ t.subs = s.subs ∧
    t.mgmt = s.mgmt ∧ t.jtag = s.jtag ∧ t.store = s.store ∧ t.sets = s.sets ∧ t.qm = s.qm ∧ t.glaze = s.glaze ∧
    t.easel = s.easel ∧ t.hb = s.hb ∧ t.adm = s.adm ∧ t.mx = s.mx ∧ t.hbm = s.hbm := by simp [endTicket]
@[simp] theorem updChan_frame (s : State) (p g : Nat) (h : Channel → Channel) :
    let t := (updChan s p g h); t.pending = s.pending ∧ t.timebase = s.timebase ∧ t.freeCtr = s.freeCtr ∧ t.balls =
    s.balls ∧ t.fuses = s.fuses ∧ t.glob = s.glob ∧ t.latch = s.latch ∧ t.mem = s.mem ∧ t.hostMem = s.hostMem ∧
    t.vents = s.vents ∧ t.cals = s.cals ∧ t.power = s.power ∧ t.ports = s.ports ∧ t.subs = s.subs ∧ t.mgmt = s.mgmt
    ∧ t.jtag = s.jtag ∧ t.store = s.store ∧ t.sets = s.sets ∧ t.path = s.path ∧ t.qm = s.qm ∧ t.easel = s.easel ∧
    t.hb = s.hb ∧ t.adm = s.adm ∧ t.mx = s.mx ∧ t.hbm = s.hbm := by simp [updChan]
@[simp] theorem countFrame_frame (s : State) (n code : Nat) :
    let t := (countFrame s n code); t.pending = s.pending ∧ t.timebase = s.timebase ∧ t.freeCtr = s.freeCtr ∧
    t.balls = s.balls ∧ t.fuses = s.fuses ∧ t.glob = s.glob ∧ t.latch = s.latch ∧ t.mem = s.mem ∧ t.hostMem =
    s.hostMem ∧ t.vents = s.vents ∧ t.cals = s.cals ∧ t.power = s.power ∧ t.ports = s.ports ∧ t.subs = s.subs ∧
    t.mgmt = s.mgmt ∧ t.jtag = s.jtag ∧ t.store = s.store ∧ t.sets = s.sets ∧ t.qm = s.qm ∧ t.easel = s.easel ∧ t.hb
    = s.hb ∧ t.adm = s.adm ∧ t.mx = s.mx ∧ t.hbm = s.hbm := by
  unfold countFrame
  split <;> simp
@[simp] theorem dropFrame_frame (s : State) (n code : Nat) :
    let t := (dropFrame s n code); t.pending = s.pending ∧ t.timebase = s.timebase ∧ t.freeCtr = s.freeCtr ∧ t.balls
    = s.balls ∧ t.fuses = s.fuses ∧ t.glob = s.glob ∧ t.latch = s.latch ∧ t.mem = s.mem ∧ t.hostMem = s.hostMem ∧
    t.vents = s.vents ∧ t.cals = s.cals ∧ t.power = s.power ∧ t.ports = s.ports ∧ t.subs = s.subs ∧ t.mgmt = s.mgmt
    ∧ t.jtag = s.jtag ∧ t.store = s.store ∧ t.sets = s.sets ∧ t.qm = s.qm ∧ t.easel = s.easel ∧ t.hb = s.hb ∧ t.adm
    = s.adm ∧ t.mx = s.mx ∧ t.hbm = s.hbm := by
  unfold dropFrame
  (repeat' (first | (split <;> try (rename_i h; first | (have e := pair_third h; clear h; subst e) | (have e := pair_snd h; have e2 := pair_fst h; clear h; subst e; try subst e2) | (have e := pair_fst h; clear h; subst e))) | (dsimp only; split))) <;> simp
@[simp] theorem frameUe_frame (s : State) (f : Frame) :
    let t := (frameUe s f); t.pending = s.pending ∧ t.timebase = s.timebase ∧ t.freeCtr = s.freeCtr ∧ t.balls =
    s.balls ∧ t.fuses = s.fuses ∧ t.glob = s.glob ∧ t.latch = s.latch ∧ t.mem = s.mem ∧ t.hostMem = s.hostMem ∧
    t.cals = s.cals ∧ t.power = s.power ∧ t.ports = s.ports ∧ t.subs = s.subs ∧ t.mgmt = s.mgmt ∧ t.jtag = s.jtag ∧
    t.store = s.store ∧ t.sets = s.sets ∧ t.path = s.path ∧ t.glaze = s.glaze ∧ t.easel = s.easel ∧ t.hb = s.hb ∧
    t.adm = s.adm ∧ t.mx = s.mx ∧ t.hbm = s.hbm := by
  unfold frameUe
  split <;> simp
@[simp] theorem meetUe_frame (s : State) (f : Frame) :
    let t := (meetUe s f); t.pending = s.pending ∧ t.timebase = s.timebase ∧ t.freeCtr = s.freeCtr ∧ t.balls =
    s.balls ∧ t.fuses = s.fuses ∧ t.glob = s.glob ∧ t.latch = s.latch ∧ t.mem = s.mem ∧ t.hostMem = s.hostMem ∧
    t.cals = s.cals ∧ t.power = s.power ∧ t.ports = s.ports ∧ t.subs = s.subs ∧ t.mgmt = s.mgmt ∧ t.jtag = s.jtag ∧
    t.store = s.store ∧ t.sets = s.sets ∧ t.path = s.path ∧ t.glaze = s.glaze ∧ t.easel = s.easel ∧ t.hb = s.hb ∧
    t.adm = s.adm ∧ t.mx = s.mx ∧ t.hbm = s.hbm := by
  unfold meetUe
  split <;> simp

/-! ### Machine/Intake.lean -/

@[simp] theorem pushItem_frame (s : State) (v : Nat) (it : Item) :
    let t := (pushItem s v it); t.pending = s.pending ∧ t.timebase = s.timebase ∧ t.freeCtr = s.freeCtr ∧ t.balls =
    s.balls ∧ t.fuses = s.fuses ∧ t.glob = s.glob ∧ t.latch = s.latch ∧ t.mem = s.mem ∧ t.hostMem = s.hostMem ∧
    t.cals = s.cals ∧ t.power = s.power ∧ t.ports = s.ports ∧ t.subs = s.subs ∧ t.mgmt = s.mgmt ∧ t.jtag = s.jtag ∧
    t.store = s.store ∧ t.sets = s.sets ∧ t.path = s.path ∧ t.qm = s.qm ∧ t.glaze = s.glaze ∧ t.easel = s.easel ∧
    t.hb = s.hb ∧ t.adm = s.adm ∧ t.mx = s.mx ∧ t.hbm = s.hbm := by simp [pushItem]
@[simp] theorem itemStage_frame (s : State) (it : Item) (st : Stage) :
    let t := (itemStage s it st); t.pending = s.pending ∧ t.timebase = s.timebase ∧ t.freeCtr = s.freeCtr ∧ t.balls
    = s.balls ∧ t.fuses = s.fuses ∧ t.glob = s.glob ∧ t.latch = s.latch ∧ t.mem = s.mem ∧ t.hostMem = s.hostMem ∧
    t.vents = s.vents ∧ t.cals = s.cals ∧ t.power = s.power ∧ t.ports = s.ports ∧ t.subs = s.subs ∧ t.mgmt = s.mgmt
    ∧ t.jtag = s.jtag ∧ t.store = s.store ∧ t.sets = s.sets ∧ t.qm = s.qm ∧ t.glaze = s.glaze ∧ t.easel = s.easel ∧
    t.hb = s.hb ∧ t.adm = s.adm ∧ t.mx = s.mx ∧ t.hbm = s.hbm := by
  unfold itemStage
  split <;> simp
@[simp] theorem dealItem_frame (s : State) (it : Item) (j b : Nat) (deal : Bool) :
    let t := (dealItem s it j b deal); t.pending = s.pending ∧ t.timebase = s.timebase ∧ t.freeCtr = s.freeCtr ∧
    t.balls = s.balls ∧ t.fuses = s.fuses ∧ t.glob = s.glob ∧ t.latch = s.latch ∧ t.mem = s.mem ∧ t.hostMem =
    s.hostMem ∧ t.cals = s.cals ∧ t.power = s.power ∧ t.ports = s.ports ∧ t.subs = s.subs ∧ t.mgmt = s.mgmt ∧ t.jtag
    = s.jtag ∧ t.store = s.store ∧ t.sets = s.sets ∧ t.qm = s.qm ∧ t.glaze = s.glaze ∧ t.easel = s.easel ∧ t.hb =
    s.hb ∧ t.adm = s.adm ∧ t.mx = s.mx ∧ t.hbm = s.hbm := by
  unfold dealItem
  (repeat' split) <;> simp
@[simp] theorem placeItem_frame (s : State) (it : Item) (j b : Nat) :
    let t := (placeItem s it j b); t.pending = s.pending ∧ t.timebase = s.timebase ∧ t.freeCtr = s.freeCtr ∧ t.balls
    = s.balls ∧ t.fuses = s.fuses ∧ t.glob = s.glob ∧ t.latch = s.latch ∧ t.mem = s.mem ∧ t.hostMem = s.hostMem ∧
    t.cals = s.cals ∧ t.power = s.power ∧ t.ports = s.ports ∧ t.subs = s.subs ∧ t.mgmt = s.mgmt ∧ t.jtag = s.jtag ∧
    t.store = s.store ∧ t.sets = s.sets ∧ t.qm = s.qm ∧ t.glaze = s.glaze ∧ t.hb = s.hb ∧ t.adm = s.adm ∧ t.mx =
    s.mx ∧ t.hbm = s.hbm := by simp [placeItem]
@[simp] theorem steerFrame_frame (s : State) (n : Nat) :
    let t := (steerFrame s n); t.pending = s.pending ∧ t.timebase = s.timebase ∧ t.freeCtr = s.freeCtr ∧ t.balls =
    s.balls ∧ t.fuses = s.fuses ∧ t.glob = s.glob ∧ t.latch = s.latch ∧ t.mem = s.mem ∧ t.hostMem = s.hostMem ∧
    t.cals = s.cals ∧ t.power = s.power ∧ t.ports = s.ports ∧ t.subs = s.subs ∧ t.mgmt = s.mgmt ∧ t.jtag = s.jtag ∧
    t.store = s.store ∧ t.sets = s.sets ∧ t.qm = s.qm ∧ t.glaze = s.glaze ∧ t.hb = s.hb ∧ t.adm = s.adm ∧ t.mx =
    s.mx ∧ t.hbm = s.hbm := by simp [steerFrame]
@[simp] theorem roleAlarm_frame (s : State) (src code : Nat) :
    let t := (roleAlarm s src code); t.pending = s.pending ∧ t.timebase = s.timebase ∧ t.freeCtr = s.freeCtr ∧
    t.balls = s.balls ∧ t.fuses = s.fuses ∧ t.glob = s.glob ∧ t.latch = s.latch ∧ t.mem = s.mem ∧ t.vents = s.vents
    ∧ t.cals = s.cals ∧ t.power = s.power ∧ t.ports = s.ports ∧ t.subs = s.subs ∧ t.mgmt = s.mgmt ∧ t.jtag = s.jtag
    ∧ t.store = s.store ∧ t.sets = s.sets ∧ t.qm = s.qm ∧ t.glaze = s.glaze ∧ t.easel = s.easel ∧ t.adm = s.adm ∧
    t.mx = s.mx ∧ t.hbm = s.hbm := by simp [roleAlarm]
@[simp] theorem ticketFrame_frame (s : State) (f : Frame) :
    let t := (ticketFrame s f); t.pending = s.pending ∧ t.timebase = s.timebase ∧ t.freeCtr = s.freeCtr ∧ t.balls =
    s.balls ∧ t.fuses = s.fuses ∧ t.glob = s.glob ∧ t.latch = s.latch ∧ t.mem = s.mem ∧ t.hostMem = s.hostMem ∧
    t.cals = s.cals ∧ t.power = s.power ∧ t.ports = s.ports ∧ t.subs = s.subs ∧ t.mgmt = s.mgmt ∧ t.jtag = s.jtag ∧
    t.store = s.store ∧ t.sets = s.sets ∧ t.qm = s.qm ∧ t.glaze = s.glaze ∧ t.hb = s.hb ∧ t.adm = s.adm ∧ t.mx =
    s.mx ∧ t.hbm = s.hbm := by simp [ticketFrame]
theorem intakeFrame_frame (s : State) (src func : Nat) (bs : List Byte) (cells : List Nat) (t : State) (h : intakeFrame s src func bs cells = some t) :
    t.pending = s.pending ∧ t.timebase = s.timebase ∧ t.freeCtr = s.freeCtr ∧ t.balls = s.balls ∧ t.fuses = s.fuses
    ∧ t.glob = s.glob ∧ t.latch = s.latch ∧ t.cals = s.cals ∧ t.power = s.power ∧ t.ports = s.ports ∧ t.subs =
    s.subs ∧ t.mgmt = s.mgmt ∧ t.jtag = s.jtag ∧ t.store = s.store ∧ t.sets = s.sets ∧ t.qm = s.qm ∧ t.glaze =
    s.glaze ∧ t.adm = s.adm ∧ t.mx = s.mx := by
  unfold intakeFrame at h
  (repeat' (first | (split at h <;> try (rename_i hx; first | (have e := pair_third hx; clear hx; subst e) | (have e := pair_snd hx; have e2 := pair_fst hx; clear hx; subst e; try subst e2) | (have e := pair_fst hx; clear hx; subst e))) | (dsimp only at h; split at h))) <;> first
    | (cases h; done)
    | (obtain rfl := Option.some.inj h; simp)
@[simp] theorem fromhostDone_frame (s : State) (r : Nat) (x : Ring) (len : Nat) :
    let t := (fromhostDone s r x len); t.pending = s.pending ∧ t.timebase = s.timebase ∧ t.freeCtr = s.freeCtr ∧
    t.balls = s.balls ∧ t.fuses = s.fuses ∧ t.glob = s.glob ∧ t.latch = s.latch ∧ t.mem = s.mem ∧ t.vents = s.vents
    ∧ t.cals = s.cals ∧ t.power = s.power ∧ t.ports = s.ports ∧ t.subs = s.subs ∧ t.mgmt = s.mgmt ∧ t.jtag = s.jtag
    ∧ t.store = s.store ∧ t.sets = s.sets ∧ t.path = s.path ∧ t.qm = s.qm ∧ t.glaze = s.glaze ∧ t.easel = s.easel ∧
    t.adm = s.adm ∧ t.mx = s.mx ∧ t.hbm = s.hbm := by
  unfold fromhostDone
  split <;> simp
@[simp] theorem itemArrived_frame (s : State) (v : Nat) (n0 : Item) :
    let t := (itemArrived s v n0); t.pending = s.pending ∧ t.timebase = s.timebase ∧ t.freeCtr = s.freeCtr ∧ t.balls
    = s.balls ∧ t.fuses = s.fuses ∧ t.glob = s.glob ∧ t.latch = s.latch ∧ t.mem = s.mem ∧ t.hostMem = s.hostMem ∧
    t.vents = s.vents ∧ t.cals = s.cals ∧ t.power = s.power ∧ t.ports = s.ports ∧ t.subs = s.subs ∧ t.mgmt = s.mgmt
    ∧ t.jtag = s.jtag ∧ t.store = s.store ∧ t.sets = s.sets ∧ t.qm = s.qm ∧ t.glaze = s.glaze ∧ t.hb = s.hb ∧ t.adm
    = s.adm ∧ t.mx = s.mx ∧ t.hbm = s.hbm := by
  unfold itemArrived
  split <;> simp
@[simp] theorem deliverEntry_frame (s : State) (v : Nat) (e : List Byte) (k : Byte) :
    let t := (deliverEntry s v e k); t.pending = s.pending ∧ t.timebase = s.timebase ∧ t.freeCtr = s.freeCtr ∧
    t.balls = s.balls ∧ t.fuses = s.fuses ∧ t.glob = s.glob ∧ t.latch = s.latch ∧ t.hostMem = s.hostMem ∧ t.cals =
    s.cals ∧ t.power = s.power ∧ t.ports = s.ports ∧ t.subs = s.subs ∧ t.mgmt = s.mgmt ∧ t.jtag = s.jtag ∧ t.store =
    s.store ∧ t.sets = s.sets ∧ t.path = s.path ∧ t.qm = s.qm ∧ t.glaze = s.glaze ∧ t.easel = s.easel ∧ t.hb = s.hb
    ∧ t.adm = s.adm ∧ t.mx = s.mx := by simp [deliverEntry]

/-! ### Machine/GlazeBase.lean -/

@[simp] theorem openSlot_frame (s : State) (p g start k : Nat) :
    let t := (openSlot s p g start k); t.pending = s.pending ∧ t.timebase = s.timebase ∧ t.freeCtr = s.freeCtr ∧
    t.balls = s.balls ∧ t.fuses = s.fuses ∧ t.glob = s.glob ∧ t.latch = s.latch ∧ t.mem = s.mem ∧ t.hostMem =
    s.hostMem ∧ t.vents = s.vents ∧ t.cals = s.cals ∧ t.power = s.power ∧ t.ports = s.ports ∧ t.subs = s.subs ∧
    t.mgmt = s.mgmt ∧ t.jtag = s.jtag ∧ t.store = s.store ∧ t.sets = s.sets ∧ t.path = s.path ∧ t.qm = s.qm ∧
    t.easel = s.easel ∧ t.hb = s.hb ∧ t.adm = s.adm ∧ t.mx = s.mx ∧ t.hbm = s.hbm := by simp [openSlot]
@[simp] theorem reseedChan_frame (s : State) (p g : Nat) :
    let t := (reseedChan s p g); t.pending = s.pending ∧ t.timebase = s.timebase ∧ t.balls = s.balls ∧ t.fuses =
    s.fuses ∧ t.glob = s.glob ∧ t.latch = s.latch ∧ t.mem = s.mem ∧ t.hostMem = s.hostMem ∧ t.vents = s.vents ∧
    t.cals = s.cals ∧ t.power = s.power ∧ t.ports = s.ports ∧ t.subs = s.subs ∧ t.mgmt = s.mgmt ∧ t.jtag = s.jtag ∧
    t.store = s.store ∧ t.sets = s.sets ∧ t.path = s.path ∧ t.qm = s.qm ∧ t.easel = s.easel ∧ t.hb = s.hb ∧ t.adm =
    s.adm ∧ t.mx = s.mx ∧ t.hbm = s.hbm := by simp [reseedChan]
@[simp] theorem chanTurn_frame (s : State) (p g : Nat) (e : Bool) :
    let t := (chanTurn s p g e); t.pending = s.pending ∧ t.timebase = s.timebase ∧ t.balls = s.balls ∧ t.fuses =
    s.fuses ∧ t.glob = s.glob ∧ t.latch = s.latch ∧ t.mem = s.mem ∧ t.hostMem = s.hostMem ∧ t.vents = s.vents ∧
    t.cals = s.cals ∧ t.power = s.power ∧ t.ports = s.ports ∧ t.subs = s.subs ∧ t.mgmt = s.mgmt ∧ t.jtag = s.jtag ∧
    t.store = s.store ∧ t.sets = s.sets ∧ t.path = s.path ∧ t.qm = s.qm ∧ t.easel = s.easel ∧ t.hb = s.hb ∧ t.adm =
    s.adm ∧ t.mx = s.mx ∧ t.hbm = s.hbm := by simp [chanTurn]
@[simp] theorem chanTake_frame (s : State) (p g : Nat) (e : Bool) :
    let t := (chanTake s p g e); t.pending = s.pending ∧ t.timebase = s.timebase ∧ t.balls = s.balls ∧ t.fuses =
    s.fuses ∧ t.glob = s.glob ∧ t.latch = s.latch ∧ t.mem = s.mem ∧ t.hostMem = s.hostMem ∧ t.vents = s.vents ∧
    t.cals = s.cals ∧ t.power = s.power ∧ t.ports = s.ports ∧ t.subs = s.subs ∧ t.mgmt = s.mgmt ∧ t.jtag = s.jtag ∧
    t.store = s.store ∧ t.sets = s.sets ∧ t.path = s.path ∧ t.qm = s.qm ∧ t.easel = s.easel ∧ t.hb = s.hb ∧ t.adm =
    s.adm ∧ t.mx = s.mx ∧ t.hbm = s.hbm := by
  unfold chanTake
  dsimp only
  split <;> simp
@[simp] theorem nextSlot_frame (s : State) (p g : Nat) :
    let t := (nextSlot s p g); t.pending = s.pending ∧ t.timebase = s.timebase ∧ t.balls = s.balls ∧ t.fuses =
    s.fuses ∧ t.glob = s.glob ∧ t.latch = s.latch ∧ t.mem = s.mem ∧ t.hostMem = s.hostMem ∧ t.vents = s.vents ∧
    t.cals = s.cals ∧ t.power = s.power ∧ t.ports = s.ports ∧ t.subs = s.subs ∧ t.mgmt = s.mgmt ∧ t.jtag = s.jtag ∧
    t.store = s.store ∧ t.sets = s.sets ∧ t.path = s.path ∧ t.qm = s.qm ∧ t.easel = s.easel ∧ t.hb = s.hb ∧ t.adm =
    s.adm ∧ t.mx = s.mx ∧ t.hbm = s.hbm := by
  unfold nextSlot
  (repeat' (first | split | (dsimp only; split))) <;> simp
@[simp] theorem chanEnter_frame (s : State) (p g : Nat) (e : Bool) :
    let t := (chanEnter s p g e); t.pending = s.pending ∧ t.timebase = s.timebase ∧ t.balls = s.balls ∧ t.fuses =
    s.fuses ∧ t.glob = s.glob ∧ t.latch = s.latch ∧ t.mem = s.mem ∧ t.hostMem = s.hostMem ∧ t.vents = s.vents ∧
    t.cals = s.cals ∧ t.power = s.power ∧ t.ports = s.ports ∧ t.subs = s.subs ∧ t.mgmt = s.mgmt ∧ t.jtag = s.jtag ∧
    t.store = s.store ∧ t.sets = s.sets ∧ t.path = s.path ∧ t.qm = s.qm ∧ t.easel = s.easel ∧ t.hb = s.hb ∧ t.adm =
    s.adm ∧ t.mx = s.mx ∧ t.hbm = s.hbm := by simp [chanEnter]
@[simp] theorem chansFlip_frame (s : State) (e : Bool) :
    let t := (chansFlip s e); t.pending = s.pending ∧ t.timebase = s.timebase ∧ t.balls = s.balls ∧ t.fuses =
    s.fuses ∧ t.glob = s.glob ∧ t.latch = s.latch ∧ t.mem = s.mem ∧ t.hostMem = s.hostMem ∧ t.vents = s.vents ∧
    t.cals = s.cals ∧ t.power = s.power ∧ t.ports = s.ports ∧ t.subs = s.subs ∧ t.mgmt = s.mgmt ∧ t.jtag = s.jtag ∧
    t.store = s.store ∧ t.sets = s.sets ∧ t.path = s.path ∧ t.qm = s.qm ∧ t.easel = s.easel ∧ t.hb = s.hb ∧ t.adm =
    s.adm ∧ t.mx = s.mx ∧ t.hbm = s.hbm := by simp [chansFlip]
@[simp] theorem chansLeave_frame (s : State) (e : Bool) :
    let t := (chansLeave s e); t.pending = s.pending ∧ t.timebase = s.timebase ∧ t.balls = s.balls ∧ t.fuses =
    s.fuses ∧ t.glob = s.glob ∧ t.latch = s.latch ∧ t.mem = s.mem ∧ t.hostMem = s.hostMem ∧ t.vents = s.vents ∧
    t.cals = s.cals ∧ t.power = s.power ∧ t.ports = s.ports ∧ t.subs = s.subs ∧ t.mgmt = s.mgmt ∧ t.jtag = s.jtag ∧
    t.store = s.store ∧ t.sets = s.sets ∧ t.path = s.path ∧ t.qm = s.qm ∧ t.easel = s.easel ∧ t.hb = s.hb ∧ t.adm =
    s.adm ∧ t.mx = s.mx ∧ t.hbm = s.hbm := by simp [chansLeave]
@[simp] theorem chansSettle_frame (s : State) (e : Bool) :
    let t := (chansSettle s e); t.pending = s.pending ∧ t.timebase = s.timebase ∧ t.balls = s.balls ∧ t.fuses =
    s.fuses ∧ t.glob = s.glob ∧ t.latch = s.latch ∧ t.mem = s.mem ∧ t.hostMem = s.hostMem ∧ t.vents = s.vents ∧
    t.cals = s.cals ∧ t.power = s.power ∧ t.ports = s.ports ∧ t.subs = s.subs ∧ t.mgmt = s.mgmt ∧ t.jtag = s.jtag ∧
    t.store = s.store ∧ t.sets = s.sets ∧ t.path = s.path ∧ t.qm = s.qm ∧ t.easel = s.easel ∧ t.hb = s.hb ∧ t.adm =
    s.adm ∧ t.mx = s.mx ∧ t.hbm = s.hbm := by simp [chansSettle]
/-! ### Machine/Qm.lean -/

@[simp] theorem updQueue_frame (s : State) (q : Nat) (g : Queue → Queue) :
    let t := (updQueue s q g); t.pending = s.pending ∧ t.timebase = s.timebase ∧ t.freeCtr = s.freeCtr ∧ t.balls =
    s.balls ∧ t.fuses = s.fuses ∧ t.glob = s.glob ∧ t.latch = s.latch ∧ t.mem = s.mem ∧ t.hostMem = s.hostMem ∧
    t.vents = s.vents ∧ t.cals = s.cals ∧ t.power = s.power ∧ t.ports = s.ports ∧ t.subs = s.subs ∧ t.mgmt = s.mgmt
    ∧ t.jtag = s.jtag ∧ t.store = s.store ∧ t.sets = s.sets ∧ t.path = s.path ∧ t.glaze = s.glaze ∧ t.easel =
    s.easel ∧ t.hb = s.hb ∧ t.adm = s.adm ∧ t.mx = s.mx ∧ t.hbm = s.hbm := by simp [updQueue]
@[simp] theorem setLists_frame (s : State) (nd : Node) (l : FMap (List Nat)) :
    let t := (setLists s nd l); t.pending = s.pending ∧ t.timebase = s.timebase ∧ t.freeCtr = s.freeCtr ∧ t.balls =
    s.balls ∧ t.fuses = s.fuses ∧ t.glob = s.glob ∧ t.latch = s.latch ∧ t.mem = s.mem ∧ t.hostMem = s.hostMem ∧
    t.vents = s.vents ∧ t.cals = s.cals ∧ t.power = s.power ∧ t.ports = s.ports ∧ t.mgmt = s.mgmt ∧ t.jtag = s.jtag
    ∧ t.store = s.store ∧ t.sets = s.sets ∧ t.path = s.path ∧ t.qm = s.qm ∧ t.easel = s.easel ∧ t.hb = s.hb ∧ t.adm
    = s.adm ∧ t.mx = s.mx ∧ t.hbm = s.hbm := by
  unfold setLists
  split <;> simp
@[simp] theorem leaveNode_frame (s : State) (q : Nat) :
    let t := (leaveNode s q); t.pending = s.pending ∧ t.timebase = s.timebase ∧ t.freeCtr = s.freeCtr ∧ t.balls =
    s.balls ∧ t.fuses = s.fuses ∧ t.glob = s.glob ∧ t.latch = s.latch ∧ t.mem = s.mem ∧ t.hostMem = s.hostMem ∧
    t.vents = s.vents ∧ t.cals = s.cals ∧ t.power = s.power ∧ t.ports = s.ports ∧ t.mgmt = s.mgmt ∧ t.jtag = s.jtag
    ∧ t.store = s.store ∧ t.sets = s.sets ∧ t.path = s.path ∧ t.easel = s.easel ∧ t.hb = s.hb ∧ t.adm = s.adm ∧ t.mx
    = s.mx ∧ t.hbm = s.hbm := by
  unfold leaveNode
  split <;> simp
@[simp] theorem joinNode_frame (s : State) (q : Nat) :
    let t := (joinNode s q); t.pending = s.pending ∧ t.timebase = s.timebase ∧ t.freeCtr = s.freeCtr ∧ t.balls =
    s.balls ∧ t.fuses = s.fuses ∧ t.glob = s.glob ∧ t.latch = s.latch ∧ t.mem = s.mem ∧ t.hostMem = s.hostMem ∧
    t.vents = s.vents ∧ t.cals = s.cals ∧ t.power = s.power ∧ t.ports = s.ports ∧ t.mgmt = s.mgmt ∧ t.jtag = s.jtag
    ∧ t.store = s.store ∧ t.sets = s.sets ∧ t.path = s.path ∧ t.easel = s.easel ∧ t.hb = s.hb ∧ t.adm = s.adm ∧ t.mx
    = s.mx ∧ t.hbm = s.hbm := by
  unfold joinNode
  split <;> simp
@[simp] theorem settleNode_frame (s : State) (q : Nat) :
    let t := (settleNode s q); t.pending = s.pending ∧ t.timebase = s.timebase ∧ t.freeCtr = s.freeCtr ∧ t.balls =
    s.balls ∧ t.fuses = s.fuses ∧ t.glob = s.glob ∧ t.latch = s.latch ∧ t.mem = s.mem ∧ t.hostMem = s.hostMem ∧
    t.vents = s.vents ∧ t.cals = s.cals ∧ t.power = s.power ∧ t.ports = s.ports ∧ t.mgmt = s.mgmt ∧ t.jtag = s.jtag
    ∧ t.store = s.store ∧ t.sets = s.sets ∧ t.path = s.path ∧ t.easel = s.easel ∧ t.hb = s.hb ∧ t.adm = s.adm ∧ t.mx
    = s.mx ∧ t.hbm = s.hbm := by
  unfold settleNode
  split <;> simp
@[simp] theorem settleSpill_frame (s : State) (q : Nat) :
    let t := (settleSpill s q); t.pending = s.pending ∧ t.timebase = s.timebase ∧ t.freeCtr = s.freeCtr ∧ t.balls =
    s.balls ∧ t.fuses = s.fuses ∧ t.glob = s.glob ∧ t.latch = s.latch ∧ t.mem = s.mem ∧ t.hostMem = s.hostMem ∧
    t.vents = s.vents ∧ t.cals = s.cals ∧ t.power = s.power ∧ t.ports = s.ports ∧ t.subs = s.subs ∧ t.mgmt = s.mgmt
    ∧ t.jtag = s.jtag ∧ t.store = s.store ∧ t.sets = s.sets ∧ t.path = s.path ∧ t.glaze = s.glaze ∧ t.easel =
    s.easel ∧ t.hb = s.hb ∧ t.adm = s.adm ∧ t.mx = s.mx ∧ t.hbm = s.hbm := by simp [settleSpill]
@[simp] theorem spillWrite_frame (s : State) (a : Nat) (bs : List Byte) :
    let t := (spillWrite s a bs).2; t.pending = s.pending ∧ t.timebase = s.timebase ∧ t.freeCtr = s.freeCtr ∧
    t.balls = s.balls ∧ t.fuses = s.fuses ∧ t.glob = s.glob ∧ t.latch = s.latch ∧ t.hostMem = s.hostMem ∧ t.vents =
    s.vents ∧ t.cals = s.cals ∧ t.power = s.power ∧ t.ports = s.ports ∧ t.subs = s.subs ∧ t.mgmt = s.mgmt ∧ t.jtag =
    s.jtag ∧ t.store = s.store ∧ t.sets = s.sets ∧ t.path = s.path ∧ t.qm = s.qm ∧ t.glaze = s.glaze ∧ t.easel =
    s.easel ∧ t.hb = s.hb ∧ t.adm = s.adm ∧ t.mx = s.mx := by simp [spillWrite]
@[simp] theorem unspill_frame (s : State) (q n : Nat) :
    let t := (unspill s q n); t.pending = s.pending ∧ t.timebase = s.timebase ∧ t.freeCtr = s.freeCtr ∧ t.balls =
    s.balls ∧ t.fuses = s.fuses ∧ t.glob = s.glob ∧ t.latch = s.latch ∧ t.mem = s.mem ∧ t.hostMem = s.hostMem ∧
    t.vents = s.vents ∧ t.cals = s.cals ∧ t.power = s.power ∧ t.ports = s.ports ∧ t.subs = s.subs ∧ t.mgmt = s.mgmt
    ∧ t.jtag = s.jtag ∧ t.store = s.store ∧ t.sets = s.sets ∧ t.path = s.path ∧ t.glaze = s.glaze ∧ t.easel =
    s.easel ∧ t.hb = s.hb ∧ t.adm = s.adm ∧ t.mx = s.mx ∧ t.hbm = s.hbm := by simp [unspill]
@[simp] theorem takeFrame_frame (s : State) (q n : Nat) :
    let t := (takeFrame s q n); t.pending = s.pending ∧ t.timebase = s.timebase ∧ t.freeCtr = s.freeCtr ∧ t.balls =
    s.balls ∧ t.fuses = s.fuses ∧ t.glob = s.glob ∧ t.latch = s.latch ∧ t.mem = s.mem ∧ t.hostMem = s.hostMem ∧
    t.vents = s.vents ∧ t.cals = s.cals ∧ t.power = s.power ∧ t.ports = s.ports ∧ t.mgmt = s.mgmt ∧ t.jtag = s.jtag
    ∧ t.store = s.store ∧ t.sets = s.sets ∧ t.path = s.path ∧ t.easel = s.easel ∧ t.hb = s.hb ∧ t.adm = s.adm ∧ t.mx
    = s.mx ∧ t.hbm = s.hbm := by simp [takeFrame]
theorem pickClass_frame (s : State) (nd : Node) (elig : Nat → Bool) (c : Nat) (t : State) (k : Nat) (h : pickClass s nd elig c = some (k, t)) :
    t.pending = s.pending ∧ t.timebase = s.timebase ∧ t.freeCtr = s.freeCtr ∧ t.balls = s.balls ∧ t.fuses = s.fuses
    ∧ t.glob = s.glob ∧ t.latch = s.latch ∧ t.mem = s.mem ∧ t.hostMem = s.hostMem ∧ t.vents = s.vents ∧ t.cals =
    s.cals ∧ t.power = s.power ∧ t.ports = s.ports ∧ t.mgmt = s.mgmt ∧ t.jtag = s.jtag ∧ t.store = s.store ∧ t.sets
    = s.sets ∧ t.path = s.path ∧ t.easel = s.easel ∧ t.hb = s.hb ∧ t.adm = s.adm ∧ t.mx = s.mx ∧ t.hbm = s.hbm := by
  unfold pickClass at h
  (repeat' (first | (split at h <;> try (rename_i hx; first | (have e := pair_third hx; clear hx; subst e) | (have e := pair_snd hx; have e2 := pair_fst hx; clear hx; subst e; try subst e2) | (have e := pair_fst hx; clear hx; subst e))) | (dsimp only at h; split at h))) <;> first
    | (cases h; done)
    | (obtain ⟨rfl, rfl⟩ := Prod.mk.inj (Option.some.inj h); simp)
/-- What each answer of a search keeps, its result keeps. -/
theorem findSome_keep {β γ : Type} (φ : State → γ) (s : State) (g : β → Option (Nat × State)) (l : List β)
    (hg : ∀ a k t, g a = some (k, t) → φ t = φ s) (k : Nat) (t : State) (h : l.findSome? g = some (k, t)) : φ t = φ s := by
  obtain ⟨a, -, ha⟩ := List.exists_of_findSome?_eq_some h
  exact hg a k t ha
theorem pickNode_frame (s : State) (nd : Node) (elig : Nat → Bool) (t : State) (k : Nat) (h : pickNode s nd elig = some (k, t)) :
    t.pending = s.pending ∧ t.timebase = s.timebase ∧ t.freeCtr = s.freeCtr ∧ t.balls = s.balls ∧ t.fuses = s.fuses
    ∧ t.glob = s.glob ∧ t.latch = s.latch ∧ t.mem = s.mem ∧ t.hostMem = s.hostMem ∧ t.vents = s.vents ∧ t.cals =
    s.cals ∧ t.power = s.power ∧ t.ports = s.ports ∧ t.mgmt = s.mgmt ∧ t.jtag = s.jtag ∧ t.store = s.store ∧ t.sets
    = s.sets ∧ t.path = s.path ∧ t.easel = s.easel ∧ t.hb = s.hb ∧ t.adm = s.adm ∧ t.mx = s.mx ∧ t.hbm = s.hbm := by
  unfold pickNode at h
  split at h
  · cases h
  · next q s1 hs =>
    have F := fun {β : Type} (φ : State → β) hg => findSome_keep φ s _ _ hg q s1 hs
    split at h
    · obtain ⟨rfl, rfl⟩ := Prod.mk.inj (Option.some.inj h)
      simp only [takeFrame_frame]
      exact ⟨F (·.pending) (fun a k t e => by simp [pickClass_frame s nd elig a t k e]), F (·.timebase) (fun a k t e => by simp [pickClass_frame s nd elig a t k e]), F (·.freeCtr) (fun a k t e => by simp [pickClass_frame s nd elig a t k e]), F (·.balls) (fun a k t e => by simp [pickClass_frame s nd elig a t k e]), F (·.fuses) (fun a k t e => by simp [pickClass_frame s nd elig a t k e]), F (·.glob) (fun a k t e => by simp [pickClass_frame s nd elig a t k e]), F (·.latch) (fun a k t e => by simp [pickClass_frame s nd elig a t k e]), F (·.mem) (fun a k t e => by simp [pickClass_frame s nd elig a t k e]), F (·.hostMem) (fun a k t e => by simp [pickClass_frame s nd elig a t k e]), F (·.vents) (fun a k t e => by simp [pickClass_frame s nd elig a t k e]), F (·.cals) (fun a k t e => by simp [pickClass_frame s nd elig a t k e]), F (·.power) (fun a k t e => by simp [pickClass_frame s nd elig a t k e]), F (·.ports) (fun a k t e => by simp [pickClass_frame s nd elig a t k e]), F (·.mgmt) (fun a k t e => by simp [pickClass_frame s nd elig a t k e]), F (·.jtag) (fun a k t e => by simp [pickClass_frame s nd elig a t k e]), F (·.store) (fun a k t e => by simp [pickClass_frame s nd elig a t k e]), F (·.sets) (fun a k t e => by simp [pickClass_frame s nd elig a t k e]), F (·.path) (fun a k t e => by simp [pickClass_frame s nd elig a t k e]), F (·.easel) (fun a k t e => by simp [pickClass_frame s nd elig a t k e]), F (·.hb) (fun a k t e => by simp [pickClass_frame s nd elig a t k e]), F (·.adm) (fun a k t e => by simp [pickClass_frame s nd elig a t k e]), F (·.mx) (fun a k t e => by simp [pickClass_frame s nd elig a t k e]), F (·.hbm) (fun a k t e => by simp [pickClass_frame s nd elig a t k e])⟩
    · cases h
@[simp] theorem storeQueue_frame (s : State) (q : Nat) :
    let t := (storeQueue s q); t.pending = s.pending ∧ t.timebase = s.timebase ∧ t.balls = s.balls ∧ t.fuses =
    s.fuses ∧ t.glob = s.glob ∧ t.latch = s.latch ∧ t.hostMem = s.hostMem ∧ t.vents = s.vents ∧ t.cals = s.cals ∧
    t.power = s.power ∧ t.ports = s.ports ∧ t.subs = s.subs ∧ t.mgmt = s.mgmt ∧ t.jtag = s.jtag ∧ t.store = s.store
    ∧ t.sets = s.sets ∧ t.path = s.path ∧ t.qm = s.qm ∧ t.glaze = s.glaze ∧ t.easel = s.easel ∧ t.hb = s.hb ∧ t.adm
    = s.adm ∧ t.mx = s.mx := by
  unfold storeQueue
  (repeat' (first | (split <;> try (rename_i h; first | (have e := pair_third h; clear h; subst e) | (have e := pair_snd h; have e2 := pair_fst h; clear h; subst e; try subst e2) | (have e := pair_fst h; clear h; subst e))) | (dsimp only; split))) <;> simp
theorem cacheTake_frame (s : State) (q : Nat) (t : State) (h : cacheTake s q = some t) :
    t.pending = s.pending ∧ t.timebase = s.timebase ∧ t.balls = s.balls ∧ t.fuses = s.fuses ∧ t.glob = s.glob ∧
    t.latch = s.latch ∧ t.hostMem = s.hostMem ∧ t.vents = s.vents ∧ t.cals = s.cals ∧ t.power = s.power ∧ t.ports =
    s.ports ∧ t.subs = s.subs ∧ t.mgmt = s.mgmt ∧ t.jtag = s.jtag ∧ t.store = s.store ∧ t.sets = s.sets ∧ t.path =
    s.path ∧ t.glaze = s.glaze ∧ t.easel = s.easel ∧ t.hb = s.hb ∧ t.adm = s.adm ∧ t.mx = s.mx := by
  unfold cacheTake at h
  simp only [] at h
  split at h
  · obtain rfl := Option.some.inj h; simp
  · split at h
    · obtain rfl := Option.some.inj h; simp
    · split at h
      · obtain rfl := Option.some.inj h; simp
      · cases h
@[simp] theorem enqueueDie_frame (s : State) (q n : Nat) :
    let t := (enqueueDie s q n); t.pending = s.pending ∧ t.timebase = s.timebase ∧ t.freeCtr = s.freeCtr ∧ t.balls =
    s.balls ∧ t.fuses = s.fuses ∧ t.glob = s.glob ∧ t.latch = s.latch ∧ t.mem = s.mem ∧ t.hostMem = s.hostMem ∧
    t.vents = s.vents ∧ t.cals = s.cals ∧ t.power = s.power ∧ t.ports = s.ports ∧ t.mgmt = s.mgmt ∧ t.jtag = s.jtag
    ∧ t.store = s.store ∧ t.sets = s.sets ∧ t.easel = s.easel ∧ t.hb = s.hb ∧ t.adm = s.adm ∧ t.mx = s.mx ∧ t.hbm =
    s.hbm := by simp [enqueueDie]
/-- What taking a place in a spill segment leaves. -/
theorem spillPlace_frame (s : State) (q len k o : Nat) (t : State) (h : spillPlace s q len = some (k, o, t)) :
    t.pending = s.pending ∧ t.timebase = s.timebase ∧ t.balls = s.balls ∧ t.fuses = s.fuses ∧ t.glob = s.glob ∧
    t.latch = s.latch ∧ t.mem = s.mem ∧ t.hostMem = s.hostMem ∧ t.vents = s.vents ∧ t.cals = s.cals ∧ t.power =
    s.power ∧ t.ports = s.ports ∧ t.subs = s.subs ∧ t.mgmt = s.mgmt ∧ t.jtag = s.jtag ∧ t.store = s.store ∧ t.sets =
    s.sets ∧ t.path = s.path ∧ t.glaze = s.glaze ∧ t.easel = s.easel ∧ t.hb = s.hb ∧ t.adm = s.adm ∧ t.mx = s.mx ∧
    t.hbm = s.hbm := by
  have fr : ∀ s, spillPlace.fresh q s = some (k, o, t) →
      t.pending = s.pending ∧ t.timebase = s.timebase ∧ t.balls = s.balls ∧ t.fuses = s.fuses ∧ t.glob = s.glob ∧
        t.latch = s.latch ∧ t.mem = s.mem ∧ t.hostMem = s.hostMem ∧ t.vents = s.vents ∧ t.cals = s.cals ∧ t.power =
        s.power ∧ t.ports = s.ports ∧ t.subs = s.subs ∧ t.mgmt = s.mgmt ∧ t.jtag = s.jtag ∧ t.store = s.store ∧
        t.sets = s.sets ∧ t.path = s.path ∧ t.glaze = s.glaze ∧ t.easel = s.easel ∧ t.hb = s.hb ∧ t.adm = s.adm ∧
        t.mx = s.mx ∧ t.hbm = s.hbm := by
    intro s h
    unfold spillPlace.fresh at h
    split at h
    · cases h
    · simp only [Option.some.injEq, Prod.mk.injEq] at h
      obtain ⟨-, -, rfl⟩ := h
      simp
  unfold spillPlace at h
  dsimp only at h
  (repeat' split at h) <;> first
    | exact fr _ h
    | (simp only [Option.some.injEq, Prod.mk.injEq] at h
       obtain ⟨-, -, rfl⟩ := h
       simp)
/-- The state of a spill: the one before it where no segment is free. -/
def SpillEnd.state (s : State) : SpillEnd → State
  | .full => s
  | .lost t => t
  | .held t => t
theorem spillFrame_frame (s : State) (q n : Nat) :
    let t := (spillFrame s q n).state s; t.pending = s.pending ∧ t.timebase = s.timebase ∧ t.balls = s.balls ∧ t.fuses = s.fuses ∧ t.glob = s.glob ∧
    t.latch = s.latch ∧ t.hostMem = s.hostMem ∧ t.cals = s.cals ∧ t.power = s.power ∧ t.ports = s.ports ∧ t.subs =
    s.subs ∧ t.mgmt = s.mgmt ∧ t.jtag = s.jtag ∧ t.store = s.store ∧ t.sets = s.sets ∧ t.glaze = s.glaze ∧ t.easel =
    s.easel ∧ t.hb = s.hb ∧ t.adm = s.adm ∧ t.mx = s.mx := by
  unfold spillFrame
  dsimp only
  split
  · simp [SpillEnd.state]
  · next k o s1 h =>
    have F := spillPlace_frame _ _ _ _ _ _ h
    split
    · next s2 h2 => rw [pair_snd h2]; simp [SpillEnd.state, F]
    · next s2 h2 => rw [pair_snd h2]; simp [SpillEnd.state, F]
@[simp] theorem placeFrame_frame (s : State) (q n : Nat) :
    let t := (placeFrame s q n); t.pending = s.pending ∧ t.timebase = s.timebase ∧ t.balls = s.balls ∧ t.fuses =
    s.fuses ∧ t.glob = s.glob ∧ t.latch = s.latch ∧ t.hostMem = s.hostMem ∧ t.cals = s.cals ∧ t.power = s.power ∧
    t.ports = s.ports ∧ t.mgmt = s.mgmt ∧ t.jtag = s.jtag ∧ t.store = s.store ∧ t.sets = s.sets ∧ t.easel = s.easel
    ∧ t.hb = s.hb ∧ t.adm = s.adm ∧ t.mx = s.mx := by
  have F := spillFrame_frame s q n
  unfold placeFrame
  dsimp only
  split
  · split <;> next h => rw [h] at F; simp [SpillEnd.state] at F; simp [F]
  · simp
@[simp] theorem qmEnter_frame (s : State) (n : Nat) :
    let t := (qmEnter s n); t.pending = s.pending ∧ t.timebase = s.timebase ∧ t.balls = s.balls ∧ t.fuses = s.fuses
    ∧ t.glob = s.glob ∧ t.latch = s.latch ∧ t.hostMem = s.hostMem ∧ t.cals = s.cals ∧ t.power = s.power ∧ t.ports =
    s.ports ∧ t.mgmt = s.mgmt ∧ t.jtag = s.jtag ∧ t.store = s.store ∧ t.sets = s.sets ∧ t.easel = s.easel ∧ t.hb =
    s.hb ∧ t.adm = s.adm ∧ t.mx = s.mx := by
  unfold qmEnter
  (repeat' (first | (split <;> try (rename_i h; first | (have e := pair_third h; clear h; subst e) | (have e := pair_snd h; have e2 := pair_fst h; clear h; subst e; try subst e2) | (have e := pair_fst h; clear h; subst e))) | (dsimp only; split))) <;> first
    | (simp; done)
    | (have F := cacheTake_frame _ _ _ ‹_›; simp [F]; done)
@[simp] theorem rackRelease_frame (s : State) (n : Nat) :
    let t := (rackRelease s n); t.pending = s.pending ∧ t.timebase = s.timebase ∧ t.balls = s.balls ∧ t.fuses =
    s.fuses ∧ t.glob = s.glob ∧ t.latch = s.latch ∧ t.hostMem = s.hostMem ∧ t.cals = s.cals ∧ t.power = s.power ∧
    t.ports = s.ports ∧ t.mgmt = s.mgmt ∧ t.jtag = s.jtag ∧ t.store = s.store ∧ t.sets = s.sets ∧ t.easel = s.easel
    ∧ t.hb = s.hb ∧ t.adm = s.adm ∧ t.mx = s.mx := by simp [rackRelease]
@[simp] theorem openPiece_frame (s : State) (n : Nat) (c : Carrier) :
    let t := (openPiece s n c); t.pending = s.pending ∧ t.timebase = s.timebase ∧ t.freeCtr = s.freeCtr ∧ t.balls =
    s.balls ∧ t.fuses = s.fuses ∧ t.glob = s.glob ∧ t.latch = s.latch ∧ t.mem = s.mem ∧ t.hostMem = s.hostMem ∧
    t.vents = s.vents ∧ t.cals = s.cals ∧ t.power = s.power ∧ t.ports = s.ports ∧ t.subs = s.subs ∧ t.mgmt = s.mgmt
    ∧ t.jtag = s.jtag ∧ t.store = s.store ∧ t.sets = s.sets ∧ t.qm = s.qm ∧ t.glaze = s.glaze ∧ t.easel = s.easel ∧
    t.hb = s.hb ∧ t.adm = s.adm ∧ t.mx = s.mx ∧ t.hbm = s.hbm := by simp [openPiece]
@[simp] theorem joinPiece_frame (s : State) (n : Nat) (c : Carrier) (o : OpenPiece) :
    let t := (joinPiece s n c o); t.pending = s.pending ∧ t.timebase = s.timebase ∧ t.freeCtr = s.freeCtr ∧ t.balls
    = s.balls ∧ t.fuses = s.fuses ∧ t.glob = s.glob ∧ t.latch = s.latch ∧ t.hostMem = s.hostMem ∧ t.cals = s.cals ∧
    t.power = s.power ∧ t.ports = s.ports ∧ t.subs = s.subs ∧ t.mgmt = s.mgmt ∧ t.jtag = s.jtag ∧ t.store = s.store
    ∧ t.sets = s.sets ∧ t.glaze = s.glaze ∧ t.easel = s.easel ∧ t.hb = s.hb ∧ t.adm = s.adm ∧ t.mx = s.mx := by simp [joinPiece]
@[simp] theorem rackJob_frame (s : State) (n : Nat) :
    let t := (rackJob s n); t.pending = s.pending ∧ t.timebase = s.timebase ∧ t.balls = s.balls ∧ t.fuses = s.fuses
    ∧ t.glob = s.glob ∧ t.latch = s.latch ∧ t.hostMem = s.hostMem ∧ t.cals = s.cals ∧ t.power = s.power ∧ t.ports =
    s.ports ∧ t.mgmt = s.mgmt ∧ t.jtag = s.jtag ∧ t.store = s.store ∧ t.sets = s.sets ∧ t.easel = s.easel ∧ t.hb =
    s.hb ∧ t.adm = s.adm ∧ t.mx = s.mx := by
  unfold rackJob
  (repeat' (first | (split <;> try (rename_i h; first | (have e := pair_third h; clear h; subst e) | (have e := pair_snd h; have e2 := pair_fst h; clear h; subst e; try subst e2) | (have e := pair_fst h; clear h; subst e))) | (dsimp only; split))) <;> simp
@[simp] theorem spillRead_frame (s : State) (f : Frame) :
    let t := (spillRead s f).2; t.pending = s.pending ∧ t.timebase = s.timebase ∧ t.freeCtr = s.freeCtr ∧ t.balls =
    s.balls ∧ t.fuses = s.fuses ∧ t.glob = s.glob ∧ t.latch = s.latch ∧ t.mem = s.mem ∧ t.hostMem = s.hostMem ∧
    t.vents = s.vents ∧ t.cals = s.cals ∧ t.power = s.power ∧ t.ports = s.ports ∧ t.subs = s.subs ∧ t.mgmt = s.mgmt
    ∧ t.jtag = s.jtag ∧ t.store = s.store ∧ t.sets = s.sets ∧ t.path = s.path ∧ t.qm = s.qm ∧ t.glaze = s.glaze ∧
    t.easel = s.easel ∧ t.hb = s.hb ∧ t.adm = s.adm ∧ t.mx = s.mx := by
  unfold spillRead
  (repeat' (first | (split <;> try (rename_i h; first | (have e := pair_third h; clear h; subst e) | (have e := pair_snd h; have e2 := pair_fst h; clear h; subst e; try subst e2) | (have e := pair_fst h; clear h; subst e))) | (dsimp only; split))) <;> simp
@[simp] theorem startTx_frame (s : State) (src n : Nat) :
    let t := (startTx s src n); t.pending = s.pending ∧ t.timebase = s.timebase ∧ t.freeCtr = s.freeCtr ∧ t.balls =
    s.balls ∧ t.fuses = s.fuses ∧ t.glob = s.glob ∧ t.latch = s.latch ∧ t.mem = s.mem ∧ t.hostMem = s.hostMem ∧
    t.cals = s.cals ∧ t.power = s.power ∧ t.ports = s.ports ∧ t.mgmt = s.mgmt ∧ t.jtag = s.jtag ∧ t.store = s.store
    ∧ t.sets = s.sets ∧ t.glaze = s.glaze ∧ t.easel = s.easel ∧ t.hb = s.hb ∧ t.adm = s.adm ∧ t.mx = s.mx ∧ t.hbm =
    s.hbm := by simp [startTx]

/-! ### Machine/Lce.lean -/

@[simp] theorem keyUe_frame (s : State) (c k : Nat) :
    let t := (keyUe s c k); t.pending = s.pending ∧ t.timebase = s.timebase ∧ t.freeCtr = s.freeCtr ∧ t.balls =
    s.balls ∧ t.fuses = s.fuses ∧ t.glob = s.glob ∧ t.latch = s.latch ∧ t.mem = s.mem ∧ t.hostMem = s.hostMem ∧
    t.vents = s.vents ∧ t.cals = s.cals ∧ t.power = s.power ∧ t.ports = s.ports ∧ t.subs = s.subs ∧ t.mgmt = s.mgmt
    ∧ t.jtag = s.jtag ∧ t.sets = s.sets ∧ t.path = s.path ∧ t.qm = s.qm ∧ t.glaze = s.glaze ∧ t.easel = s.easel ∧
    t.hb = s.hb ∧ t.adm = s.adm ∧ t.mx = s.mx ∧ t.hbm = s.hbm := by simp [keyUe]
@[simp] theorem jobHeader_frame (s : State) (n : Nat) (j : LceJob) :
    let t := (jobHeader s n j).2; t.pending = s.pending ∧ t.timebase = s.timebase ∧ t.balls = s.balls ∧ t.fuses =
    s.fuses ∧ t.mem = s.mem ∧ t.cals = s.cals ∧ t.power = s.power ∧ t.ports = s.ports ∧ t.subs = s.subs ∧ t.mgmt =
    s.mgmt ∧ t.jtag = s.jtag ∧ t.sets = s.sets ∧ t.path = s.path ∧ t.glaze = s.glaze ∧ t.easel = s.easel ∧ t.adm =
    s.adm ∧ t.mx = s.mx := by
  unfold jobHeader
  (repeat' (first | (split <;> try (rename_i h; first | (have e := pair_third h; clear h; subst e) | (have e := pair_snd h; have e2 := pair_fst h; clear h; subst e; try subst e2) | (have e := pair_fst h; clear h; subst e))) | (dsimp only; split))) <;> simp
@[simp] theorem decryptBytes_frame (s : State) (j : LceJob) (follows : Bool) (f : Frame) (hdr frame : List Byte) :
    let t := (decryptBytes s j follows f hdr frame).2; t.pending = s.pending ∧ t.timebase = s.timebase ∧ t.balls =
    s.balls ∧ t.fuses = s.fuses ∧ t.glob = s.glob ∧ t.latch = s.latch ∧ t.mem = s.mem ∧ t.vents = s.vents ∧ t.cals =
    s.cals ∧ t.power = s.power ∧ t.ports = s.ports ∧ t.subs = s.subs ∧ t.mgmt = s.mgmt ∧ t.jtag = s.jtag ∧ t.sets =
    s.sets ∧ t.path = s.path ∧ t.qm = s.qm ∧ t.glaze = s.glaze ∧ t.easel = s.easel ∧ t.adm = s.adm ∧ t.mx = s.mx ∧
    t.hbm = s.hbm := by
  unfold decryptBytes
  (repeat' (first | (split <;> try (rename_i h; first | (have e := pair_third h; clear h; subst e) | (have e := pair_snd h; have e2 := pair_fst h; clear h; subst e; try subst e2) | (have e := pair_fst h; clear h; subst e))) | (dsimp only; split))) <;> simp
@[simp] theorem jobInputs_frame (s : State) (n : Nat) (ecc staging follows : Bool) (j : LceJob) (f : Frame) :
    let t := (jobInputs s n ecc staging follows j f).2; t.pending = s.pending ∧ t.timebase = s.timebase ∧ t.balls =
    s.balls ∧ t.fuses = s.fuses ∧ t.mem = s.mem ∧ t.cals = s.cals ∧ t.power = s.power ∧ t.ports = s.ports ∧ t.subs =
    s.subs ∧ t.mgmt = s.mgmt ∧ t.jtag = s.jtag ∧ t.sets = s.sets ∧ t.path = s.path ∧ t.glaze = s.glaze ∧ t.easel =
    s.easel ∧ t.adm = s.adm ∧ t.mx = s.mx := by
  unfold jobInputs
  (repeat' (first | (split <;> try (rename_i h; first | (have e := pair_third h; clear h; subst e) | (have e := pair_snd h; have e2 := pair_fst h; clear h; subst e; try subst e2) | (have e := pair_fst h; clear h; subst e))) | (dsimp only; split))) <;> simp
@[simp] theorem dropStray_frame (s : State) (n : Nat) :
    let t := (dropStray s n); t.pending = s.pending ∧ t.timebase = s.timebase ∧ t.freeCtr = s.freeCtr ∧ t.balls =
    s.balls ∧ t.fuses = s.fuses ∧ t.glob = s.glob ∧ t.latch = s.latch ∧ t.mem = s.mem ∧ t.hostMem = s.hostMem ∧
    t.cals = s.cals ∧ t.power = s.power ∧ t.ports = s.ports ∧ t.mgmt = s.mgmt ∧ t.jtag = s.jtag ∧ t.store = s.store
    ∧ t.sets = s.sets ∧ t.hb = s.hb ∧ t.adm = s.adm ∧ t.mx = s.mx ∧ t.hbm = s.hbm := by
  unfold dropStray
  split <;> simp
@[simp] theorem chainMark_frame (s : State) (v : Nat) (bad : Bool) :
    let t := (chainMark s v bad); t.pending = s.pending ∧ t.timebase = s.timebase ∧ t.freeCtr = s.freeCtr ∧ t.balls
    = s.balls ∧ t.fuses = s.fuses ∧ t.glob = s.glob ∧ t.latch = s.latch ∧ t.mem = s.mem ∧ t.hostMem = s.hostMem ∧
    t.vents = s.vents ∧ t.cals = s.cals ∧ t.power = s.power ∧ t.ports = s.ports ∧ t.subs = s.subs ∧ t.mgmt = s.mgmt
    ∧ t.jtag = s.jtag ∧ t.store = s.store ∧ t.sets = s.sets ∧ t.qm = s.qm ∧ t.glaze = s.glaze ∧ t.easel = s.easel ∧
    t.hb = s.hb ∧ t.adm = s.adm ∧ t.mx = s.mx ∧ t.hbm = s.hbm := by simp [chainMark]
theorem jobOutput_frame (s : State) (n : Nat) (cells : List Nat) (bs : List Byte) (t : State) (h : jobOutput s n cells bs = some t) :
    t.pending = s.pending ∧ t.timebase = s.timebase ∧ t.freeCtr = s.freeCtr ∧ t.balls = s.balls ∧ t.fuses = s.fuses
    ∧ t.glob = s.glob ∧ t.latch = s.latch ∧ t.hostMem = s.hostMem ∧ t.vents = s.vents ∧ t.cals = s.cals ∧ t.power =
    s.power ∧ t.ports = s.ports ∧ t.subs = s.subs ∧ t.mgmt = s.mgmt ∧ t.jtag = s.jtag ∧ t.store = s.store ∧ t.sets =
    s.sets ∧ t.qm = s.qm ∧ t.glaze = s.glaze ∧ t.easel = s.easel ∧ t.hb = s.hb ∧ t.adm = s.adm ∧ t.mx = s.mx := by
  unfold jobOutput at h
  (repeat' (first | (split at h <;> try (rename_i hx; first | (have e := pair_third hx; clear hx; subst e) | (have e := pair_snd hx; have e2 := pair_fst hx; clear hx; subst e; try subst e2) | (have e := pair_fst hx; clear hx; subst e))) | (dsimp only at h; split at h))) <;> first
    | (cases h; done)
    | (obtain rfl := Option.some.inj h; simp)
@[simp] theorem lceStep_pending (s : State) (n : Nat) (want : LceJob → Bool) (ecc : Bool) (cells : List Nat) (work : JobWork) (fin : LceJob → Option Carrier → Frame → Frame)
    (hk : ∀ s n e f j x, (work s n e f j x).2.pending = s.pending) : (lceStep s n want ecc cells work fin).pending = s.pending := by
  unfold lceStep
  (repeat' (first | (split <;> try (rename_i h; first | (have e := pair_third h; clear h; subst e) | (have e := pair_snd h; have e2 := pair_fst h; clear h; subst e; try subst e2) | (have e := pair_fst h; clear h; subst e))) | (dsimp only; split))) <;> first | (simp [hk]; done) | (have F := jobOutput_frame _ _ _ _ _ ‹_›; simp [hk, F]; done)
@[simp] theorem lceStep_timebase (s : State) (n : Nat) (want : LceJob → Bool) (ecc : Bool) (cells : List Nat) (work : JobWork) (fin : LceJob → Option Carrier → Frame → Frame)
    (hk : ∀ s n e f j x, (work s n e f j x).2.timebase = s.timebase) : (lceStep s n want ecc cells work fin).timebase = s.timebase := by
  unfold lceStep
  (repeat' (first | (split <;> try (rename_i h; first | (have e := pair_third h; clear h; subst e) | (have e := pair_snd h; have e2 := pair_fst h; clear h; subst e; try subst e2) | (have e := pair_fst h; clear h; subst e))) | (dsimp only; split))) <;> first | (simp [hk]; done) | (have F := jobOutput_frame _ _ _ _ _ ‹_›; simp [hk, F]; done)
@[simp] theorem lceStep_freeCtr (s : State) (n : Nat) (want : LceJob → Bool) (ecc : Bool) (cells : List Nat) (work : JobWork) (fin : LceJob → Option Carrier → Frame → Frame)
    (hk : ∀ s n e f j x, (work s n e f j x).2.freeCtr = s.freeCtr) : (lceStep s n want ecc cells work fin).freeCtr = s.freeCtr := by
  unfold lceStep
  (repeat' (first | (split <;> try (rename_i h; first | (have e := pair_third h; clear h; subst e) | (have e := pair_snd h; have e2 := pair_fst h; clear h; subst e; try subst e2) | (have e := pair_fst h; clear h; subst e))) | (dsimp only; split))) <;> first | (simp [hk]; done) | (have F := jobOutput_frame _ _ _ _ _ ‹_›; simp [hk, F]; done)
@[simp] theorem lceStep_balls (s : State) (n : Nat) (want : LceJob → Bool) (ecc : Bool) (cells : List Nat) (work : JobWork) (fin : LceJob → Option Carrier → Frame → Frame)
    (hk : ∀ s n e f j x, (work s n e f j x).2.balls = s.balls) : (lceStep s n want ecc cells work fin).balls = s.balls := by
  unfold lceStep
  (repeat' (first | (split <;> try (rename_i h; first | (have e := pair_third h; clear h; subst e) | (have e := pair_snd h; have e2 := pair_fst h; clear h; subst e; try subst e2) | (have e := pair_fst h; clear h; subst e))) | (dsimp only; split))) <;> first | (simp [hk]; done) | (have F := jobOutput_frame _ _ _ _ _ ‹_›; simp [hk, F]; done)
@[simp] theorem lceStep_fuses (s : State) (n : Nat) (want : LceJob → Bool) (ecc : Bool) (cells : List Nat) (work : JobWork) (fin : LceJob → Option Carrier → Frame → Frame)
    (hk : ∀ s n e f j x, (work s n e f j x).2.fuses = s.fuses) : (lceStep s n want ecc cells work fin).fuses = s.fuses := by
  unfold lceStep
  (repeat' (first | (split <;> try (rename_i h; first | (have e := pair_third h; clear h; subst e) | (have e := pair_snd h; have e2 := pair_fst h; clear h; subst e; try subst e2) | (have e := pair_fst h; clear h; subst e))) | (dsimp only; split))) <;> first | (simp [hk]; done) | (have F := jobOutput_frame _ _ _ _ _ ‹_›; simp [hk, F]; done)
@[simp] theorem lceStep_glob (s : State) (n : Nat) (want : LceJob → Bool) (ecc : Bool) (cells : List Nat) (work : JobWork) (fin : LceJob → Option Carrier → Frame → Frame)
    (hk : ∀ s n e f j x, (work s n e f j x).2.glob = s.glob) : (lceStep s n want ecc cells work fin).glob = s.glob := by
  unfold lceStep
  (repeat' (first | (split <;> try (rename_i h; first | (have e := pair_third h; clear h; subst e) | (have e := pair_snd h; have e2 := pair_fst h; clear h; subst e; try subst e2) | (have e := pair_fst h; clear h; subst e))) | (dsimp only; split))) <;> first | (simp [hk]; done) | (have F := jobOutput_frame _ _ _ _ _ ‹_›; simp [hk, F]; done)
@[simp] theorem lceStep_latch (s : State) (n : Nat) (want : LceJob → Bool) (ecc : Bool) (cells : List Nat) (work : JobWork) (fin : LceJob → Option Carrier → Frame → Frame)
    (hk : ∀ s n e f j x, (work s n e f j x).2.latch = s.latch) : (lceStep s n want ecc cells work fin).latch = s.latch := by
  unfold lceStep
  (repeat' (first | (split <;> try (rename_i h; first | (have e := pair_third h; clear h; subst e) | (have e := pair_snd h; have e2 := pair_fst h; clear h; subst e; try subst e2) | (have e := pair_fst h; clear h; subst e))) | (dsimp only; split))) <;> first | (simp [hk]; done) | (have F := jobOutput_frame _ _ _ _ _ ‹_›; simp [hk, F]; done)
@[simp] theorem lceStep_hostMem (s : State) (n : Nat) (want : LceJob → Bool) (ecc : Bool) (cells : List Nat) (work : JobWork) (fin : LceJob → Option Carrier → Frame → Frame)
    (hk : ∀ s n e f j x, (work s n e f j x).2.hostMem = s.hostMem) : (lceStep s n want ecc cells work fin).hostMem = s.hostMem := by
  unfold lceStep
  (repeat' (first | (split <;> try (rename_i h; first | (have e := pair_third h; clear h; subst e) | (have e := pair_snd h; have e2 := pair_fst h; clear h; subst e; try subst e2) | (have e := pair_fst h; clear h; subst e))) | (dsimp only; split))) <;> first | (simp [hk]; done) | (have F := jobOutput_frame _ _ _ _ _ ‹_›; simp [hk, F]; done)
@[simp] theorem lceStep_cals (s : State) (n : Nat) (want : LceJob → Bool) (ecc : Bool) (cells : List Nat) (work : JobWork) (fin : LceJob → Option Carrier → Frame → Frame)
    (hk : ∀ s n e f j x, (work s n e f j x).2.cals = s.cals) : (lceStep s n want ecc cells work fin).cals = s.cals := by
  unfold lceStep
  (repeat' (first | (split <;> try (rename_i h; first | (have e := pair_third h; clear h; subst e) | (have e := pair_snd h; have e2 := pair_fst h; clear h; subst e; try subst e2) | (have e := pair_fst h; clear h; subst e))) | (dsimp only; split))) <;> first | (simp [hk]; done) | (have F := jobOutput_frame _ _ _ _ _ ‹_›; simp [hk, F]; done)
@[simp] theorem lceStep_power (s : State) (n : Nat) (want : LceJob → Bool) (ecc : Bool) (cells : List Nat) (work : JobWork) (fin : LceJob → Option Carrier → Frame → Frame)
    (hk : ∀ s n e f j x, (work s n e f j x).2.power = s.power) : (lceStep s n want ecc cells work fin).power = s.power := by
  unfold lceStep
  (repeat' (first | (split <;> try (rename_i h; first | (have e := pair_third h; clear h; subst e) | (have e := pair_snd h; have e2 := pair_fst h; clear h; subst e; try subst e2) | (have e := pair_fst h; clear h; subst e))) | (dsimp only; split))) <;> first | (simp [hk]; done) | (have F := jobOutput_frame _ _ _ _ _ ‹_›; simp [hk, F]; done)
@[simp] theorem lceStep_ports (s : State) (n : Nat) (want : LceJob → Bool) (ecc : Bool) (cells : List Nat) (work : JobWork) (fin : LceJob → Option Carrier → Frame → Frame)
    (hk : ∀ s n e f j x, (work s n e f j x).2.ports = s.ports) : (lceStep s n want ecc cells work fin).ports = s.ports := by
  unfold lceStep
  (repeat' (first | (split <;> try (rename_i h; first | (have e := pair_third h; clear h; subst e) | (have e := pair_snd h; have e2 := pair_fst h; clear h; subst e; try subst e2) | (have e := pair_fst h; clear h; subst e))) | (dsimp only; split))) <;> first | (simp [hk]; done) | (have F := jobOutput_frame _ _ _ _ _ ‹_›; simp [hk, F]; done)
@[simp] theorem lceStep_mgmt (s : State) (n : Nat) (want : LceJob → Bool) (ecc : Bool) (cells : List Nat) (work : JobWork) (fin : LceJob → Option Carrier → Frame → Frame)
    (hk : ∀ s n e f j x, (work s n e f j x).2.mgmt = s.mgmt) : (lceStep s n want ecc cells work fin).mgmt = s.mgmt := by
  unfold lceStep
  (repeat' (first | (split <;> try (rename_i h; first | (have e := pair_third h; clear h; subst e) | (have e := pair_snd h; have e2 := pair_fst h; clear h; subst e; try subst e2) | (have e := pair_fst h; clear h; subst e))) | (dsimp only; split))) <;> first | (simp [hk]; done) | (have F := jobOutput_frame _ _ _ _ _ ‹_›; simp [hk, F]; done)
@[simp] theorem lceStep_jtag (s : State) (n : Nat) (want : LceJob → Bool) (ecc : Bool) (cells : List Nat) (work : JobWork) (fin : LceJob → Option Carrier → Frame → Frame)
    (hk : ∀ s n e f j x, (work s n e f j x).2.jtag = s.jtag) : (lceStep s n want ecc cells work fin).jtag = s.jtag := by
  unfold lceStep
  (repeat' (first | (split <;> try (rename_i h; first | (have e := pair_third h; clear h; subst e) | (have e := pair_snd h; have e2 := pair_fst h; clear h; subst e; try subst e2) | (have e := pair_fst h; clear h; subst e))) | (dsimp only; split))) <;> first | (simp [hk]; done) | (have F := jobOutput_frame _ _ _ _ _ ‹_›; simp [hk, F]; done)
@[simp] theorem lceStep_store (s : State) (n : Nat) (want : LceJob → Bool) (ecc : Bool) (cells : List Nat) (work : JobWork) (fin : LceJob → Option Carrier → Frame → Frame)
    (hk : ∀ s n e f j x, (work s n e f j x).2.store = s.store) : (lceStep s n want ecc cells work fin).store = s.store := by
  unfold lceStep
  (repeat' (first | (split <;> try (rename_i h; first | (have e := pair_third h; clear h; subst e) | (have e := pair_snd h; have e2 := pair_fst h; clear h; subst e; try subst e2) | (have e := pair_fst h; clear h; subst e))) | (dsimp only; split))) <;> first | (simp [hk]; done) | (have F := jobOutput_frame _ _ _ _ _ ‹_›; simp [hk, F]; done)
@[simp] theorem lceStep_sets (s : State) (n : Nat) (want : LceJob → Bool) (ecc : Bool) (cells : List Nat) (work : JobWork) (fin : LceJob → Option Carrier → Frame → Frame)
    (hk : ∀ s n e f j x, (work s n e f j x).2.sets = s.sets) : (lceStep s n want ecc cells work fin).sets = s.sets := by
  unfold lceStep
  (repeat' (first | (split <;> try (rename_i h; first | (have e := pair_third h; clear h; subst e) | (have e := pair_snd h; have e2 := pair_fst h; clear h; subst e; try subst e2) | (have e := pair_fst h; clear h; subst e))) | (dsimp only; split))) <;> first | (simp [hk]; done) | (have F := jobOutput_frame _ _ _ _ _ ‹_›; simp [hk, F]; done)
@[simp] theorem lceStep_hb (s : State) (n : Nat) (want : LceJob → Bool) (ecc : Bool) (cells : List Nat) (work : JobWork) (fin : LceJob → Option Carrier → Frame → Frame)
    (hk : ∀ s n e f j x, (work s n e f j x).2.hb = s.hb) : (lceStep s n want ecc cells work fin).hb = s.hb := by
  unfold lceStep
  (repeat' (first | (split <;> try (rename_i h; first | (have e := pair_third h; clear h; subst e) | (have e := pair_snd h; have e2 := pair_fst h; clear h; subst e; try subst e2) | (have e := pair_fst h; clear h; subst e))) | (dsimp only; split))) <;> first | (simp [hk]; done) | (have F := jobOutput_frame _ _ _ _ _ ‹_›; simp [hk, F]; done)
@[simp] theorem lceStep_adm (s : State) (n : Nat) (want : LceJob → Bool) (ecc : Bool) (cells : List Nat) (work : JobWork) (fin : LceJob → Option Carrier → Frame → Frame)
    (hk : ∀ s n e f j x, (work s n e f j x).2.adm = s.adm) : (lceStep s n want ecc cells work fin).adm = s.adm := by
  unfold lceStep
  (repeat' (first | (split <;> try (rename_i h; first | (have e := pair_third h; clear h; subst e) | (have e := pair_snd h; have e2 := pair_fst h; clear h; subst e; try subst e2) | (have e := pair_fst h; clear h; subst e))) | (dsimp only; split))) <;> first | (simp [hk]; done) | (have F := jobOutput_frame _ _ _ _ _ ‹_›; simp [hk, F]; done)
@[simp] theorem lceStep_mx (s : State) (n : Nat) (want : LceJob → Bool) (ecc : Bool) (cells : List Nat) (work : JobWork) (fin : LceJob → Option Carrier → Frame → Frame)
    (hk : ∀ s n e f j x, (work s n e f j x).2.mx = s.mx) : (lceStep s n want ecc cells work fin).mx = s.mx := by
  unfold lceStep
  (repeat' (first | (split <;> try (rename_i h; first | (have e := pair_third h; clear h; subst e) | (have e := pair_snd h; have e2 := pair_fst h; clear h; subst e; try subst e2) | (have e := pair_fst h; clear h; subst e))) | (dsimp only; split))) <;> first | (simp [hk]; done) | (have F := jobOutput_frame _ _ _ _ _ ‹_›; simp [hk, F]; done)

/-! ### Machine/Glaze.lean -/

@[simp] theorem sendSlot_frame (s : State) (p g n src : Nat) :
    let t := (sendSlot s p g n src); t.pending = s.pending ∧ t.timebase = s.timebase ∧ t.freeCtr = s.freeCtr ∧
    t.balls = s.balls ∧ t.fuses = s.fuses ∧ t.glob = s.glob ∧ t.latch = s.latch ∧ t.mem = s.mem ∧ t.hostMem =
    s.hostMem ∧ t.cals = s.cals ∧ t.power = s.power ∧ t.ports = s.ports ∧ t.subs = s.subs ∧ t.mgmt = s.mgmt ∧ t.jtag
    = s.jtag ∧ t.store = s.store ∧ t.sets = s.sets ∧ t.qm = s.qm ∧ t.glaze = s.glaze ∧ t.hb = s.hb ∧ t.adm = s.adm ∧
    t.mx = s.mx ∧ t.hbm = s.hbm := by simp [sendSlot]
@[simp] theorem issueSlot_frame (s : State) (r : SlotRec) (f : Frame) (cells : List Nat) (bs : List Byte) :
    let t := (issueSlot s r f cells bs); t.pending = s.pending ∧ t.timebase = s.timebase ∧ t.balls = s.balls ∧
    t.fuses = s.fuses ∧ t.glob = s.glob ∧ t.latch = s.latch ∧ t.hostMem = s.hostMem ∧ t.cals = s.cals ∧ t.power =
    s.power ∧ t.ports = s.ports ∧ t.subs = s.subs ∧ t.mgmt = s.mgmt ∧ t.jtag = s.jtag ∧ t.store = s.store ∧ t.sets =
    s.sets ∧ t.qm = s.qm ∧ t.hb = s.hb ∧ t.adm = s.adm ∧ t.mx = s.mx := by simp [issueSlot]
@[simp] theorem refuseFrame_frame (s : State) (p g n : Nat) (e : Bool) (x : Nat) :
    let t := (refuseFrame s p g n e x); t.pending = s.pending ∧ t.timebase = s.timebase ∧ t.balls = s.balls ∧
    t.fuses = s.fuses ∧ t.glob = s.glob ∧ t.latch = s.latch ∧ t.mem = s.mem ∧ t.hostMem = s.hostMem ∧ t.cals =
    s.cals ∧ t.power = s.power ∧ t.ports = s.ports ∧ t.subs = s.subs ∧ t.mgmt = s.mgmt ∧ t.jtag = s.jtag ∧ t.store =
    s.store ∧ t.sets = s.sets ∧ t.hb = s.hb ∧ t.adm = s.adm ∧ t.mx = s.mx ∧ t.hbm = s.hbm := by simp [refuseFrame]
@[simp] theorem slotContent_frame (p g t : Nat) (sh : SlotShape) (n0 : Nat) (s : State) :
    let t := (slotContent p g t sh n0 s).1; t.pending = s.pending ∧ t.timebase = s.timebase ∧ t.balls = s.balls ∧
    t.fuses = s.fuses ∧ t.glob = s.glob ∧ t.latch = s.latch ∧ t.mem = s.mem ∧ t.hostMem = s.hostMem ∧ t.cals =
    s.cals ∧ t.power = s.power ∧ t.ports = s.ports ∧ t.mgmt = s.mgmt ∧ t.jtag = s.jtag ∧ t.store = s.store ∧ t.sets
    = s.sets ∧ t.hb = s.hb ∧ t.adm = s.adm ∧ t.mx = s.mx ∧ t.hbm = s.hbm := by
  induction n0 generalizing s with
  | zero => simp [slotContent]
  | succ n ih => unfold slotContent; (repeat' (first | (split <;> try (rename_i h; first | (have e := pair_third h; clear h; subst e) | (have e := pair_snd h; have e2 := pair_fst h; clear h; subst e; try subst e2) | (have e := pair_fst h; clear h; subst e))) | (dsimp only; split))) <;> first | (simp [ih]; done) | (have F := pickNode_frame _ _ _ _ _ ‹_›; simp [ih, F]; done)
theorem closeContent_frame (s : State) (p g n o : Nat) (sh : SlotShape) (cells : List Nat) (t : State) (h : closeContent s p g n o sh cells = some t) :
    t.pending = s.pending ∧ t.timebase = s.timebase ∧ t.balls = s.balls ∧ t.fuses = s.fuses ∧ t.glob = s.glob ∧
    t.latch = s.latch ∧ t.hostMem = s.hostMem ∧ t.cals = s.cals ∧ t.power = s.power ∧ t.ports = s.ports ∧ t.subs =
    s.subs ∧ t.mgmt = s.mgmt ∧ t.jtag = s.jtag ∧ t.store = s.store ∧ t.sets = s.sets ∧ t.hb = s.hb ∧ t.adm = s.adm ∧
    t.mx = s.mx := by
  unfold closeContent at h
  (repeat' (first | (split at h <;> try (rename_i hx; first | (have e := pair_third hx; clear hx; subst e) | (have e := pair_snd hx; have e2 := pair_fst hx; clear hx; subst e; try subst e2) | (have e := pair_fst hx; clear hx; subst e))) | (dsimp only at h; split at h))) <;> first
    | (cases h; done)
    | (obtain rfl := Option.some.inj h; simp)
theorem closeDummy_frame (s : State) (p g : Nat) (sh : SlotShape) (cells : List Nat) (t : State) (h : closeDummy s p g sh cells = some t) :
    t.pending = s.pending ∧ t.timebase = s.timebase ∧ t.balls = s.balls ∧ t.fuses = s.fuses ∧ t.glob = s.glob ∧
    t.latch = s.latch ∧ t.hostMem = s.hostMem ∧ t.cals = s.cals ∧ t.power = s.power ∧ t.ports = s.ports ∧ t.subs =
    s.subs ∧ t.mgmt = s.mgmt ∧ t.jtag = s.jtag ∧ t.store = s.store ∧ t.sets = s.sets ∧ t.qm = s.qm ∧ t.hb = s.hb ∧
    t.adm = s.adm ∧ t.mx = s.mx := by
  unfold closeDummy at h
  (repeat' (first | (split at h <;> try (rename_i hx; first | (have e := pair_third hx; clear hx; subst e) | (have e := pair_snd hx; have e2 := pair_fst hx; clear hx; subst e; try subst e2) | (have e := pair_fst hx; clear hx; subst e))) | (dsimp only at h; split at h))) <;> first
    | (cases h; done)
    | (obtain rfl := Option.some.inj h; simp)
@[simp] theorem startSlot_frame (s : State) (p g n src : Nat) :
    let t := (startSlot s p g n src); t.pending = s.pending ∧ t.timebase = s.timebase ∧ t.freeCtr = s.freeCtr ∧
    t.balls = s.balls ∧ t.fuses = s.fuses ∧ t.glob = s.glob ∧ t.latch = s.latch ∧ t.mem = s.mem ∧ t.hostMem =
    s.hostMem ∧ t.cals = s.cals ∧ t.power = s.power ∧ t.ports = s.ports ∧ t.mgmt = s.mgmt ∧ t.jtag = s.jtag ∧
    t.store = s.store ∧ t.sets = s.sets ∧ t.easel = s.easel ∧ t.hb = s.hb ∧ t.adm = s.adm ∧ t.mx = s.mx ∧ t.hbm =
    s.hbm := by simp [startSlot]

end Sys2Proof.Machine
end

