-- ==== Sys2Proof/Laws/FramesPart.lean ====
section
/-! SUPPORT. The fields of State that each shared operation of admin commands, power, links and the host bridge leaves as
they were. -/

namespace Sys2Proof.Machine

/-! ### Machine/Adm.lean -/

@[simp] theorem haltRing_frame (s : State) (r status : Nat) (late : Bool) :
    let t := (haltRing s r status late); t.pending = s.pending ∧ t.timebase = s.timebase ∧ t.freeCtr = s.freeCtr ∧
    t.balls = s.balls ∧ t.fuses = s.fuses ∧ t.glob = s.glob ∧ t.latch = s.latch ∧ t.mem = s.mem ∧ t.vents = s.vents
    ∧ t.cals = s.cals ∧ t.power = s.power ∧ t.ports = s.ports ∧ t.subs = s.subs ∧ t.mgmt = s.mgmt ∧ t.jtag = s.jtag
    ∧ t.store = s.store ∧ t.sets = s.sets ∧ t.path = s.path ∧ t.qm = s.qm ∧ t.glaze = s.glaze ∧ t.easel = s.easel ∧
    t.adm = s.adm ∧ t.mx = s.mx ∧ t.hbm = s.hbm := by
  unfold haltRing
  split <;> simp
@[simp] theorem cqWrite_frame (s : State) (c : AdmCmd) (status : Nat) :
    let t := (cqWrite s c status); t.pending = s.pending ∧ t.timebase = s.timebase ∧ t.freeCtr = s.freeCtr ∧ t.balls
    = s.balls ∧ t.fuses = s.fuses ∧ t.glob = s.glob ∧ t.latch = s.latch ∧ t.mem = s.mem ∧ t.vents = s.vents ∧ t.cals
    = s.cals ∧ t.power = s.power ∧ t.ports = s.ports ∧ t.subs = s.subs ∧ t.mgmt = s.mgmt ∧ t.jtag = s.jtag ∧ t.store
    = s.store ∧ t.sets = s.sets ∧ t.path = s.path ∧ t.qm = s.qm ∧ t.glaze = s.glaze ∧ t.easel = s.easel ∧ t.mx =
    s.mx ∧ t.hbm = s.hbm := by simp [cqWrite]
@[simp] theorem admComplete_frame (s : State) :
    let t := (admComplete s); t.pending = s.pending ∧ t.timebase = s.timebase ∧ t.freeCtr = s.freeCtr ∧ t.balls =
    s.balls ∧ t.fuses = s.fuses ∧ t.glob = s.glob ∧ t.latch = s.latch ∧ t.mem = s.mem ∧ t.vents = s.vents ∧ t.cals =
    s.cals ∧ t.power = s.power ∧ t.ports = s.ports ∧ t.subs = s.subs ∧ t.mgmt = s.mgmt ∧ t.jtag = s.jtag ∧ t.store =
    s.store ∧ t.sets = s.sets ∧ t.path = s.path ∧ t.qm = s.qm ∧ t.glaze = s.glaze ∧ t.easel = s.easel ∧ t.mx = s.mx
    ∧ t.hbm = s.hbm := by
  unfold admComplete
  (repeat' split) <;> simp
@[simp] theorem admFail_frame (s : State) (id status detail : Nat) :
    let t := (admFail s id status detail); t.pending = s.pending ∧ t.timebase = s.timebase ∧ t.freeCtr = s.freeCtr ∧
    t.balls = s.balls ∧ t.fuses = s.fuses ∧ t.glob = s.glob ∧ t.latch = s.latch ∧ t.mem = s.mem ∧ t.hostMem =
    s.hostMem ∧ t.vents = s.vents ∧ t.cals = s.cals ∧ t.power = s.power ∧ t.ports = s.ports ∧ t.subs = s.subs ∧
    t.mgmt = s.mgmt ∧ t.jtag = s.jtag ∧ t.store = s.store ∧ t.sets = s.sets ∧ t.path = s.path ∧ t.qm = s.qm ∧
    t.glaze = s.glaze ∧ t.easel = s.easel ∧ t.hb = s.hb ∧ t.mx = s.mx ∧ t.hbm = s.hbm := by simp [admFail]
@[simp] theorem admAsk_frame (s : State) (x : Ring) (d : AdmDesc) (reads : List (Nat × Nat)) :
    let t := (admAsk s x d reads); t.pending = s.pending ∧ t.timebase = s.timebase ∧ t.freeCtr = s.freeCtr ∧ t.balls =
    s.balls ∧ t.fuses = s.fuses ∧ t.glob = s.glob ∧ t.latch = s.latch ∧ t.mem = s.mem ∧ t.hostMem = s.hostMem ∧
    t.vents = s.vents ∧ t.cals = s.cals ∧ t.power = s.power ∧ t.ports = s.ports ∧ t.subs = s.subs ∧ t.mgmt = s.mgmt
    ∧ t.jtag = s.jtag ∧ t.store = s.store ∧ t.sets = s.sets ∧ t.path = s.path ∧ t.qm = s.qm ∧ t.glaze = s.glaze ∧
    t.easel = s.easel ∧ t.adm = s.adm ∧ t.mx = s.mx ∧ t.hbm = s.hbm := by simp [admAsk]
@[simp] theorem admTake_frame (s : State) (x : Ring) (d : AdmDesc) (objs : List AdmObj) (reads : List (Nat × Nat)) :
    let t := (admTake s x d objs reads); t.pending = s.pending ∧ t.timebase = s.timebase ∧ t.freeCtr = s.freeCtr ∧ t.balls
    = s.balls ∧ t.fuses = s.fuses ∧ t.glob = s.glob ∧ t.latch = s.latch ∧ t.mem = s.mem ∧ t.hostMem = s.hostMem ∧
    t.vents = s.vents ∧ t.cals = s.cals ∧ t.power = s.power ∧ t.ports = s.ports ∧ t.subs = s.subs ∧ t.mgmt = s.mgmt
    ∧ t.jtag = s.jtag ∧ t.store = s.store ∧ t.sets = s.sets ∧ t.path = s.path ∧ t.qm = s.qm ∧ t.glaze = s.glaze ∧
    t.easel = s.easel ∧ t.mx = s.mx ∧ t.hbm = s.hbm := by simp [admTake]
@[simp] theorem admRefuse_frame (s : State) (x : Ring) (d : AdmDesc) (r : Nat × Nat × Nat) (reads : List (Nat × Nat)) :
    let t := (admRefuse s x d r reads); t.pending = s.pending ∧ t.timebase = s.timebase ∧ t.freeCtr = s.freeCtr ∧ t.balls
    = s.balls ∧ t.fuses = s.fuses ∧ t.glob = s.glob ∧ t.latch = s.latch ∧ t.mem = s.mem ∧ t.hostMem = s.hostMem ∧
    t.vents = s.vents ∧ t.cals = s.cals ∧ t.power = s.power ∧ t.ports = s.ports ∧ t.subs = s.subs ∧ t.mgmt = s.mgmt
    ∧ t.jtag = s.jtag ∧ t.store = s.store ∧ t.sets = s.sets ∧ t.path = s.path ∧ t.qm = s.qm ∧ t.glaze = s.glaze ∧
    t.easel = s.easel ∧ t.mx = s.mx ∧ t.hbm = s.hbm := by simp [admRefuse]
/-- A field that acceptance itself leaves alone, and that the accepted command keeps, is kept. -/
theorem admAccept_keep {β : Type} (φ : State → β) (s : State) (d : AdmDesc) (p : Option (List Byte)) (q : AdmReq)
    (go : Nat → State → State) (h : ∀ id s, φ (go id s) = φ s) (hh : ∀ s x, φ { s with hb := x } = φ s)
    (ha : ∀ s x, φ { s with adm := x } = φ s) : φ (admAccept s d p q go) = φ s := by
  have e1 : ∀ s a, φ (hostReadBad s a) = φ s := by
    intro s a
    have e : φ (hostReadFail s a) = φ s := (hh _ _).trans (hh s _)
    unfold hostReadBad
    split
    · exact (hh _ _).trans e
    · exact e
  have e0 : ∀ s x l, φ (admAsk s x d l) = φ s := fun s x l => foldl_keep φ _ (fun _ _ => hh _ _) _ s
  have e2 : ∀ s x r l, φ (admRefuse s x d r l) = φ s := fun s x r l => (ha _ _).trans (e0 _ _ _)
  have e3 : ∀ s x o l, φ (admTake s x d o l) = φ s := fun s x o l => (ha _ _).trans ((hh _ _).trans (e0 _ _ _))
  unfold admAccept
  (repeat' split) <;> first
    | rfl
    | rw [h, e3]
    | rw [e2, e1]
    | rw [e2]
@[simp] theorem admAccept_pending (s : State) (d : AdmDesc) (p : Option (List Byte)) (q : AdmReq) (go : Nat → State → State)
    (h : ∀ id s, (go id s).pending = s.pending) : (admAccept s d p q go).pending = s.pending :=
  admAccept_keep (·.pending) s d p q go h (fun _ _ => rfl) (fun _ _ => rfl)
@[simp] theorem admAccept_timebase (s : State) (d : AdmDesc) (p : Option (List Byte)) (q : AdmReq) (go : Nat → State → State)
    (h : ∀ id s, (go id s).timebase = s.timebase) : (admAccept s d p q go).timebase = s.timebase :=
  admAccept_keep (·.timebase) s d p q go h (fun _ _ => rfl) (fun _ _ => rfl)
@[simp] theorem admAccept_freeCtr (s : State) (d : AdmDesc) (p : Option (List Byte)) (q : AdmReq) (go : Nat → State → State)
    (h : ∀ id s, (go id s).freeCtr = s.freeCtr) : (admAccept s d p q go).freeCtr = s.freeCtr :=
  admAccept_keep (·.freeCtr) s d p q go h (fun _ _ => rfl) (fun _ _ => rfl)
@[simp] theorem admAccept_balls (s : State) (d : AdmDesc) (p : Option (List Byte)) (q : AdmReq) (go : Nat → State → State)
    (h : ∀ id s, (go id s).balls = s.balls) : (admAccept s d p q go).balls = s.balls :=
  admAccept_keep (·.balls) s d p q go h (fun _ _ => rfl) (fun _ _ => rfl)
@[simp] theorem admAccept_fuses (s : State) (d : AdmDesc) (p : Option (List Byte)) (q : AdmReq) (go : Nat → State → State)
    (h : ∀ id s, (go id s).fuses = s.fuses) : (admAccept s d p q go).fuses = s.fuses :=
  admAccept_keep (·.fuses) s d p q go h (fun _ _ => rfl) (fun _ _ => rfl)
@[simp] theorem admAccept_glob (s : State) (d : AdmDesc) (p : Option (List Byte)) (q : AdmReq) (go : Nat → State → State)
    (h : ∀ id s, (go id s).glob = s.glob) : (admAccept s d p q go).glob = s.glob :=
  admAccept_keep (·.glob) s d p q go h (fun _ _ => rfl) (fun _ _ => rfl)
@[simp] theorem admAccept_latch (s : State) (d : AdmDesc) (p : Option (List Byte)) (q : AdmReq) (go : Nat → State → State)
    (h : ∀ id s, (go id s).latch = s.latch) : (admAccept s d p q go).latch = s.latch :=
  admAccept_keep (·.latch) s d p q go h (fun _ _ => rfl) (fun _ _ => rfl)
@[simp] theorem admAccept_mem (s : State) (d : AdmDesc) (p : Option (List Byte)) (q : AdmReq) (go : Nat → State → State)
    (h : ∀ id s, (go id s).mem = s.mem) : (admAccept s d p q go).mem = s.mem :=
  admAccept_keep (·.mem) s d p q go h (fun _ _ => rfl) (fun _ _ => rfl)
@[simp] theorem admAccept_hostMem (s : State) (d : AdmDesc) (p : Option (List Byte)) (q : AdmReq) (go : Nat → State → State)
    (h : ∀ id s, (go id s).hostMem = s.hostMem) : (admAccept s d p q go).hostMem = s.hostMem :=
  admAccept_keep (·.hostMem) s d p q go h (fun _ _ => rfl) (fun _ _ => rfl)
@[simp] theorem admAccept_vents (s : State) (d : AdmDesc) (p : Option (List Byte)) (q : AdmReq) (go : Nat → State → State)
    (h : ∀ id s, (go id s).vents = s.vents) : (admAccept s d p q go).vents = s.vents :=
  admAccept_keep (·.vents) s d p q go h (fun _ _ => rfl) (fun _ _ => rfl)
@[simp] theorem admAccept_cals (s : State) (d : AdmDesc) (p : Option (List Byte)) (q : AdmReq) (go : Nat → State → State)
    (h : ∀ id s, (go id s).cals = s.cals) : (admAccept s d p q go).cals = s.cals :=
  admAccept_keep (·.cals) s d p q go h (fun _ _ => rfl) (fun _ _ => rfl)
@[simp] theorem admAccept_power (s : State) (d : AdmDesc) (p : Option (List Byte)) (q : AdmReq) (go : Nat → State → State)
    (h : ∀ id s, (go id s).power = s.power) : (admAccept s d p q go).power = s.power :=
  admAccept_keep (·.power) s d p q go h (fun _ _ => rfl) (fun _ _ => rfl)
@[simp] theorem admAccept_ports (s : State) (d : AdmDesc) (p : Option (List Byte)) (q : AdmReq) (go : Nat → State → State)
    (h : ∀ id s, (go id s).ports = s.ports) : (admAccept s d p q go).ports = s.ports :=
  admAccept_keep (·.ports) s d p q go h (fun _ _ => rfl) (fun _ _ => rfl)
@[simp] theorem admAccept_subs (s : State) (d : AdmDesc) (p : Option (List Byte)) (q : AdmReq) (go : Nat → State → State)
    (h : ∀ id s, (go id s).subs = s.subs) : (admAccept s d p q go).subs = s.subs :=
  admAccept_keep (·.subs) s d p q go h (fun _ _ => rfl) (fun _ _ => rfl)
@[simp] theorem admAccept_mgmt (s : State) (d : AdmDesc) (p : Option (List Byte)) (q : AdmReq) (go : Nat → State → State)
    (h : ∀ id s, (go id s).mgmt = s.mgmt) : (admAccept s d p q go).mgmt = s.mgmt :=
  admAccept_keep (·.mgmt) s d p q go h (fun _ _ => rfl) (fun _ _ => rfl)
@[simp] theorem admAccept_jtag (s : State) (d : AdmDesc) (p : Option (List Byte)) (q : AdmReq) (go : Nat → State → State)
    (h : ∀ id s, (go id s).jtag = s.jtag) : (admAccept s d p q go).jtag = s.jtag :=
  admAccept_keep (·.jtag) s d p q go h (fun _ _ => rfl) (fun _ _ => rfl)
@[simp] theorem admAccept_store (s : State) (d : AdmDesc) (p : Option (List Byte)) (q : AdmReq) (go : Nat → State → State)
    (h : ∀ id s, (go id s).store = s.store) : (admAccept s d p q go).store = s.store :=
  admAccept_keep (·.store) s d p q go h (fun _ _ => rfl) (fun _ _ => rfl)
@[simp] theorem admAccept_sets (s : State) (d : AdmDesc) (p : Option (List Byte)) (q : AdmReq) (go : Nat → State → State)
    (h : ∀ id s, (go id s).sets = s.sets) : (admAccept s d p q go).sets = s.sets :=
  admAccept_keep (·.sets) s d p q go h (fun _ _ => rfl) (fun _ _ => rfl)
@[simp] theorem admAccept_path (s : State) (d : AdmDesc) (p : Option (List Byte)) (q : AdmReq) (go : Nat → State → State)
    (h : ∀ id s, (go id s).path = s.path) : (admAccept s d p q go).path = s.path :=
  admAccept_keep (·.path) s d p q go h (fun _ _ => rfl) (fun _ _ => rfl)
@[simp] theorem admAccept_qm (s : State) (d : AdmDesc) (p : Option (List Byte)) (q : AdmReq) (go : Nat → State → State)
    (h : ∀ id s, (go id s).qm = s.qm) : (admAccept s d p q go).qm = s.qm :=
  admAccept_keep (·.qm) s d p q go h (fun _ _ => rfl) (fun _ _ => rfl)
@[simp] theorem admAccept_glaze (s : State) (d : AdmDesc) (p : Option (List Byte)) (q : AdmReq) (go : Nat → State → State)
    (h : ∀ id s, (go id s).glaze = s.glaze) : (admAccept s d p q go).glaze = s.glaze :=
  admAccept_keep (·.glaze) s d p q go h (fun _ _ => rfl) (fun _ _ => rfl)
@[simp] theorem admAccept_easel (s : State) (d : AdmDesc) (p : Option (List Byte)) (q : AdmReq) (go : Nat → State → State)
    (h : ∀ id s, (go id s).easel = s.easel) : (admAccept s d p q go).easel = s.easel :=
  admAccept_keep (·.easel) s d p q go h (fun _ _ => rfl) (fun _ _ => rfl)
@[simp] theorem admAccept_mx (s : State) (d : AdmDesc) (p : Option (List Byte)) (q : AdmReq) (go : Nat → State → State)
    (h : ∀ id s, (go id s).mx = s.mx) : (admAccept s d p q go).mx = s.mx :=
  admAccept_keep (·.mx) s d p q go h (fun _ _ => rfl) (fun _ _ => rfl)
@[simp] theorem admAccept_hbm (s : State) (d : AdmDesc) (p : Option (List Byte)) (q : AdmReq) (go : Nat → State → State)
    (h : ∀ id s, (go id s).hbm = s.hbm) : (admAccept s d p q go).hbm = s.hbm :=
  admAccept_keep (·.hbm) s d p q go h (fun _ _ => rfl) (fun _ _ => rfl)
@[simp] theorem putAdm_frame (s : State) (raddr : Nat) (bs : List Byte) :
    let t := (putAdm s raddr bs); t.pending = s.pending ∧ t.timebase = s.timebase ∧ t.freeCtr = s.freeCtr ∧ t.balls
    = s.balls ∧ t.fuses = s.fuses ∧ t.glob = s.glob ∧ t.latch = s.latch ∧ t.mem = s.mem ∧ t.vents = s.vents ∧ t.cals
    = s.cals ∧ t.power = s.power ∧ t.ports = s.ports ∧ t.subs = s.subs ∧ t.mgmt = s.mgmt ∧ t.jtag = s.jtag ∧ t.store
    = s.store ∧ t.sets = s.sets ∧ t.path = s.path ∧ t.qm = s.qm ∧ t.glaze = s.glaze ∧ t.easel = s.easel ∧ t.adm =
    s.adm ∧ t.mx = s.mx ∧ t.hbm = s.hbm := by simp [putAdm]
@[simp] theorem admResult_frame (s : State) (d : AdmDesc) (bs : List Byte) :
    let t := (admResult s d bs); t.pending = s.pending ∧ t.timebase = s.timebase ∧ t.freeCtr = s.freeCtr ∧ t.balls =
    s.balls ∧ t.fuses = s.fuses ∧ t.glob = s.glob ∧ t.latch = s.latch ∧ t.mem = s.mem ∧ t.vents = s.vents ∧ t.cals =
    s.cals ∧ t.power = s.power ∧ t.ports = s.ports ∧ t.subs = s.subs ∧ t.mgmt = s.mgmt ∧ t.jtag = s.jtag ∧ t.store =
    s.store ∧ t.sets = s.sets ∧ t.path = s.path ∧ t.qm = s.qm ∧ t.glaze = s.glaze ∧ t.easel = s.easel ∧ t.adm =
    s.adm ∧ t.mx = s.mx ∧ t.hbm = s.hbm := by simp [admResult]

/-! ### Machine/Power.lean -/

@[simp] theorem startPriming_frame (s : State) :
    let t := (startPriming s); t.pending = s.pending ∧ t.timebase = s.timebase ∧ t.freeCtr = s.freeCtr ∧ t.balls =
    s.balls ∧ t.fuses = s.fuses ∧ t.latch = s.latch ∧ t.mem = s.mem ∧ t.hostMem = s.hostMem ∧ t.vents = s.vents ∧
    t.cals = s.cals ∧ t.power = s.power ∧ t.ports = s.ports ∧ t.subs = s.subs ∧ t.mgmt = s.mgmt ∧ t.jtag = s.jtag ∧
    t.store = s.store ∧ t.sets = s.sets ∧ t.path = s.path ∧ t.qm = s.qm ∧ t.glaze = s.glaze ∧ t.easel = s.easel ∧
    t.hb = s.hb ∧ t.adm = s.adm ∧ t.mx = s.mx ∧ t.hbm = s.hbm := by simp [startPriming]
@[simp] theorem setFail_frame (s : State) (code detail : Nat) :
    let t := (setFail s code detail); t.pending = s.pending ∧ t.timebase = s.timebase ∧ t.freeCtr = s.freeCtr ∧
    t.balls = s.balls ∧ t.fuses = s.fuses ∧ t.latch = s.latch ∧ t.mem = s.mem ∧ t.hostMem = s.hostMem ∧ t.vents =
    s.vents ∧ t.cals = s.cals ∧ t.power = s.power ∧ t.ports = s.ports ∧ t.subs = s.subs ∧ t.mgmt = s.mgmt ∧ t.jtag =
    s.jtag ∧ t.store = s.store ∧ t.sets = s.sets ∧ t.path = s.path ∧ t.qm = s.qm ∧ t.glaze = s.glaze ∧ t.easel =
    s.easel ∧ t.adm = s.adm ∧ t.mx = s.mx ∧ t.hbm = s.hbm := by simp [setFail]
@[simp] theorem shutdown_frame (s : State) (n : Nat) (r : Byte) :
    let t := (shutdown s n r); t.pending = s.pending ∧ t.timebase = s.timebase ∧ t.freeCtr = s.freeCtr ∧ t.balls =
    s.balls ∧ t.fuses = s.fuses ∧ t.glob = s.glob ∧ t.latch = s.latch ∧ t.mem = s.mem ∧ t.vents = s.vents ∧ t.subs =
    s.subs ∧ t.mgmt = s.mgmt ∧ t.jtag = s.jtag ∧ t.store = s.store ∧ t.sets = s.sets ∧ t.path = s.path ∧ t.qm = s.qm
    ∧ t.glaze = s.glaze ∧ t.easel = s.easel ∧ t.adm = s.adm ∧ t.mx = s.mx ∧ t.hbm = s.hbm := by simp [shutdown]
@[simp] theorem noteTemp_frame (s : State) (n : Nat) (r : Byte) :
    let t := (noteTemp s n r); t.pending = s.pending ∧ t.timebase = s.timebase ∧ t.freeCtr = s.freeCtr ∧ t.balls =
    s.balls ∧ t.fuses = s.fuses ∧ t.glob = s.glob ∧ t.latch = s.latch ∧ t.mem = s.mem ∧ t.hostMem = s.hostMem ∧
    t.vents = s.vents ∧ t.ports = s.ports ∧ t.subs = s.subs ∧ t.mgmt = s.mgmt ∧ t.jtag = s.jtag ∧ t.store = s.store
    ∧ t.sets = s.sets ∧ t.path = s.path ∧ t.qm = s.qm ∧ t.glaze = s.glaze ∧ t.easel = s.easel ∧ t.hb = s.hb ∧ t.adm
    = s.adm ∧ t.mx = s.mx ∧ t.hbm = s.hbm := by simp [noteTemp]
@[simp] theorem loadSections_frame (s : State) (c : Nat) :
    let t := (loadSections s c); t.pending = s.pending ∧ t.timebase = s.timebase ∧ t.freeCtr = s.freeCtr ∧ t.balls =
    s.balls ∧ t.fuses = s.fuses ∧ t.glob = s.glob ∧ t.latch = s.latch ∧ t.hostMem = s.hostMem ∧ t.vents = s.vents ∧
    t.power = s.power ∧ t.ports = s.ports ∧ t.subs = s.subs ∧ t.mgmt = s.mgmt ∧ t.jtag = s.jtag ∧ t.store = s.store
    ∧ t.sets = s.sets ∧ t.path = s.path ∧ t.qm = s.qm ∧ t.glaze = s.glaze ∧ t.easel = s.easel ∧ t.hb = s.hb ∧ t.adm
    = s.adm ∧ t.mx = s.mx := by simp [loadSections]
@[simp] theorem wipeVent_frame (s : State) (v : Nat) :
    let t := (wipeVent s v); t.pending = s.pending ∧ t.timebase = s.timebase ∧ t.freeCtr = s.freeCtr ∧ t.balls =
    s.balls ∧ t.fuses = s.fuses ∧ t.glob = s.glob ∧ t.latch = s.latch ∧ t.hostMem = s.hostMem ∧ t.cals = s.cals ∧
    t.power = s.power ∧ t.ports = s.ports ∧ t.subs = s.subs ∧ t.mgmt = s.mgmt ∧ t.jtag = s.jtag ∧ t.store = s.store ∧
    t.sets = s.sets ∧ t.path = s.path ∧ t.qm = s.qm ∧ t.glaze = s.glaze ∧ t.easel = s.easel ∧ t.hb = s.hb ∧
    t.adm = s.adm ∧ t.mx = s.mx ∧ t.hbm = s.hbm := by
  simp [wipeVent]
@[simp] theorem wipeCal_frame (s : State) (c : Nat) :
    let t := (wipeCal s c); t.pending = s.pending ∧ t.timebase = s.timebase ∧ t.freeCtr = s.freeCtr ∧ t.balls =
    s.balls ∧ t.fuses = s.fuses ∧ t.glob = s.glob ∧ t.latch = s.latch ∧ t.hostMem = s.hostMem ∧ t.power = s.power ∧
    t.ports = s.ports ∧ t.subs = s.subs ∧ t.mgmt = s.mgmt ∧ t.jtag = s.jtag ∧ t.store = s.store ∧ t.sets = s.sets ∧
    t.path = s.path ∧ t.qm = s.qm ∧ t.glaze = s.glaze ∧ t.hb = s.hb ∧ t.adm = s.adm := by
  simp [wipeCal]
@[simp] theorem domainEnd_frame (s : State) (c : Nat) :
    let t := (domainEnd s c); t.pending = s.pending ∧ t.timebase = s.timebase ∧ t.freeCtr = s.freeCtr ∧ t.balls =
    s.balls ∧ t.fuses = s.fuses ∧ t.glob = s.glob ∧ t.latch = s.latch ∧ t.mem = s.mem ∧ t.hostMem = s.hostMem ∧
    t.cals = s.cals ∧ t.power = s.power ∧ t.ports = s.ports ∧ t.subs = s.subs ∧ t.mgmt = s.mgmt ∧ t.jtag = s.jtag ∧
    t.store = s.store ∧ t.sets = s.sets ∧ t.path = s.path ∧ t.qm = s.qm ∧ t.glaze = s.glaze ∧ t.easel = s.easel ∧
    t.hb = s.hb ∧ t.adm = s.adm ∧ t.hbm = s.hbm := by simp [domainEnd]
@[simp] theorem scrubPassed_frame (s : State) (o : Nat) :
    let t := (scrubPassed s o); t.pending = s.pending ∧ t.timebase = s.timebase ∧ t.freeCtr = s.freeCtr ∧ t.balls =
    s.balls ∧ t.fuses = s.fuses ∧ t.glob = s.glob ∧ t.latch = s.latch ∧ t.mem = s.mem ∧ t.hostMem = s.hostMem ∧
    t.vents = s.vents ∧ t.cals = s.cals ∧ t.power = s.power ∧ t.ports = s.ports ∧ t.subs = s.subs ∧ t.mgmt = s.mgmt
    ∧ t.jtag = s.jtag ∧ t.store = s.store ∧ t.sets = s.sets ∧ t.path = s.path ∧ t.qm = s.qm ∧ t.glaze = s.glaze ∧
    t.easel = s.easel ∧ t.hb = s.hb ∧ t.adm = s.adm ∧ t.mx = s.mx := by simp [scrubPassed]
@[simp] theorem scrubHbm_frame (s : State) (o : Nat) (f : ScrubFound) :
    let t := (scrubHbm s o f); t.pending = s.pending ∧ t.timebase = s.timebase ∧ t.freeCtr = s.freeCtr ∧ t.balls =
    s.balls ∧ t.fuses = s.fuses ∧ t.glob = s.glob ∧ t.latch = s.latch ∧ t.mem = s.mem ∧ t.hostMem = s.hostMem ∧
    t.vents = s.vents ∧ t.cals = s.cals ∧ t.power = s.power ∧ t.ports = s.ports ∧ t.subs = s.subs ∧ t.mgmt = s.mgmt
    ∧ t.jtag = s.jtag ∧ t.store = s.store ∧ t.sets = s.sets ∧ t.path = s.path ∧ t.qm = s.qm ∧ t.glaze = s.glaze ∧
    t.easel = s.easel ∧ t.hb = s.hb ∧ t.adm = s.adm ∧ t.mx = s.mx := by
  unfold scrubHbm
  (repeat' (first | (split <;> try (rename_i h; first | (have e := pair_third h; clear h; subst e) | (have e := pair_snd h; have e2 := pair_fst h; clear h; subst e; try subst e2) | (have e := pair_fst h; clear h; subst e))) | (dsimp only; split))) <;> simp
@[simp] theorem storeUe_frame (s : State) (b o : Nat) :
    let t := (storeUe s b o); t.pending = s.pending ∧ t.timebase = s.timebase ∧ t.freeCtr = s.freeCtr ∧ t.balls =
    s.balls ∧ t.fuses = s.fuses ∧ t.glob = s.glob ∧ t.latch = s.latch ∧ t.mem = s.mem ∧ t.hostMem = s.hostMem ∧
    t.vents = s.vents ∧ t.cals = s.cals ∧ t.power = s.power ∧ t.ports = s.ports ∧ t.subs = s.subs ∧ t.mgmt = s.mgmt
    ∧ t.jtag = s.jtag ∧ t.sets = s.sets ∧ t.path = s.path ∧ t.qm = s.qm ∧ t.glaze = s.glaze ∧ t.easel = s.easel ∧
    t.hb = s.hb ∧ t.adm = s.adm ∧ t.mx = s.mx ∧ t.hbm = s.hbm := by simp [storeUe]
@[simp] theorem storeScrub_frame (s : State) (o : Nat) :
    let t := (storeScrub s o); t.pending = s.pending ∧ t.timebase = s.timebase ∧ t.freeCtr = s.freeCtr ∧ t.balls =
    s.balls ∧ t.fuses = s.fuses ∧ t.glob = s.glob ∧ t.latch = s.latch ∧ t.mem = s.mem ∧ t.hostMem = s.hostMem ∧
    t.vents = s.vents ∧ t.cals = s.cals ∧ t.power = s.power ∧ t.ports = s.ports ∧ t.subs = s.subs ∧ t.mgmt = s.mgmt
    ∧ t.jtag = s.jtag ∧ t.sets = s.sets ∧ t.path = s.path ∧ t.qm = s.qm ∧ t.glaze = s.glaze ∧ t.easel = s.easel ∧
    t.hb = s.hb ∧ t.adm = s.adm ∧ t.mx = s.mx ∧ t.hbm = s.hbm := by
  unfold storeScrub
  (repeat' split) <;> simp
@[simp] theorem scrubVent_frame (s : State) (v a : Nat) :
    let t := (scrubVent s v a); t.pending = s.pending ∧ t.timebase = s.timebase ∧ t.freeCtr = s.freeCtr ∧ t.balls =
    s.balls ∧ t.fuses = s.fuses ∧ t.glob = s.glob ∧ t.latch = s.latch ∧ t.mem = s.mem ∧ t.hostMem = s.hostMem ∧
    t.cals = s.cals ∧ t.power = s.power ∧ t.ports = s.ports ∧ t.subs = s.subs ∧ t.mgmt = s.mgmt ∧ t.jtag = s.jtag ∧
    t.store = s.store ∧ t.sets = s.sets ∧ t.path = s.path ∧ t.qm = s.qm ∧ t.glaze = s.glaze ∧ t.easel = s.easel ∧
    t.hb = s.hb ∧ t.adm = s.adm ∧ t.mx = s.mx ∧ t.hbm = s.hbm := by simp [scrubVent]
@[simp] theorem markBad_frame (s : State) (a : Nat) :
    let t := (markBad s a); t.pending = s.pending ∧ t.timebase = s.timebase ∧ t.freeCtr = s.freeCtr ∧ t.balls =
    s.balls ∧ t.fuses = s.fuses ∧ t.glob = s.glob ∧ t.latch = s.latch ∧ t.mem = s.mem ∧ t.hostMem = s.hostMem ∧
    t.vents = s.vents ∧ t.cals = s.cals ∧ t.power = s.power ∧ t.ports = s.ports ∧ t.subs = s.subs ∧ t.mgmt = s.mgmt
    ∧ t.jtag = s.jtag ∧ t.store = s.store ∧ t.sets = s.sets ∧ t.path = s.path ∧ t.qm = s.qm ∧ t.glaze = s.glaze ∧
    t.easel = s.easel ∧ t.hb = s.hb ∧ t.adm = s.adm ∧ t.mx = s.mx := by simp [markBad]
@[simp] theorem markReg_frame (s : State) (v x : Nat) :
    let t := (markReg s v x); t.pending = s.pending ∧ t.timebase = s.timebase ∧ t.freeCtr = s.freeCtr ∧ t.balls =
    s.balls ∧ t.fuses = s.fuses ∧ t.glob = s.glob ∧ t.latch = s.latch ∧ t.mem = s.mem ∧ t.hostMem = s.hostMem ∧
    t.cals = s.cals ∧ t.power = s.power ∧ t.ports = s.ports ∧ t.subs = s.subs ∧ t.mgmt = s.mgmt ∧ t.jtag = s.jtag ∧
    t.store = s.store ∧ t.sets = s.sets ∧ t.path = s.path ∧ t.qm = s.qm ∧ t.glaze = s.glaze ∧ t.easel = s.easel ∧
    t.hb = s.hb ∧ t.adm = s.adm ∧ t.mx = s.mx ∧ t.hbm = s.hbm := by simp [markReg]
@[simp] theorem patrolScrub_frame (s : State) (a : Nat) (f : ScrubFound) :
    let t := (patrolScrub s a f); t.pending = s.pending ∧ t.timebase = s.timebase ∧ t.freeCtr = s.freeCtr ∧ t.balls
    = s.balls ∧ t.fuses = s.fuses ∧ t.glob = s.glob ∧ t.latch = s.latch ∧ t.mem = s.mem ∧ t.hostMem = s.hostMem ∧
    t.cals = s.cals ∧ t.power = s.power ∧ t.ports = s.ports ∧ t.subs = s.subs ∧ t.mgmt = s.mgmt ∧ t.jtag = s.jtag ∧
    t.sets = s.sets ∧ t.path = s.path ∧ t.glaze = s.glaze ∧ t.easel = s.easel ∧ t.hb = s.hb ∧ t.adm = s.adm ∧ t.mx =
    s.mx := by
  unfold patrolScrub
  (repeat' split) <;> simp

/-! ### Machine/KeyWork.lean -/

@[simp] theorem sealSlot_frame (s : State) (c k klen : Nat) (x : List Byte) :
    let t := (sealSlot s c k klen x); t.pending = s.pending ∧ t.timebase = s.timebase ∧ t.freeCtr = s.freeCtr ∧
    t.balls = s.balls ∧ t.fuses = s.fuses ∧ t.glob = s.glob ∧ t.latch = s.latch ∧ t.mem = s.mem ∧ t.hostMem =
    s.hostMem ∧ t.vents = s.vents ∧ t.cals = s.cals ∧ t.power = s.power ∧ t.ports = s.ports ∧ t.subs = s.subs ∧
    t.mgmt = s.mgmt ∧ t.jtag = s.jtag ∧ t.sets = s.sets ∧ t.path = s.path ∧ t.qm = s.qm ∧ t.glaze = s.glaze ∧
    t.easel = s.easel ∧ t.hb = s.hb ∧ t.adm = s.adm ∧ t.mx = s.mx ∧ t.hbm = s.hbm := by simp [sealSlot]
@[simp] theorem workGen_frame (s : State) (id c k : Nat) (raddr : DWord) :
    let t := (workGen s id c k raddr); t.pending = s.pending ∧ t.timebase = s.timebase ∧ t.balls = s.balls ∧ t.fuses
    = s.fuses ∧ t.glob = s.glob ∧ t.latch = s.latch ∧ t.mem = s.mem ∧ t.vents = s.vents ∧ t.cals = s.cals ∧ t.power
    = s.power ∧ t.ports = s.ports ∧ t.subs = s.subs ∧ t.mgmt = s.mgmt ∧ t.jtag = s.jtag ∧ t.sets = s.sets ∧ t.path =
    s.path ∧ t.qm = s.qm ∧ t.glaze = s.glaze ∧ t.easel = s.easel ∧ t.mx = s.mx ∧ t.hbm = s.hbm := by simp [workGen]
@[simp] theorem workDecaps_frame (s : State) (id c k q : Nat) (ct cs info : List Byte) (ld : SlotMeta × Nat × Word × DWord) :
    let t := (workDecaps s id c k q ct cs info ld); t.pending = s.pending ∧ t.timebase = s.timebase ∧ t.balls =
    s.balls ∧ t.fuses = s.fuses ∧ t.glob = s.glob ∧ t.latch = s.latch ∧ t.mem = s.mem ∧ t.vents = s.vents ∧ t.cals =
    s.cals ∧ t.power = s.power ∧ t.ports = s.ports ∧ t.subs = s.subs ∧ t.mgmt = s.mgmt ∧ t.jtag = s.jtag ∧ t.sets =
    s.sets ∧ t.path = s.path ∧ t.qm = s.qm ∧ t.glaze = s.glaze ∧ t.easel = s.easel ∧ t.mx = s.mx ∧ t.hbm = s.hbm := by simp [workDecaps]
@[simp] theorem workXgen_frame (s : State) (id c k : Nat) (raddr : DWord) :
    let t := (workXgen s id c k raddr); t.pending = s.pending ∧ t.timebase = s.timebase ∧ t.balls = s.balls ∧
    t.fuses = s.fuses ∧ t.glob = s.glob ∧ t.latch = s.latch ∧ t.mem = s.mem ∧ t.vents = s.vents ∧ t.cals = s.cals ∧
    t.power = s.power ∧ t.ports = s.ports ∧ t.subs = s.subs ∧ t.mgmt = s.mgmt ∧ t.jtag = s.jtag ∧ t.sets = s.sets ∧
    t.path = s.path ∧ t.qm = s.qm ∧ t.glaze = s.glaze ∧ t.easel = s.easel ∧ t.mx = s.mx ∧ t.hbm = s.hbm := by simp [workXgen]
@[simp] theorem workAgree_frame (s : State) (id c k q : Nat) (toSlot : Bool) (peer : List Byte) (raddr : DWord) :
    let t := (workAgree s id c k q toSlot peer raddr); t.pending = s.pending ∧ t.timebase = s.timebase ∧ t.freeCtr =
    s.freeCtr ∧ t.balls = s.balls ∧ t.fuses = s.fuses ∧ t.glob = s.glob ∧ t.latch = s.latch ∧ t.mem = s.mem ∧
    t.vents = s.vents ∧ t.cals = s.cals ∧ t.power = s.power ∧ t.ports = s.ports ∧ t.subs = s.subs ∧ t.mgmt = s.mgmt
    ∧ t.jtag = s.jtag ∧ t.sets = s.sets ∧ t.path = s.path ∧ t.qm = s.qm ∧ t.glaze = s.glaze ∧ t.easel = s.easel ∧
    t.mx = s.mx ∧ t.hbm = s.hbm := by simp [workAgree]
@[simp] theorem workAttest_frame (s : State) (id : Nat) (nonce : List Byte) (raddr : DWord) :
    let t := (workAttest s id nonce raddr); t.pending = s.pending ∧ t.timebase = s.timebase ∧ t.balls = s.balls ∧
    t.fuses = s.fuses ∧ t.glob = s.glob ∧ t.latch = s.latch ∧ t.mem = s.mem ∧ t.vents = s.vents ∧ t.cals = s.cals ∧
    t.power = s.power ∧ t.ports = s.ports ∧ t.subs = s.subs ∧ t.mgmt = s.mgmt ∧ t.jtag = s.jtag ∧ t.store = s.store
    ∧ t.sets = s.sets ∧ t.path = s.path ∧ t.qm = s.qm ∧ t.glaze = s.glaze ∧ t.easel = s.easel ∧ t.mx = s.mx ∧ t.hbm
    = s.hbm := by simp [workAttest]
@[simp] theorem doWork_frame (s : State) (id : Nat) (n0 : KeyWork) :
    let t := (doWork s id n0); t.pending = s.pending ∧ t.timebase = s.timebase ∧ t.balls = s.balls ∧ t.fuses =
    s.fuses ∧ t.glob = s.glob ∧ t.latch = s.latch ∧ t.mem = s.mem ∧ t.vents = s.vents ∧ t.cals = s.cals ∧ t.power =
    s.power ∧ t.ports = s.ports ∧ t.subs = s.subs ∧ t.mgmt = s.mgmt ∧ t.jtag = s.jtag ∧ t.sets = s.sets ∧ t.path =
    s.path ∧ t.qm = s.qm ∧ t.glaze = s.glaze ∧ t.easel = s.easel ∧ t.mx = s.mx ∧ t.hbm = s.hbm := by
  unfold doWork
  split <;> simp
@[simp] theorem runWork_frame (s : State) :
    let t := (runWork s); t.pending = s.pending ∧ t.timebase = s.timebase ∧ t.balls = s.balls ∧ t.fuses = s.fuses ∧
    t.glob = s.glob ∧ t.latch = s.latch ∧ t.mem = s.mem ∧ t.vents = s.vents ∧ t.cals = s.cals ∧ t.power = s.power ∧
    t.ports = s.ports ∧ t.subs = s.subs ∧ t.mgmt = s.mgmt ∧ t.jtag = s.jtag ∧ t.sets = s.sets ∧ t.path = s.path ∧
    t.qm = s.qm ∧ t.glaze = s.glaze ∧ t.easel = s.easel ∧ t.mx = s.mx ∧ t.hbm = s.hbm := by
  unfold runWork
  split <;> simp
@[simp] theorem fwNext_frame (s : State) :
    let t := (fwNext s); t.pending = s.pending ∧ t.timebase = s.timebase ∧ t.freeCtr = s.freeCtr ∧ t.balls = s.balls
    ∧ t.fuses = s.fuses ∧ t.glob = s.glob ∧ t.latch = s.latch ∧ t.mem = s.mem ∧ t.hostMem = s.hostMem ∧ t.vents =
    s.vents ∧ t.cals = s.cals ∧ t.power = s.power ∧ t.ports = s.ports ∧ t.subs = s.subs ∧ t.mgmt = s.mgmt ∧ t.jtag =
    s.jtag ∧ t.store = s.store ∧ t.sets = s.sets ∧ t.path = s.path ∧ t.qm = s.qm ∧ t.glaze = s.glaze ∧ t.hb = s.hb ∧
    t.adm = s.adm ∧ t.mx = s.mx ∧ t.hbm = s.hbm := by
  unfold fwNext
  (repeat' split) <;> simp

@[simp] theorem sealEnd_frame (s : State) :
    let t := (sealEnd s); t.pending = s.pending ∧ t.timebase = s.timebase ∧ t.freeCtr = s.freeCtr ∧ t.balls =
    s.balls ∧ t.fuses = s.fuses ∧ t.glob = s.glob ∧ t.latch = s.latch ∧ t.hostMem = s.hostMem ∧ t.power = s.power ∧
    t.ports = s.ports ∧ t.subs = s.subs ∧ t.mgmt = s.mgmt ∧ t.jtag = s.jtag ∧ t.sets = s.sets ∧ t.path = s.path ∧
    t.qm = s.qm ∧ t.glaze = s.glaze ∧ t.hb = s.hb ∧ t.adm = s.adm := by
  unfold sealEnd
  (repeat' (first | split | dsimp only)) <;> simp
@[simp] theorem queueWork_frame (s : State) (id : Nat) (w : KeyWork) :
    let t := (queueWork s id w); t.pending = s.pending ∧ t.timebase = s.timebase ∧ t.balls = s.balls ∧ t.fuses =
    s.fuses ∧ t.glob = s.glob ∧ t.latch = s.latch ∧ t.power = s.power ∧ t.ports = s.ports ∧ t.subs = s.subs ∧ t.mgmt
    = s.mgmt ∧ t.jtag = s.jtag ∧ t.sets = s.sets ∧ t.path = s.path ∧ t.qm = s.qm ∧ t.glaze = s.glaze := by simp
    [queueWork]
/-! ### Machine/AdmSets.lean -/

@[simp] theorem putSketchBlk_frame (s : State) (c b : Nat) :
    let t := (putSketchBlk s c b); t.pending = s.pending ∧ t.timebase = s.timebase ∧ t.freeCtr = s.freeCtr ∧ t.balls
    = s.balls ∧ t.fuses = s.fuses ∧ t.glob = s.glob ∧ t.latch = s.latch ∧ t.mem = s.mem ∧ t.hostMem = s.hostMem ∧
    t.vents = s.vents ∧ t.cals = s.cals ∧ t.power = s.power ∧ t.ports = s.ports ∧ t.subs = s.subs ∧ t.mgmt = s.mgmt
    ∧ t.jtag = s.jtag ∧ t.sets = s.sets ∧ t.path = s.path ∧ t.qm = s.qm ∧ t.glaze = s.glaze ∧ t.easel = s.easel ∧
    t.hb = s.hb ∧ t.adm = s.adm ∧ t.mx = s.mx ∧ t.hbm = s.hbm := by simp [putSketchBlk]
@[simp] theorem flipDone_frame (s : State) :
    let t := (flipDone s); t.pending = s.pending ∧ t.timebase = s.timebase ∧ t.balls = s.balls ∧ t.fuses = s.fuses ∧
    t.glob = s.glob ∧ t.latch = s.latch ∧ t.mem = s.mem ∧ t.hostMem = s.hostMem ∧ t.vents = s.vents ∧ t.cals =
    s.cals ∧ t.power = s.power ∧ t.ports = s.ports ∧ t.subs = s.subs ∧ t.mgmt = s.mgmt ∧ t.jtag = s.jtag ∧ t.store =
    s.store ∧ t.path = s.path ∧ t.qm = s.qm ∧ t.easel = s.easel ∧ t.hb = s.hb ∧ t.mx = s.mx ∧ t.hbm = s.hbm := by simp [flipDone]
@[simp] theorem copySets_frame (s : State) :
    let t := (copySets s); t.pending = s.pending ∧ t.timebase = s.timebase ∧ t.freeCtr = s.freeCtr ∧ t.balls =
    s.balls ∧ t.fuses = s.fuses ∧ t.glob = s.glob ∧ t.latch = s.latch ∧ t.mem = s.mem ∧ t.hostMem = s.hostMem ∧
    t.vents = s.vents ∧ t.cals = s.cals ∧ t.power = s.power ∧ t.ports = s.ports ∧ t.subs = s.subs ∧ t.mgmt = s.mgmt
    ∧ t.jtag = s.jtag ∧ t.path = s.path ∧ t.qm = s.qm ∧ t.glaze = s.glaze ∧ t.easel = s.easel ∧ t.hb = s.hb ∧ t.adm
    = s.adm ∧ t.mx = s.mx ∧ t.hbm = s.hbm := by simp [copySets]

/-! ### Machine/AdmKeys.lean -/

@[simp] theorem loadReserve_frame (s : State) (c k : Nat) :
    let t := (loadReserve s c k); t.pending = s.pending ∧ t.timebase = s.timebase ∧ t.balls = s.balls ∧ t.fuses =
    s.fuses ∧ t.glob = s.glob ∧ t.latch = s.latch ∧ t.mem = s.mem ∧ t.hostMem = s.hostMem ∧ t.vents = s.vents ∧
    t.cals = s.cals ∧ t.power = s.power ∧ t.ports = s.ports ∧ t.subs = s.subs ∧ t.mgmt = s.mgmt ∧ t.jtag = s.jtag ∧
    t.sets = s.sets ∧ t.path = s.path ∧ t.qm = s.qm ∧ t.glaze = s.glaze ∧ t.easel = s.easel ∧ t.hb = s.hb ∧ t.adm =
    s.adm ∧ t.mx = s.mx ∧ t.hbm = s.hbm := by simp [loadReserve]

/-! ### Machine/Easel.lean -/

@[simp] theorem startMig_frame (s : State) (j b v w : Nat) :
    let t := (startMig s j b v w); t.pending = s.pending ∧ t.timebase = s.timebase ∧ t.freeCtr = s.freeCtr ∧ t.balls
    = s.balls ∧ t.fuses = s.fuses ∧ t.glob = s.glob ∧ t.latch = s.latch ∧ t.mem = s.mem ∧ t.hostMem = s.hostMem ∧
    t.cals = s.cals ∧ t.power = s.power ∧ t.ports = s.ports ∧ t.subs = s.subs ∧ t.mgmt = s.mgmt ∧ t.jtag = s.jtag ∧
    t.store = s.store ∧ t.sets = s.sets ∧ t.path = s.path ∧ t.qm = s.qm ∧ t.glaze = s.glaze ∧ t.hb = s.hb ∧ t.adm =
    s.adm ∧ t.mx = s.mx ∧ t.hbm = s.hbm := by simp [startMig]
@[simp] theorem runTodo_frame (s : State) (n0 : List (Nat × Nat × Nat × Nat)) :
    let t := (runTodo s n0); t.pending = s.pending ∧ t.timebase = s.timebase ∧ t.freeCtr = s.freeCtr ∧ t.balls =
    s.balls ∧ t.fuses = s.fuses ∧ t.glob = s.glob ∧ t.latch = s.latch ∧ t.mem = s.mem ∧ t.hostMem = s.hostMem ∧
    t.cals = s.cals ∧ t.power = s.power ∧ t.ports = s.ports ∧ t.subs = s.subs ∧ t.mgmt = s.mgmt ∧ t.jtag = s.jtag ∧
    t.store = s.store ∧ t.sets = s.sets ∧ t.path = s.path ∧ t.qm = s.qm ∧ t.glaze = s.glaze ∧ t.hb = s.hb ∧ t.adm =
    s.adm ∧ t.mx = s.mx ∧ t.hbm = s.hbm := by
  induction n0 generalizing s with
  | nil => simp [runTodo]
  | cons x r ih => unfold runTodo; (repeat' (first | (split <;> try (rename_i h; first | (have e := pair_third h; clear h; subst e) | (have e := pair_snd h; have e2 := pair_fst h; clear h; subst e; try subst e2) | (have e := pair_fst h; clear h; subst e))) | (dsimp only; split))) <;> simp [ih]
@[simp] theorem putBank_frame (s : State) (j : Nat) (es : FMap Steer) :
    let t := (putBank s j es); t.pending = s.pending ∧ t.timebase = s.timebase ∧ t.freeCtr = s.freeCtr ∧ t.balls =
    s.balls ∧ t.fuses = s.fuses ∧ t.glob = s.glob ∧ t.latch = s.latch ∧ t.mem = s.mem ∧ t.hostMem = s.hostMem ∧
    t.vents = s.vents ∧ t.cals = s.cals ∧ t.power = s.power ∧ t.ports = s.ports ∧ t.subs = s.subs ∧ t.mgmt = s.mgmt
    ∧ t.jtag = s.jtag ∧ t.store = s.store ∧ t.sets = s.sets ∧ t.path = s.path ∧ t.qm = s.qm ∧ t.glaze = s.glaze ∧
    t.hb = s.hb ∧ t.adm = s.adm ∧ t.mx = s.mx ∧ t.hbm = s.hbm := by simp [putBank]
@[simp] theorem fillBank_frame (s : State) (j : Nat) (vs : List Nat) :
    let t := (fillBank s j vs); t.pending = s.pending ∧ t.timebase = s.timebase ∧ t.balls = s.balls ∧ t.fuses =
    s.fuses ∧ t.glob = s.glob ∧ t.latch = s.latch ∧ t.mem = s.mem ∧ t.hostMem = s.hostMem ∧ t.vents = s.vents ∧
    t.cals = s.cals ∧ t.power = s.power ∧ t.ports = s.ports ∧ t.subs = s.subs ∧ t.mgmt = s.mgmt ∧ t.jtag = s.jtag ∧
    t.store = s.store ∧ t.sets = s.sets ∧ t.path = s.path ∧ t.qm = s.qm ∧ t.glaze = s.glaze ∧ t.hb = s.hb ∧ t.adm =
    s.adm ∧ t.mx = s.mx ∧ t.hbm = s.hbm := by simp [fillBank]
@[simp] theorem constrainStep_frame (s : State) :
    let t := (constrainStep s); t.pending = s.pending ∧ t.timebase = s.timebase ∧ t.balls = s.balls ∧ t.fuses =
    s.fuses ∧ t.glob = s.glob ∧ t.latch = s.latch ∧ t.mem = s.mem ∧ t.hostMem = s.hostMem ∧ t.vents = s.vents ∧
    t.cals = s.cals ∧ t.power = s.power ∧ t.ports = s.ports ∧ t.subs = s.subs ∧ t.mgmt = s.mgmt ∧ t.jtag = s.jtag ∧
    t.store = s.store ∧ t.sets = s.sets ∧ t.path = s.path ∧ t.qm = s.qm ∧ t.glaze = s.glaze ∧ t.hb = s.hb ∧ t.mx =
    s.mx ∧ t.hbm = s.hbm := by
  unfold constrainStep
  (repeat' split) <;> simp
@[simp] theorem throttleCal_frame (s : State) (c : Nat) :
    let t := (throttleCal s c); t.pending = s.pending ∧ t.timebase = s.timebase ∧ t.freeCtr = s.freeCtr ∧ t.balls =
    s.balls ∧ t.fuses = s.fuses ∧ t.glob = s.glob ∧ t.latch = s.latch ∧ t.mem = s.mem ∧ t.ports = s.ports ∧ t.subs =
    s.subs ∧ t.mgmt = s.mgmt ∧ t.jtag = s.jtag ∧ t.store = s.store ∧ t.sets = s.sets ∧ t.path = s.path ∧ t.qm = s.qm
    ∧ t.glaze = s.glaze ∧ t.easel = s.easel ∧ t.adm = s.adm ∧ t.mx = s.mx ∧ t.hbm = s.hbm := by simp [throttleCal]
@[simp] theorem planItem_frame (s : State) (n0 : PlanItem) :
    let t := (planItem s n0); t.pending = s.pending ∧ t.timebase = s.timebase ∧ t.balls = s.balls ∧ t.fuses =
    s.fuses ∧ t.glob = s.glob ∧ t.latch = s.latch ∧ t.hostMem = s.hostMem ∧ t.vents = s.vents ∧ t.power = s.power ∧
    t.ports = s.ports ∧ t.subs = s.subs ∧ t.mgmt = s.mgmt ∧ t.jtag = s.jtag ∧ t.sets = s.sets ∧ t.path = s.path ∧
    t.glaze = s.glaze ∧ t.hb = s.hb ∧ t.adm = s.adm ∧ t.mx = s.mx := by
  unfold planItem
  split <;> simp
@[simp] theorem copyBytes_frame (s : State) (a b n : Nat) :
    let t := (copyBytes s a b n); t.pending = s.pending ∧ t.timebase = s.timebase ∧ t.balls = s.balls ∧ t.fuses =
    s.fuses ∧ t.subs = s.subs ∧ t.jtag = s.jtag ∧ t.sets = s.sets := by simp [copyBytes]
@[simp] theorem copySlot_frame (s : State) (m : Migration) :
    let t := (copySlot s m); t.pending = s.pending ∧ t.timebase = s.timebase ∧ t.balls = s.balls ∧ t.fuses = s.fuses
    ∧ t.subs = s.subs ∧ t.jtag = s.jtag ∧ t.sets = s.sets := by
  unfold copySlot
  (repeat' (first | (split <;> try (rename_i h; first | (have e := pair_third h; clear h; subst e) | (have e := pair_snd h; have e2 := pair_fst h; clear h; subst e; try subst e2) | (have e := pair_fst h; clear h; subst e))) | (dsimp only; split))) <;> simp
@[simp] theorem resumePlan_frame (s : State) :
    let t := (resumePlan s); t.pending = s.pending ∧ t.timebase = s.timebase ∧ t.freeCtr = s.freeCtr ∧ t.balls =
    s.balls ∧ t.fuses = s.fuses ∧ t.glob = s.glob ∧ t.latch = s.latch ∧ t.mem = s.mem ∧ t.hostMem = s.hostMem ∧
    t.cals = s.cals ∧ t.power = s.power ∧ t.ports = s.ports ∧ t.subs = s.subs ∧ t.mgmt = s.mgmt ∧ t.jtag = s.jtag ∧
    t.store = s.store ∧ t.sets = s.sets ∧ t.path = s.path ∧ t.qm = s.qm ∧ t.glaze = s.glaze ∧ t.hb = s.hb ∧ t.adm =
    s.adm ∧ t.mx = s.mx ∧ t.hbm = s.hbm := by simp [resumePlan]
@[simp] theorem migEnd_frame (s : State) (m : Migration) :
    let t := (migEnd s m); t.pending = s.pending ∧ t.timebase = s.timebase ∧ t.balls = s.balls ∧ t.fuses = s.fuses ∧
    t.subs = s.subs ∧ t.jtag = s.jtag ∧ t.sets = s.sets := by simp [migEnd]

/-! ### Machine/Firmware.lean -/

@[simp] theorem bdApply1_frame (s : State) (r : Nat × List Byte) :
    let t := (bdApply1 s r); t.pending = s.pending ∧ t.timebase = s.timebase ∧ t.freeCtr = s.freeCtr ∧ t.balls =
    s.balls ∧ t.fuses = s.fuses ∧ t.glob = s.glob ∧ t.latch = s.latch ∧ t.mem = s.mem ∧ t.vents = s.vents ∧ t.subs =
    s.subs ∧ t.jtag = s.jtag ∧ t.store = s.store ∧ t.sets = s.sets ∧ t.path = s.path ∧ t.qm = s.qm ∧ t.glaze =
    s.glaze ∧ t.easel = s.easel ∧ t.adm = s.adm ∧ t.mx = s.mx ∧ t.hbm = s.hbm := by
  unfold bdApply1
  split <;> simp
@[simp] theorem startStageB_frame (s : State) (rs : List (Nat × List Byte)) (i : Image) :
    let t := (startStageB s rs i); t.pending = s.pending ∧ t.timebase = s.timebase ∧ t.freeCtr = s.freeCtr ∧ t.balls
    = s.balls ∧ t.fuses = s.fuses ∧ t.latch = s.latch ∧ t.mem = s.mem ∧ t.vents = s.vents ∧ t.subs = s.subs ∧ t.jtag
    = s.jtag ∧ t.store = s.store ∧ t.sets = s.sets ∧ t.path = s.path ∧ t.qm = s.qm ∧ t.glaze = s.glaze ∧ t.easel =
    s.easel ∧ t.adm = s.adm ∧ t.mx = s.mx ∧ t.hbm = s.hbm := by simp [startStageB]
@[simp] theorem primedState_frame (s : State) :
    let t := (primedState s); t.pending = s.pending ∧ t.timebase = s.timebase ∧ t.freeCtr = s.freeCtr ∧ t.balls =
    s.balls ∧ t.fuses = s.fuses ∧ t.glob = s.glob ∧ t.latch = s.latch ∧ t.hostMem = s.hostMem ∧ t.vents = s.vents ∧
    t.power = s.power ∧ t.ports = s.ports ∧ t.subs = s.subs ∧ t.mgmt = s.mgmt ∧ t.jtag = s.jtag
    ∧ t.sets = s.sets ∧ t.path = s.path ∧ t.qm = s.qm ∧ t.glaze = s.glaze ∧ t.easel = s.easel ∧ t.hb = s.hb ∧ t.adm
    = s.adm ∧ t.mx = s.mx := by simp [primedState]
@[simp] theorem startMv_frame (s : State) :
    let t := (startMv s); t.pending = s.pending ∧ t.timebase = s.timebase ∧ t.freeCtr = s.freeCtr ∧ t.balls =
    s.balls ∧ t.fuses = s.fuses ∧ t.glob = s.glob ∧ t.latch = s.latch ∧ t.mem = s.mem ∧ t.hostMem = s.hostMem ∧
    t.cals = s.cals ∧ t.power = s.power ∧ t.ports = s.ports ∧ t.subs = s.subs ∧ t.mgmt = s.mgmt ∧ t.jtag = s.jtag ∧
    t.store = s.store ∧ t.sets = s.sets ∧ t.path = s.path ∧ t.qm = s.qm ∧ t.glaze = s.glaze ∧ t.easel = s.easel ∧
    t.hb = s.hb ∧ t.adm = s.adm ∧ t.mx = s.mx ∧ t.hbm = s.hbm := by simp [startMv]

/-! ### Machine/RegCommands.lean -/

@[simp] theorem vfWordWrite_frame (s : State) (f o : Nat) (w : Word) :
    let t := (vfWordWrite s f o w); t.pending = s.pending ∧ t.timebase = s.timebase ∧ t.balls = s.balls ∧ t.fuses =
    s.fuses ∧ t.latch = s.latch ∧ t.mem = s.mem ∧ t.hostMem = s.hostMem ∧ t.vents = s.vents ∧ t.cals = s.cals ∧
    t.power = s.power ∧ t.ports = s.ports ∧ t.subs = s.subs ∧ t.mgmt = s.mgmt ∧ t.jtag = s.jtag ∧ t.store = s.store
    ∧ t.sets = s.sets ∧ t.path = s.path ∧ t.qm = s.qm ∧ t.glaze = s.glaze ∧ t.easel = s.easel ∧ t.mx = s.mx ∧ t.hbm
    = s.hbm := by
  unfold vfWordWrite
  (repeat' split) <;> simp
@[simp] theorem vfWordRead_frame (s : State) (f o : Nat) :
    let t := (vfWordRead s f o).2; t.pending = s.pending ∧ t.timebase = s.timebase ∧ t.freeCtr = s.freeCtr ∧ t.balls
    = s.balls ∧ t.fuses = s.fuses ∧ t.latch = s.latch ∧ t.mem = s.mem ∧ t.hostMem = s.hostMem ∧ t.vents = s.vents ∧
    t.cals = s.cals ∧ t.power = s.power ∧ t.ports = s.ports ∧ t.subs = s.subs ∧ t.mgmt = s.mgmt ∧ t.jtag = s.jtag ∧
    t.store = s.store ∧ t.sets = s.sets ∧ t.path = s.path ∧ t.qm = s.qm ∧ t.glaze = s.glaze ∧ t.easel = s.easel ∧
    t.hb = s.hb ∧ t.adm = s.adm ∧ t.mx = s.mx ∧ t.hbm = s.hbm := by
  unfold vfWordRead
  split <;> simp
@[simp] theorem pfWordWrite_frame (s : State) (o : Nat) (w : Word) :
    let t := (pfWordWrite s o w); t.pending = s.pending ∧ t.timebase = s.timebase ∧ t.balls = s.balls ∧ t.fuses =
    s.fuses ∧ t.mem = s.mem ∧ t.subs = s.subs ∧ t.jtag = s.jtag ∧ t.sets = s.sets := by
  unfold pfWordWrite
  split <;> simp
@[simp] theorem pfWordRead_frame (s : State) (o : Nat) :
    let t := (pfWordRead s o).2; t.pending = s.pending ∧ t.timebase = s.timebase ∧ t.balls = s.balls ∧ t.fuses =
    s.fuses ∧ t.mem = s.mem ∧ t.hostMem = s.hostMem ∧ t.vents = s.vents ∧ t.cals = s.cals ∧ t.power = s.power ∧
    t.ports = s.ports ∧ t.subs = s.subs ∧ t.mgmt = s.mgmt ∧ t.jtag = s.jtag ∧ t.store = s.store ∧ t.sets = s.sets ∧
    t.path = s.path ∧ t.qm = s.qm ∧ t.glaze = s.glaze ∧ t.easel = s.easel ∧ t.adm = s.adm ∧ t.mx = s.mx ∧ t.hbm =
    s.hbm := by
  unfold pfWordRead
  split <;> simp
@[simp] theorem barWordWrite_frame (f : Nat) (s : State) (o : Nat) (w : Word) :
    let t := (barWordWrite f s o w); t.pending = s.pending ∧ t.timebase = s.timebase ∧ t.balls = s.balls ∧ t.fuses =
    s.fuses ∧ t.mem = s.mem ∧ t.subs = s.subs ∧ t.jtag = s.jtag ∧ t.sets = s.sets := by simp [barWordWrite]
@[simp] theorem barWordRead_frame (f : Nat) (s : State) (o : Nat) :
    let t := (barWordRead f s o).2; t.pending = s.pending ∧ t.timebase = s.timebase ∧ t.balls = s.balls ∧ t.fuses =
    s.fuses ∧ t.mem = s.mem ∧ t.hostMem = s.hostMem ∧ t.vents = s.vents ∧ t.cals = s.cals ∧ t.power = s.power ∧
    t.ports = s.ports ∧ t.subs = s.subs ∧ t.mgmt = s.mgmt ∧ t.jtag = s.jtag ∧ t.store = s.store ∧ t.sets = s.sets ∧
    t.path = s.path ∧ t.qm = s.qm ∧ t.glaze = s.glaze ∧ t.easel = s.easel ∧ t.adm = s.adm ∧ t.mx = s.mx ∧ t.hbm =
    s.hbm := by simp [barWordRead]
@[simp] theorem barNarrow_frame (s : State) (f o : Nat) (n : Nat) :
    let t := (barNarrow s f o n); t.pending = s.pending ∧ t.timebase = s.timebase ∧ t.freeCtr = s.freeCtr ∧ t.balls
    = s.balls ∧ t.fuses = s.fuses ∧ t.latch = s.latch ∧ t.mem = s.mem ∧ t.hostMem = s.hostMem ∧ t.vents = s.vents ∧
    t.cals = s.cals ∧ t.power = s.power ∧ t.ports = s.ports ∧ t.subs = s.subs ∧ t.mgmt = s.mgmt ∧ t.jtag = s.jtag ∧
    t.store = s.store ∧ t.sets = s.sets ∧ t.path = s.path ∧ t.qm = s.qm ∧ t.glaze = s.glaze ∧ t.easel = s.easel ∧
    t.hb = s.hb ∧ t.adm = s.adm ∧ t.mx = s.mx ∧ t.hbm = s.hbm := by simp [barNarrow]
@[simp] theorem barWrite_frame (s : State) (f o : Nat) (bytes : List Byte) :
    let t := (barWrite s f o bytes); t.pending = s.pending ∧ t.timebase = s.timebase ∧ t.balls = s.balls ∧ t.fuses =
    s.fuses ∧ t.mem = s.mem ∧ t.subs = s.subs ∧ t.jtag = s.jtag ∧ t.sets = s.sets := by simp [barWrite]
@[simp] theorem barReadWords_frame (f : Nat) (n0 : Nat) (n1 : Nat) (s : State) :
    let t := (barReadWords f n0 n1 s).2; t.pending = s.pending ∧ t.timebase = s.timebase ∧ t.balls = s.balls ∧
    t.fuses = s.fuses ∧ t.mem = s.mem ∧ t.hostMem = s.hostMem ∧ t.vents = s.vents ∧ t.cals = s.cals ∧ t.power =
    s.power ∧ t.ports = s.ports ∧ t.subs = s.subs ∧ t.mgmt = s.mgmt ∧ t.jtag = s.jtag ∧ t.store = s.store ∧ t.sets =
    s.sets ∧ t.path = s.path ∧ t.qm = s.qm ∧ t.glaze = s.glaze ∧ t.easel = s.easel ∧ t.adm = s.adm ∧ t.mx = s.mx ∧
    t.hbm = s.hbm := by
  induction n0 generalizing n1 s with
  | zero => simp [barReadWords]
  | succ n ih => unfold barReadWords; (repeat' (first | (split <;> try (rename_i h; first | (have e := pair_third h; clear h; subst e) | (have e := pair_snd h; have e2 := pair_fst h; clear h; subst e; try subst e2) | (have e := pair_fst h; clear h; subst e))) | (dsimp only; split))) <;> simp [ih]
@[simp] theorem barRead_frame (s : State) (f o n : Nat) :
    let t := (barRead s f o n); t.pending = s.pending ∧ t.timebase = s.timebase ∧ t.balls = s.balls ∧ t.fuses =
    s.fuses ∧ t.mem = s.mem ∧ t.hostMem = s.hostMem ∧ t.vents = s.vents ∧ t.cals = s.cals ∧ t.power = s.power ∧
    t.ports = s.ports ∧ t.subs = s.subs ∧ t.mgmt = s.mgmt ∧ t.jtag = s.jtag ∧ t.store = s.store ∧ t.sets = s.sets ∧
    t.path = s.path ∧ t.qm = s.qm ∧ t.glaze = s.glaze ∧ t.easel = s.easel ∧ t.adm = s.adm ∧ t.mx = s.mx ∧ t.hbm =
    s.hbm := by simp [barRead]
@[simp] theorem dapAccess_frame (s : State) (addr : Nat) (acc : HostAccess) :
    let t := (dapAccess s addr acc); t.pending = s.pending ∧ t.timebase = s.timebase ∧ t.balls = s.balls ∧ t.fuses =
    s.fuses ∧ t.subs = s.subs ∧ t.sets = s.sets := by
  unfold dapAccess
  split
  · simp
  · cases acc <;> simp
@[simp] theorem registerAccess_frame (s : State) (m : Master) (addr : Nat) (acc : HostAccess) :
    let t := (registerAccess s m addr acc); t.pending = s.pending ∧ t.timebase = s.timebase ∧ t.balls = s.balls ∧
    t.fuses = s.fuses ∧ t.subs = s.subs ∧ t.sets = s.sets := by
  unfold registerAccess
  (repeat' split) <;> simp
@[simp] theorem regCmd_frame (s : State) (m : Master) (a : Nat) (w : Word) :
    let t := (regCmd s m a w); t.pending = s.pending ∧ t.timebase = s.timebase ∧ t.balls = s.balls ∧ t.fuses =
    s.fuses ∧ t.subs = s.subs ∧ t.jtag = s.jtag ∧ t.sets = s.sets := by
  unfold regCmd
  (repeat' (first | (split <;> try (rename_i h; first | (have e := pair_third h; clear h; subst e) | (have e := pair_snd h; have e2 := pair_fst h; clear h; subst e; try subst e2) | (have e := pair_fst h; clear h; subst e))) | (dsimp only; split))) <;> simp
@[simp] theorem ringCtlCmd_frame (s : State) (m : Master) (r : Nat) (w : Word) :
    let t := (ringCtlCmd s m r w); t.pending = s.pending ∧ t.timebase = s.timebase ∧ t.balls = s.balls ∧ t.fuses =
    s.fuses ∧ t.subs = s.subs ∧ t.jtag = s.jtag ∧ t.sets = s.sets := by
  unfold ringCtlCmd
  split <;> simp
@[simp] theorem calgateCmd_frame (s : State) (m : Master) (c : Nat) (g : Bool) :
    let t := (calgateCmd s m c g); t.pending = s.pending ∧ t.timebase = s.timebase ∧ t.balls = s.balls ∧ t.fuses =
    s.fuses ∧ t.subs = s.subs ∧ t.jtag = s.jtag ∧ t.sets = s.sets := by simp [calgateCmd]
@[simp] theorem ventCmd_frame (s : State) (m : Master) (v o : Nat) (w : Word) :
    let t := (ventCmd s m v o w); t.pending = s.pending ∧ t.timebase = s.timebase ∧ t.balls = s.balls ∧ t.fuses =
    s.fuses ∧ t.subs = s.subs ∧ t.jtag = s.jtag ∧ t.sets = s.sets := by simp [ventCmd]
/-! ### Machine/Lanes.lean -/

@[simp] theorem laneFault_frame (s : State) (p n : Nat) (short : Bool) :
    let t := (laneFault s p n short); t.pending = s.pending ∧ t.timebase = s.timebase ∧ t.freeCtr = s.freeCtr ∧
    t.balls = s.balls ∧ t.fuses = s.fuses ∧ t.glob = s.glob ∧ t.latch = s.latch ∧ t.mem = s.mem ∧ t.vents = s.vents
    ∧ t.cals = s.cals ∧ t.subs = s.subs ∧ t.mgmt = s.mgmt ∧ t.jtag = s.jtag ∧ t.store = s.store ∧ t.sets = s.sets ∧
    t.path = s.path ∧ t.qm = s.qm ∧ t.glaze = s.glaze ∧ t.easel = s.easel ∧ t.adm = s.adm ∧ t.mx = s.mx ∧ t.hbm =
    s.hbm := by simp [laneFault]
@[simp] theorem linkUp_frame (s : State) (src : Nat) (polinv : Byte) :
    let t := (linkUp s src polinv); t.pending = s.pending ∧ t.timebase = s.timebase ∧ t.freeCtr = s.freeCtr ∧
    t.balls = s.balls ∧ t.fuses = s.fuses ∧ t.glob = s.glob ∧ t.latch = s.latch ∧ t.mem = s.mem ∧ t.vents = s.vents
    ∧ t.cals = s.cals ∧ t.power = s.power ∧ t.subs = s.subs ∧ t.mgmt = s.mgmt ∧ t.jtag = s.jtag ∧ t.store = s.store
    ∧ t.sets = s.sets ∧ t.path = s.path ∧ t.qm = s.qm ∧ t.glaze = s.glaze ∧ t.easel = s.easel ∧ t.adm = s.adm ∧ t.mx
    = s.mx ∧ t.hbm = s.hbm := by
  unfold linkUp
  split <;> simp
@[simp] theorem mgmtEvent_frame (s : State) (n : Nat) (disabled : Bool) :
    let t := (mgmtEvent s n disabled); t.pending = s.pending ∧ t.timebase = s.timebase ∧ t.freeCtr = s.freeCtr ∧
    t.balls = s.balls ∧ t.fuses = s.fuses ∧ t.glob = s.glob ∧ t.latch = s.latch ∧ t.mem = s.mem ∧ t.vents = s.vents
    ∧ t.cals = s.cals ∧ t.ports = s.ports ∧ t.subs = s.subs ∧ t.mgmt = s.mgmt ∧ t.jtag = s.jtag ∧ t.store = s.store
    ∧ t.sets = s.sets ∧ t.path = s.path ∧ t.qm = s.qm ∧ t.glaze = s.glaze ∧ t.easel = s.easel ∧ t.adm = s.adm ∧ t.mx
    = s.mx ∧ t.hbm = s.hbm := by simp [mgmtEvent]
@[simp] theorem i2cDisable_frame (s : State) (n : Nat) :
    let t := (i2cDisable s n); t.pending = s.pending ∧ t.timebase = s.timebase ∧ t.freeCtr = s.freeCtr ∧ t.balls =
    s.balls ∧ t.fuses = s.fuses ∧ t.glob = s.glob ∧ t.latch = s.latch ∧ t.mem = s.mem ∧ t.vents = s.vents ∧ t.cals =
    s.cals ∧ t.ports = s.ports ∧ t.subs = s.subs ∧ t.jtag = s.jtag ∧ t.store = s.store ∧ t.sets = s.sets ∧ t.path =
    s.path ∧ t.qm = s.qm ∧ t.glaze = s.glaze ∧ t.easel = s.easel ∧ t.adm = s.adm ∧ t.mx = s.mx ∧ t.hbm = s.hbm := by simp [i2cDisable]
@[simp] theorem i2cCheck_frame (s : State) (n : Nat) (o : LineObs) :
    let t := (i2cCheck s n o); t.pending = s.pending ∧ t.timebase = s.timebase ∧ t.freeCtr = s.freeCtr ∧ t.balls =
    s.balls ∧ t.fuses = s.fuses ∧ t.glob = s.glob ∧ t.latch = s.latch ∧ t.mem = s.mem ∧ t.vents = s.vents ∧ t.cals =
    s.cals ∧ t.ports = s.ports ∧ t.subs = s.subs ∧ t.jtag = s.jtag ∧ t.store = s.store ∧ t.sets = s.sets ∧ t.path =
    s.path ∧ t.qm = s.qm ∧ t.glaze = s.glaze ∧ t.easel = s.easel ∧ t.adm = s.adm ∧ t.mx = s.mx ∧ t.hbm = s.hbm := by
  unfold i2cCheck
  (repeat' split) <;> simp
@[simp] theorem tapSelect_frame (s : State) (op : Byte) (r : TapReg) (dr : Word) :
    let t := (tapSelect s op r dr); t.pending = s.pending ∧ t.timebase = s.timebase ∧ t.freeCtr = s.freeCtr ∧
    t.balls = s.balls ∧ t.fuses = s.fuses ∧ t.glob = s.glob ∧ t.latch = s.latch ∧ t.mem = s.mem ∧ t.hostMem =
    s.hostMem ∧ t.vents = s.vents ∧ t.cals = s.cals ∧ t.power = s.power ∧ t.ports = s.ports ∧ t.subs = s.subs ∧
    t.mgmt = s.mgmt ∧ t.store = s.store ∧ t.sets = s.sets ∧ t.path = s.path ∧ t.qm = s.qm ∧ t.glaze = s.glaze ∧
    t.easel = s.easel ∧ t.hb = s.hb ∧ t.adm = s.adm ∧ t.mx = s.mx ∧ t.hbm = s.hbm := by simp [tapSelect]
@[simp] theorem tapCells_frame (s : State) (caught shifted : List Bool) :
    let t := (tapCells s caught shifted); t.pending = s.pending ∧ t.timebase = s.timebase ∧ t.freeCtr = s.freeCtr ∧
    t.balls = s.balls ∧ t.fuses = s.fuses ∧ t.glob = s.glob ∧ t.latch = s.latch ∧ t.mem = s.mem ∧ t.hostMem =
    s.hostMem ∧ t.vents = s.vents ∧ t.cals = s.cals ∧ t.power = s.power ∧ t.ports = s.ports ∧ t.subs = s.subs ∧
    t.mgmt = s.mgmt ∧ t.store = s.store ∧ t.sets = s.sets ∧ t.path = s.path ∧ t.qm = s.qm ∧ t.glaze = s.glaze ∧
    t.easel = s.easel ∧ t.hb = s.hb ∧ t.adm = s.adm ∧ t.mx = s.mx ∧ t.hbm = s.hbm := by simp [tapCells]
@[simp] theorem tapTake_frame (s : State) (op : Byte) (r : TapReg) :
    let t := (tapTake s op r); t.pending = s.pending ∧ t.timebase = s.timebase ∧ t.freeCtr = s.freeCtr ∧ t.balls =
    s.balls ∧ t.fuses = s.fuses ∧ t.glob = s.glob ∧ t.latch = s.latch ∧ t.mem = s.mem ∧ t.vents = s.vents ∧ t.cals =
    s.cals ∧ t.power = s.power ∧ t.subs = s.subs ∧ t.mgmt = s.mgmt ∧ t.store = s.store ∧ t.sets = s.sets ∧ t.path =
    s.path ∧ t.qm = s.qm ∧ t.glaze = s.glaze ∧ t.easel = s.easel ∧ t.adm = s.adm ∧ t.mx = s.mx ∧ t.hbm = s.hbm := by simp [tapTake]

/-! ### Machine/AdmInfo.lean -/

@[simp] theorem stageVerify_pending (s : State) (id a n : Nat) (more : Option Nat) (go : State → State)
    (hk : ∀ s, (go s).pending = s.pending) : (stageVerify s id a n more go).pending = s.pending := by
  unfold stageVerify
  (repeat' (first | (split <;> try (rename_i h; first | (have e := pair_third h; clear h; subst e) | (have e := pair_snd h; have e2 := pair_fst h; clear h; subst e; try subst e2) | (have e := pair_fst h; clear h; subst e))) | (dsimp only; split))) <;> simp [hk]
@[simp] theorem stageVerify_timebase (s : State) (id a n : Nat) (more : Option Nat) (go : State → State)
    (hk : ∀ s, (go s).timebase = s.timebase) : (stageVerify s id a n more go).timebase = s.timebase := by
  unfold stageVerify
  (repeat' (first | (split <;> try (rename_i h; first | (have e := pair_third h; clear h; subst e) | (have e := pair_snd h; have e2 := pair_fst h; clear h; subst e; try subst e2) | (have e := pair_fst h; clear h; subst e))) | (dsimp only; split))) <;> simp [hk]
@[simp] theorem stageVerify_balls (s : State) (id a n : Nat) (more : Option Nat) (go : State → State)
    (hk : ∀ s, (go s).balls = s.balls) : (stageVerify s id a n more go).balls = s.balls := by
  unfold stageVerify
  (repeat' (first | (split <;> try (rename_i h; first | (have e := pair_third h; clear h; subst e) | (have e := pair_snd h; have e2 := pair_fst h; clear h; subst e; try subst e2) | (have e := pair_fst h; clear h; subst e))) | (dsimp only; split))) <;> simp [hk]
@[simp] theorem stageVerify_fuses (s : State) (id a n : Nat) (more : Option Nat) (go : State → State)
    (hk : ∀ s, (go s).fuses = s.fuses) : (stageVerify s id a n more go).fuses = s.fuses := by
  unfold stageVerify
  (repeat' (first | (split <;> try (rename_i h; first | (have e := pair_third h; clear h; subst e) | (have e := pair_snd h; have e2 := pair_fst h; clear h; subst e; try subst e2) | (have e := pair_fst h; clear h; subst e))) | (dsimp only; split))) <;> simp [hk]
@[simp] theorem stageVerify_mem (s : State) (id a n : Nat) (more : Option Nat) (go : State → State)
    (hk : ∀ s, (go s).mem = s.mem) : (stageVerify s id a n more go).mem = s.mem := by
  unfold stageVerify
  (repeat' (first | (split <;> try (rename_i h; first | (have e := pair_third h; clear h; subst e) | (have e := pair_snd h; have e2 := pair_fst h; clear h; subst e; try subst e2) | (have e := pair_fst h; clear h; subst e))) | (dsimp only; split))) <;> simp [hk]
@[simp] theorem stageVerify_cals (s : State) (id a n : Nat) (more : Option Nat) (go : State → State)
    (hk : ∀ s, (go s).cals = s.cals) : (stageVerify s id a n more go).cals = s.cals := by
  unfold stageVerify
  (repeat' (first | (split <;> try (rename_i h; first | (have e := pair_third h; clear h; subst e) | (have e := pair_snd h; have e2 := pair_fst h; clear h; subst e; try subst e2) | (have e := pair_fst h; clear h; subst e))) | (dsimp only; split))) <;> simp [hk]
@[simp] theorem stageVerify_power (s : State) (id a n : Nat) (more : Option Nat) (go : State → State)
    (hk : ∀ s, (go s).power = s.power) : (stageVerify s id a n more go).power = s.power := by
  unfold stageVerify
  (repeat' (first | (split <;> try (rename_i h; first | (have e := pair_third h; clear h; subst e) | (have e := pair_snd h; have e2 := pair_fst h; clear h; subst e; try subst e2) | (have e := pair_fst h; clear h; subst e))) | (dsimp only; split))) <;> simp [hk]
@[simp] theorem stageVerify_ports (s : State) (id a n : Nat) (more : Option Nat) (go : State → State)
    (hk : ∀ s, (go s).ports = s.ports) : (stageVerify s id a n more go).ports = s.ports := by
  unfold stageVerify
  (repeat' (first | (split <;> try (rename_i h; first | (have e := pair_third h; clear h; subst e) | (have e := pair_snd h; have e2 := pair_fst h; clear h; subst e; try subst e2) | (have e := pair_fst h; clear h; subst e))) | (dsimp only; split))) <;> simp [hk]
@[simp] theorem stageVerify_subs (s : State) (id a n : Nat) (more : Option Nat) (go : State → State)
    (hk : ∀ s, (go s).subs = s.subs) : (stageVerify s id a n more go).subs = s.subs := by
  unfold stageVerify
  (repeat' (first | (split <;> try (rename_i h; first | (have e := pair_third h; clear h; subst e) | (have e := pair_snd h; have e2 := pair_fst h; clear h; subst e; try subst e2) | (have e := pair_fst h; clear h; subst e))) | (dsimp only; split))) <;> simp [hk]
@[simp] theorem stageVerify_mgmt (s : State) (id a n : Nat) (more : Option Nat) (go : State → State)
    (hk : ∀ s, (go s).mgmt = s.mgmt) : (stageVerify s id a n more go).mgmt = s.mgmt := by
  unfold stageVerify
  (repeat' (first | (split <;> try (rename_i h; first | (have e := pair_third h; clear h; subst e) | (have e := pair_snd h; have e2 := pair_fst h; clear h; subst e; try subst e2) | (have e := pair_fst h; clear h; subst e))) | (dsimp only; split))) <;> simp [hk]
@[simp] theorem stageVerify_jtag (s : State) (id a n : Nat) (more : Option Nat) (go : State → State)
    (hk : ∀ s, (go s).jtag = s.jtag) : (stageVerify s id a n more go).jtag = s.jtag := by
  unfold stageVerify
  (repeat' (first | (split <;> try (rename_i h; first | (have e := pair_third h; clear h; subst e) | (have e := pair_snd h; have e2 := pair_fst h; clear h; subst e; try subst e2) | (have e := pair_fst h; clear h; subst e))) | (dsimp only; split))) <;> simp [hk]
@[simp] theorem stageVerify_sets (s : State) (id a n : Nat) (more : Option Nat) (go : State → State)
    (hk : ∀ s, (go s).sets = s.sets) : (stageVerify s id a n more go).sets = s.sets := by
  unfold stageVerify
  (repeat' (first | (split <;> try (rename_i h; first | (have e := pair_third h; clear h; subst e) | (have e := pair_snd h; have e2 := pair_fst h; clear h; subst e; try subst e2) | (have e := pair_fst h; clear h; subst e))) | (dsimp only; split))) <;> simp [hk]
@[simp] theorem stageVerify_path (s : State) (id a n : Nat) (more : Option Nat) (go : State → State)
    (hk : ∀ s, (go s).path = s.path) : (stageVerify s id a n more go).path = s.path := by
  unfold stageVerify
  (repeat' (first | (split <;> try (rename_i h; first | (have e := pair_third h; clear h; subst e) | (have e := pair_snd h; have e2 := pair_fst h; clear h; subst e; try subst e2) | (have e := pair_fst h; clear h; subst e))) | (dsimp only; split))) <;> simp [hk]
@[simp] theorem stageVerify_glaze (s : State) (id a n : Nat) (more : Option Nat) (go : State → State)
    (hk : ∀ s, (go s).glaze = s.glaze) : (stageVerify s id a n more go).glaze = s.glaze := by
  unfold stageVerify
  (repeat' (first | (split <;> try (rename_i h; first | (have e := pair_third h; clear h; subst e) | (have e := pair_snd h; have e2 := pair_fst h; clear h; subst e; try subst e2) | (have e := pair_fst h; clear h; subst e))) | (dsimp only; split))) <;> simp [hk]
@[simp] theorem stageVerify_easel (s : State) (id a n : Nat) (more : Option Nat) (go : State → State)
    (hk : ∀ s, (go s).easel = s.easel) : (stageVerify s id a n more go).easel = s.easel := by
  unfold stageVerify
  (repeat' (first | (split <;> try (rename_i h; first | (have e := pair_third h; clear h; subst e) | (have e := pair_snd h; have e2 := pair_fst h; clear h; subst e; try subst e2) | (have e := pair_fst h; clear h; subst e))) | (dsimp only; split))) <;> simp [hk]
@[simp] theorem stageVerify_mx (s : State) (id a n : Nat) (more : Option Nat) (go : State → State)
    (hk : ∀ s, (go s).mx = s.mx) : (stageVerify s id a n more go).mx = s.mx := by
  unfold stageVerify
  (repeat' (first | (split <;> try (rename_i h; first | (have e := pair_third h; clear h; subst e) | (have e := pair_snd h; have e2 := pair_fst h; clear h; subst e; try subst e2) | (have e := pair_fst h; clear h; subst e))) | (dsimp only; split))) <;> simp [hk]
@[simp] theorem fwEnd_frame (s : State) (f : FwJob) :
    let t := (fwEnd s f); t.pending = s.pending ∧ t.timebase = s.timebase ∧ t.freeCtr = s.freeCtr ∧ t.balls =
    s.balls ∧ t.fuses = s.fuses ∧ t.latch = s.latch ∧ t.mem = s.mem ∧ t.hostMem = s.hostMem ∧ t.vents = s.vents ∧
    t.cals = s.cals ∧ t.power = s.power ∧ t.ports = s.ports ∧ t.subs = s.subs ∧ t.mgmt = s.mgmt ∧ t.jtag = s.jtag ∧
    t.store = s.store ∧ t.sets = s.sets ∧ t.path = s.path ∧ t.qm = s.qm ∧ t.glaze = s.glaze ∧ t.hb = s.hb ∧ t.mx =
    s.mx ∧ t.hbm = s.hbm := by simp [fwEnd]
@[simp] theorem replaceCal_frame (s : State) (c : Nat) :
    let t := (replaceCal s c); t.pending = s.pending ∧ t.timebase = s.timebase ∧ t.freeCtr = s.freeCtr ∧ t.balls =
    s.balls ∧ t.fuses = s.fuses ∧ t.glob = s.glob ∧ t.latch = s.latch ∧ t.power = s.power ∧ t.ports = s.ports ∧
    t.subs = s.subs ∧ t.mgmt = s.mgmt ∧ t.jtag = s.jtag ∧ t.sets = s.sets ∧ t.path = s.path ∧ t.qm = s.qm ∧ t.glaze
    = s.glaze ∧ t.adm = s.adm := by simp [replaceCal]
@[simp] theorem i2cEnd_pending (s : State) (id n : Nat) (o : I2cEnd) (x : MgmtXfer) (ok : State → State)
    (hk : ∀ s, (ok s).pending = s.pending) : (i2cEnd s id n o x ok).pending = s.pending := by
  unfold i2cEnd
  (repeat' (first | (split <;> try (rename_i h; first | (have e := pair_third h; clear h; subst e) | (have e := pair_snd h; have e2 := pair_fst h; clear h; subst e; try subst e2) | (have e := pair_fst h; clear h; subst e))) | (dsimp only; split))) <;> simp [hk]
@[simp] theorem i2cEnd_timebase (s : State) (id n : Nat) (o : I2cEnd) (x : MgmtXfer) (ok : State → State)
    (hk : ∀ s, (ok s).timebase = s.timebase) : (i2cEnd s id n o x ok).timebase = s.timebase := by
  unfold i2cEnd
  (repeat' (first | (split <;> try (rename_i h; first | (have e := pair_third h; clear h; subst e) | (have e := pair_snd h; have e2 := pair_fst h; clear h; subst e; try subst e2) | (have e := pair_fst h; clear h; subst e))) | (dsimp only; split))) <;> simp [hk]
@[simp] theorem i2cEnd_freeCtr (s : State) (id n : Nat) (o : I2cEnd) (x : MgmtXfer) (ok : State → State)
    (hk : ∀ s, (ok s).freeCtr = s.freeCtr) : (i2cEnd s id n o x ok).freeCtr = s.freeCtr := by
  unfold i2cEnd
  (repeat' (first | (split <;> try (rename_i h; first | (have e := pair_third h; clear h; subst e) | (have e := pair_snd h; have e2 := pair_fst h; clear h; subst e; try subst e2) | (have e := pair_fst h; clear h; subst e))) | (dsimp only; split))) <;> simp [hk]
@[simp] theorem i2cEnd_balls (s : State) (id n : Nat) (o : I2cEnd) (x : MgmtXfer) (ok : State → State)
    (hk : ∀ s, (ok s).balls = s.balls) : (i2cEnd s id n o x ok).balls = s.balls := by
  unfold i2cEnd
  (repeat' (first | (split <;> try (rename_i h; first | (have e := pair_third h; clear h; subst e) | (have e := pair_snd h; have e2 := pair_fst h; clear h; subst e; try subst e2) | (have e := pair_fst h; clear h; subst e))) | (dsimp only; split))) <;> simp [hk]
@[simp] theorem i2cEnd_fuses (s : State) (id n : Nat) (o : I2cEnd) (x : MgmtXfer) (ok : State → State)
    (hk : ∀ s, (ok s).fuses = s.fuses) : (i2cEnd s id n o x ok).fuses = s.fuses := by
  unfold i2cEnd
  (repeat' (first | (split <;> try (rename_i h; first | (have e := pair_third h; clear h; subst e) | (have e := pair_snd h; have e2 := pair_fst h; clear h; subst e; try subst e2) | (have e := pair_fst h; clear h; subst e))) | (dsimp only; split))) <;> simp [hk]
@[simp] theorem i2cEnd_glob (s : State) (id n : Nat) (o : I2cEnd) (x : MgmtXfer) (ok : State → State)
    (hk : ∀ s, (ok s).glob = s.glob) : (i2cEnd s id n o x ok).glob = s.glob := by
  unfold i2cEnd
  (repeat' (first | (split <;> try (rename_i h; first | (have e := pair_third h; clear h; subst e) | (have e := pair_snd h; have e2 := pair_fst h; clear h; subst e; try subst e2) | (have e := pair_fst h; clear h; subst e))) | (dsimp only; split))) <;> simp [hk]
@[simp] theorem i2cEnd_latch (s : State) (id n : Nat) (o : I2cEnd) (x : MgmtXfer) (ok : State → State)
    (hk : ∀ s, (ok s).latch = s.latch) : (i2cEnd s id n o x ok).latch = s.latch := by
  unfold i2cEnd
  (repeat' (first | (split <;> try (rename_i h; first | (have e := pair_third h; clear h; subst e) | (have e := pair_snd h; have e2 := pair_fst h; clear h; subst e; try subst e2) | (have e := pair_fst h; clear h; subst e))) | (dsimp only; split))) <;> simp [hk]
@[simp] theorem i2cEnd_mem (s : State) (id n : Nat) (o : I2cEnd) (x : MgmtXfer) (ok : State → State)
    (hk : ∀ s, (ok s).mem = s.mem) : (i2cEnd s id n o x ok).mem = s.mem := by
  unfold i2cEnd
  (repeat' (first | (split <;> try (rename_i h; first | (have e := pair_third h; clear h; subst e) | (have e := pair_snd h; have e2 := pair_fst h; clear h; subst e; try subst e2) | (have e := pair_fst h; clear h; subst e))) | (dsimp only; split))) <;> simp [hk]
@[simp] theorem i2cEnd_vents (s : State) (id n : Nat) (o : I2cEnd) (x : MgmtXfer) (ok : State → State)
    (hk : ∀ s, (ok s).vents = s.vents) : (i2cEnd s id n o x ok).vents = s.vents := by
  unfold i2cEnd
  (repeat' (first | (split <;> try (rename_i h; first | (have e := pair_third h; clear h; subst e) | (have e := pair_snd h; have e2 := pair_fst h; clear h; subst e; try subst e2) | (have e := pair_fst h; clear h; subst e))) | (dsimp only; split))) <;> simp [hk]
@[simp] theorem i2cEnd_cals (s : State) (id n : Nat) (o : I2cEnd) (x : MgmtXfer) (ok : State → State)
    (hk : ∀ s, (ok s).cals = s.cals) : (i2cEnd s id n o x ok).cals = s.cals := by
  unfold i2cEnd
  (repeat' (first | (split <;> try (rename_i h; first | (have e := pair_third h; clear h; subst e) | (have e := pair_snd h; have e2 := pair_fst h; clear h; subst e; try subst e2) | (have e := pair_fst h; clear h; subst e))) | (dsimp only; split))) <;> simp [hk]
@[simp] theorem i2cEnd_ports (s : State) (id n : Nat) (o : I2cEnd) (x : MgmtXfer) (ok : State → State)
    (hk : ∀ s, (ok s).ports = s.ports) : (i2cEnd s id n o x ok).ports = s.ports := by
  unfold i2cEnd
  (repeat' (first | (split <;> try (rename_i h; first | (have e := pair_third h; clear h; subst e) | (have e := pair_snd h; have e2 := pair_fst h; clear h; subst e; try subst e2) | (have e := pair_fst h; clear h; subst e))) | (dsimp only; split))) <;> simp [hk]
@[simp] theorem i2cEnd_subs (s : State) (id n : Nat) (o : I2cEnd) (x : MgmtXfer) (ok : State → State)
    (hk : ∀ s, (ok s).subs = s.subs) : (i2cEnd s id n o x ok).subs = s.subs := by
  unfold i2cEnd
  (repeat' (first | (split <;> try (rename_i h; first | (have e := pair_third h; clear h; subst e) | (have e := pair_snd h; have e2 := pair_fst h; clear h; subst e; try subst e2) | (have e := pair_fst h; clear h; subst e))) | (dsimp only; split))) <;> simp [hk]
@[simp] theorem i2cEnd_jtag (s : State) (id n : Nat) (o : I2cEnd) (x : MgmtXfer) (ok : State → State)
    (hk : ∀ s, (ok s).jtag = s.jtag) : (i2cEnd s id n o x ok).jtag = s.jtag := by
  unfold i2cEnd
  (repeat' (first | (split <;> try (rename_i h; first | (have e := pair_third h; clear h; subst e) | (have e := pair_snd h; have e2 := pair_fst h; clear h; subst e; try subst e2) | (have e := pair_fst h; clear h; subst e))) | (dsimp only; split))) <;> simp [hk]
@[simp] theorem i2cEnd_store (s : State) (id n : Nat) (o : I2cEnd) (x : MgmtXfer) (ok : State → State)
    (hk : ∀ s, (ok s).store = s.store) : (i2cEnd s id n o x ok).store = s.store := by
  unfold i2cEnd
  (repeat' (first | (split <;> try (rename_i h; first | (have e := pair_third h; clear h; subst e) | (have e := pair_snd h; have e2 := pair_fst h; clear h; subst e; try subst e2) | (have e := pair_fst h; clear h; subst e))) | (dsimp only; split))) <;> simp [hk]
@[simp] theorem i2cEnd_sets (s : State) (id n : Nat) (o : I2cEnd) (x : MgmtXfer) (ok : State → State)
    (hk : ∀ s, (ok s).sets = s.sets) : (i2cEnd s id n o x ok).sets = s.sets := by
  unfold i2cEnd
  (repeat' (first | (split <;> try (rename_i h; first | (have e := pair_third h; clear h; subst e) | (have e := pair_snd h; have e2 := pair_fst h; clear h; subst e; try subst e2) | (have e := pair_fst h; clear h; subst e))) | (dsimp only; split))) <;> simp [hk]
@[simp] theorem i2cEnd_path (s : State) (id n : Nat) (o : I2cEnd) (x : MgmtXfer) (ok : State → State)
    (hk : ∀ s, (ok s).path = s.path) : (i2cEnd s id n o x ok).path = s.path := by
  unfold i2cEnd
  (repeat' (first | (split <;> try (rename_i h; first | (have e := pair_third h; clear h; subst e) | (have e := pair_snd h; have e2 := pair_fst h; clear h; subst e; try subst e2) | (have e := pair_fst h; clear h; subst e))) | (dsimp only; split))) <;> simp [hk]
@[simp] theorem i2cEnd_qm (s : State) (id n : Nat) (o : I2cEnd) (x : MgmtXfer) (ok : State → State)
    (hk : ∀ s, (ok s).qm = s.qm) : (i2cEnd s id n o x ok).qm = s.qm := by
  unfold i2cEnd
  (repeat' (first | (split <;> try (rename_i h; first | (have e := pair_third h; clear h; subst e) | (have e := pair_snd h; have e2 := pair_fst h; clear h; subst e; try subst e2) | (have e := pair_fst h; clear h; subst e))) | (dsimp only; split))) <;> simp [hk]
@[simp] theorem i2cEnd_glaze (s : State) (id n : Nat) (o : I2cEnd) (x : MgmtXfer) (ok : State → State)
    (hk : ∀ s, (ok s).glaze = s.glaze) : (i2cEnd s id n o x ok).glaze = s.glaze := by
  unfold i2cEnd
  (repeat' (first | (split <;> try (rename_i h; first | (have e := pair_third h; clear h; subst e) | (have e := pair_snd h; have e2 := pair_fst h; clear h; subst e; try subst e2) | (have e := pair_fst h; clear h; subst e))) | (dsimp only; split))) <;> simp [hk]
@[simp] theorem i2cEnd_easel (s : State) (id n : Nat) (o : I2cEnd) (x : MgmtXfer) (ok : State → State)
    (hk : ∀ s, (ok s).easel = s.easel) : (i2cEnd s id n o x ok).easel = s.easel := by
  unfold i2cEnd
  (repeat' (first | (split <;> try (rename_i h; first | (have e := pair_third h; clear h; subst e) | (have e := pair_snd h; have e2 := pair_fst h; clear h; subst e; try subst e2) | (have e := pair_fst h; clear h; subst e))) | (dsimp only; split))) <;> simp [hk]
@[simp] theorem i2cEnd_mx (s : State) (id n : Nat) (o : I2cEnd) (x : MgmtXfer) (ok : State → State)
    (hk : ∀ s, (ok s).mx = s.mx) : (i2cEnd s id n o x ok).mx = s.mx := by
  unfold i2cEnd
  (repeat' (first | (split <;> try (rename_i h; first | (have e := pair_third h; clear h; subst e) | (have e := pair_snd h; have e2 := pair_fst h; clear h; subst e; try subst e2) | (have e := pair_fst h; clear h; subst e))) | (dsimp only; split))) <;> simp [hk]
@[simp] theorem i2cEnd_hbm (s : State) (id n : Nat) (o : I2cEnd) (x : MgmtXfer) (ok : State → State)
    (hk : ∀ s, (ok s).hbm = s.hbm) : (i2cEnd s id n o x ok).hbm = s.hbm := by
  unfold i2cEnd
  (repeat' (first | (split <;> try (rename_i h; first | (have e := pair_third h; clear h; subst e) | (have e := pair_snd h; have e2 := pair_fst h; clear h; subst e; try subst e2) | (have e := pair_fst h; clear h; subst e))) | (dsimp only; split))) <;> simp [hk]
@[simp] theorem mdioEnd_pending (s : State) (id n : Nat) (x : MgmtXfer) (ok : State → State)
    (hk : ∀ s, (ok s).pending = s.pending) : (mdioEnd s id n x ok).pending = s.pending := by
  unfold mdioEnd
  (repeat' (first | (split <;> try (rename_i h; first | (have e := pair_third h; clear h; subst e) | (have e := pair_snd h; have e2 := pair_fst h; clear h; subst e; try subst e2) | (have e := pair_fst h; clear h; subst e))) | (dsimp only; split))) <;> simp [hk]
@[simp] theorem mdioEnd_timebase (s : State) (id n : Nat) (x : MgmtXfer) (ok : State → State)
    (hk : ∀ s, (ok s).timebase = s.timebase) : (mdioEnd s id n x ok).timebase = s.timebase := by
  unfold mdioEnd
  (repeat' (first | (split <;> try (rename_i h; first | (have e := pair_third h; clear h; subst e) | (have e := pair_snd h; have e2 := pair_fst h; clear h; subst e; try subst e2) | (have e := pair_fst h; clear h; subst e))) | (dsimp only; split))) <;> simp [hk]
@[simp] theorem mdioEnd_freeCtr (s : State) (id n : Nat) (x : MgmtXfer) (ok : State → State)
    (hk : ∀ s, (ok s).freeCtr = s.freeCtr) : (mdioEnd s id n x ok).freeCtr = s.freeCtr := by
  unfold mdioEnd
  (repeat' (first | (split <;> try (rename_i h; first | (have e := pair_third h; clear h; subst e) | (have e := pair_snd h; have e2 := pair_fst h; clear h; subst e; try subst e2) | (have e := pair_fst h; clear h; subst e))) | (dsimp only; split))) <;> simp [hk]
@[simp] theorem mdioEnd_balls (s : State) (id n : Nat) (x : MgmtXfer) (ok : State → State)
    (hk : ∀ s, (ok s).balls = s.balls) : (mdioEnd s id n x ok).balls = s.balls := by
  unfold mdioEnd
  (repeat' (first | (split <;> try (rename_i h; first | (have e := pair_third h; clear h; subst e) | (have e := pair_snd h; have e2 := pair_fst h; clear h; subst e; try subst e2) | (have e := pair_fst h; clear h; subst e))) | (dsimp only; split))) <;> simp [hk]
@[simp] theorem mdioEnd_fuses (s : State) (id n : Nat) (x : MgmtXfer) (ok : State → State)
    (hk : ∀ s, (ok s).fuses = s.fuses) : (mdioEnd s id n x ok).fuses = s.fuses := by
  unfold mdioEnd
  (repeat' (first | (split <;> try (rename_i h; first | (have e := pair_third h; clear h; subst e) | (have e := pair_snd h; have e2 := pair_fst h; clear h; subst e; try subst e2) | (have e := pair_fst h; clear h; subst e))) | (dsimp only; split))) <;> simp [hk]
@[simp] theorem mdioEnd_glob (s : State) (id n : Nat) (x : MgmtXfer) (ok : State → State)
    (hk : ∀ s, (ok s).glob = s.glob) : (mdioEnd s id n x ok).glob = s.glob := by
  unfold mdioEnd
  (repeat' (first | (split <;> try (rename_i h; first | (have e := pair_third h; clear h; subst e) | (have e := pair_snd h; have e2 := pair_fst h; clear h; subst e; try subst e2) | (have e := pair_fst h; clear h; subst e))) | (dsimp only; split))) <;> simp [hk]
@[simp] theorem mdioEnd_latch (s : State) (id n : Nat) (x : MgmtXfer) (ok : State → State)
    (hk : ∀ s, (ok s).latch = s.latch) : (mdioEnd s id n x ok).latch = s.latch := by
  unfold mdioEnd
  (repeat' (first | (split <;> try (rename_i h; first | (have e := pair_third h; clear h; subst e) | (have e := pair_snd h; have e2 := pair_fst h; clear h; subst e; try subst e2) | (have e := pair_fst h; clear h; subst e))) | (dsimp only; split))) <;> simp [hk]
@[simp] theorem mdioEnd_mem (s : State) (id n : Nat) (x : MgmtXfer) (ok : State → State)
    (hk : ∀ s, (ok s).mem = s.mem) : (mdioEnd s id n x ok).mem = s.mem := by
  unfold mdioEnd
  (repeat' (first | (split <;> try (rename_i h; first | (have e := pair_third h; clear h; subst e) | (have e := pair_snd h; have e2 := pair_fst h; clear h; subst e; try subst e2) | (have e := pair_fst h; clear h; subst e))) | (dsimp only; split))) <;> simp [hk]
@[simp] theorem mdioEnd_hostMem (s : State) (id n : Nat) (x : MgmtXfer) (ok : State → State)
    (hk : ∀ s, (ok s).hostMem = s.hostMem) : (mdioEnd s id n x ok).hostMem = s.hostMem := by
  unfold mdioEnd
  (repeat' (first | (split <;> try (rename_i h; first | (have e := pair_third h; clear h; subst e) | (have e := pair_snd h; have e2 := pair_fst h; clear h; subst e; try subst e2) | (have e := pair_fst h; clear h; subst e))) | (dsimp only; split))) <;> simp [hk]
@[simp] theorem mdioEnd_vents (s : State) (id n : Nat) (x : MgmtXfer) (ok : State → State)
    (hk : ∀ s, (ok s).vents = s.vents) : (mdioEnd s id n x ok).vents = s.vents := by
  unfold mdioEnd
  (repeat' (first | (split <;> try (rename_i h; first | (have e := pair_third h; clear h; subst e) | (have e := pair_snd h; have e2 := pair_fst h; clear h; subst e; try subst e2) | (have e := pair_fst h; clear h; subst e))) | (dsimp only; split))) <;> simp [hk]
@[simp] theorem mdioEnd_cals (s : State) (id n : Nat) (x : MgmtXfer) (ok : State → State)
    (hk : ∀ s, (ok s).cals = s.cals) : (mdioEnd s id n x ok).cals = s.cals := by
  unfold mdioEnd
  (repeat' (first | (split <;> try (rename_i h; first | (have e := pair_third h; clear h; subst e) | (have e := pair_snd h; have e2 := pair_fst h; clear h; subst e; try subst e2) | (have e := pair_fst h; clear h; subst e))) | (dsimp only; split))) <;> simp [hk]
@[simp] theorem mdioEnd_power (s : State) (id n : Nat) (x : MgmtXfer) (ok : State → State)
    (hk : ∀ s, (ok s).power = s.power) : (mdioEnd s id n x ok).power = s.power := by
  unfold mdioEnd
  (repeat' (first | (split <;> try (rename_i h; first | (have e := pair_third h; clear h; subst e) | (have e := pair_snd h; have e2 := pair_fst h; clear h; subst e; try subst e2) | (have e := pair_fst h; clear h; subst e))) | (dsimp only; split))) <;> simp [hk]
@[simp] theorem mdioEnd_ports (s : State) (id n : Nat) (x : MgmtXfer) (ok : State → State)
    (hk : ∀ s, (ok s).ports = s.ports) : (mdioEnd s id n x ok).ports = s.ports := by
  unfold mdioEnd
  (repeat' (first | (split <;> try (rename_i h; first | (have e := pair_third h; clear h; subst e) | (have e := pair_snd h; have e2 := pair_fst h; clear h; subst e; try subst e2) | (have e := pair_fst h; clear h; subst e))) | (dsimp only; split))) <;> simp [hk]
@[simp] theorem mdioEnd_subs (s : State) (id n : Nat) (x : MgmtXfer) (ok : State → State)
    (hk : ∀ s, (ok s).subs = s.subs) : (mdioEnd s id n x ok).subs = s.subs := by
  unfold mdioEnd
  (repeat' (first | (split <;> try (rename_i h; first | (have e := pair_third h; clear h; subst e) | (have e := pair_snd h; have e2 := pair_fst h; clear h; subst e; try subst e2) | (have e := pair_fst h; clear h; subst e))) | (dsimp only; split))) <;> simp [hk]
@[simp] theorem mdioEnd_jtag (s : State) (id n : Nat) (x : MgmtXfer) (ok : State → State)
    (hk : ∀ s, (ok s).jtag = s.jtag) : (mdioEnd s id n x ok).jtag = s.jtag := by
  unfold mdioEnd
  (repeat' (first | (split <;> try (rename_i h; first | (have e := pair_third h; clear h; subst e) | (have e := pair_snd h; have e2 := pair_fst h; clear h; subst e; try subst e2) | (have e := pair_fst h; clear h; subst e))) | (dsimp only; split))) <;> simp [hk]
@[simp] theorem mdioEnd_store (s : State) (id n : Nat) (x : MgmtXfer) (ok : State → State)
    (hk : ∀ s, (ok s).store = s.store) : (mdioEnd s id n x ok).store = s.store := by
  unfold mdioEnd
  (repeat' (first | (split <;> try (rename_i h; first | (have e := pair_third h; clear h; subst e) | (have e := pair_snd h; have e2 := pair_fst h; clear h; subst e; try subst e2) | (have e := pair_fst h; clear h; subst e))) | (dsimp only; split))) <;> simp [hk]
@[simp] theorem mdioEnd_sets (s : State) (id n : Nat) (x : MgmtXfer) (ok : State → State)
    (hk : ∀ s, (ok s).sets = s.sets) : (mdioEnd s id n x ok).sets = s.sets := by
  unfold mdioEnd
  (repeat' (first | (split <;> try (rename_i h; first | (have e := pair_third h; clear h; subst e) | (have e := pair_snd h; have e2 := pair_fst h; clear h; subst e; try subst e2) | (have e := pair_fst h; clear h; subst e))) | (dsimp only; split))) <;> simp [hk]
@[simp] theorem mdioEnd_path (s : State) (id n : Nat) (x : MgmtXfer) (ok : State → State)
    (hk : ∀ s, (ok s).path = s.path) : (mdioEnd s id n x ok).path = s.path := by
  unfold mdioEnd
  (repeat' (first | (split <;> try (rename_i h; first | (have e := pair_third h; clear h; subst e) | (have e := pair_snd h; have e2 := pair_fst h; clear h; subst e; try subst e2) | (have e := pair_fst h; clear h; subst e))) | (dsimp only; split))) <;> simp [hk]
@[simp] theorem mdioEnd_qm (s : State) (id n : Nat) (x : MgmtXfer) (ok : State → State)
    (hk : ∀ s, (ok s).qm = s.qm) : (mdioEnd s id n x ok).qm = s.qm := by
  unfold mdioEnd
  (repeat' (first | (split <;> try (rename_i h; first | (have e := pair_third h; clear h; subst e) | (have e := pair_snd h; have e2 := pair_fst h; clear h; subst e; try subst e2) | (have e := pair_fst h; clear h; subst e))) | (dsimp only; split))) <;> simp [hk]
@[simp] theorem mdioEnd_glaze (s : State) (id n : Nat) (x : MgmtXfer) (ok : State → State)
    (hk : ∀ s, (ok s).glaze = s.glaze) : (mdioEnd s id n x ok).glaze = s.glaze := by
  unfold mdioEnd
  (repeat' (first | (split <;> try (rename_i h; first | (have e := pair_third h; clear h; subst e) | (have e := pair_snd h; have e2 := pair_fst h; clear h; subst e; try subst e2) | (have e := pair_fst h; clear h; subst e))) | (dsimp only; split))) <;> simp [hk]
@[simp] theorem mdioEnd_easel (s : State) (id n : Nat) (x : MgmtXfer) (ok : State → State)
    (hk : ∀ s, (ok s).easel = s.easel) : (mdioEnd s id n x ok).easel = s.easel := by
  unfold mdioEnd
  (repeat' (first | (split <;> try (rename_i h; first | (have e := pair_third h; clear h; subst e) | (have e := pair_snd h; have e2 := pair_fst h; clear h; subst e; try subst e2) | (have e := pair_fst h; clear h; subst e))) | (dsimp only; split))) <;> simp [hk]
@[simp] theorem mdioEnd_hb (s : State) (id n : Nat) (x : MgmtXfer) (ok : State → State)
    (hk : ∀ s, (ok s).hb = s.hb) : (mdioEnd s id n x ok).hb = s.hb := by
  unfold mdioEnd
  (repeat' (first | (split <;> try (rename_i h; first | (have e := pair_third h; clear h; subst e) | (have e := pair_snd h; have e2 := pair_fst h; clear h; subst e; try subst e2) | (have e := pair_fst h; clear h; subst e))) | (dsimp only; split))) <;> simp [hk]
@[simp] theorem mdioEnd_mx (s : State) (id n : Nat) (x : MgmtXfer) (ok : State → State)
    (hk : ∀ s, (ok s).mx = s.mx) : (mdioEnd s id n x ok).mx = s.mx := by
  unfold mdioEnd
  (repeat' (first | (split <;> try (rename_i h; first | (have e := pair_third h; clear h; subst e) | (have e := pair_snd h; have e2 := pair_fst h; clear h; subst e; try subst e2) | (have e := pair_fst h; clear h; subst e))) | (dsimp only; split))) <;> simp [hk]
@[simp] theorem mdioEnd_hbm (s : State) (id n : Nat) (x : MgmtXfer) (ok : State → State)
    (hk : ∀ s, (ok s).hbm = s.hbm) : (mdioEnd s id n x ok).hbm = s.hbm := by
  unfold mdioEnd
  (repeat' (first | (split <;> try (rename_i h; first | (have e := pair_third h; clear h; subst e) | (have e := pair_snd h; have e2 := pair_fst h; clear h; subst e; try subst e2) | (have e := pair_fst h; clear h; subst e))) | (dsimp only; split))) <;> simp [hk]

/-! ### Machine/AdmQueues.lean -/

@[simp] theorem flushQueue_frame (s : State) (q : Nat) :
    let t := (flushQueue s q); t.pending = s.pending ∧ t.timebase = s.timebase ∧ t.balls = s.balls ∧ t.fuses =
    s.fuses ∧ t.glob = s.glob ∧ t.latch = s.latch ∧ t.hostMem = s.hostMem ∧ t.vents = s.vents ∧ t.cals = s.cals ∧
    t.power = s.power ∧ t.ports = s.ports ∧ t.mgmt = s.mgmt ∧ t.jtag = s.jtag ∧ t.store = s.store ∧ t.sets = s.sets
    ∧ t.easel = s.easel ∧ t.hb = s.hb ∧ t.adm = s.adm ∧ t.mx = s.mx := by simp [flushQueue]
@[simp] theorem endRing_frame (s : State) (r : Nat) :
    let t := (endRing s r); t.pending = s.pending ∧ t.timebase = s.timebase ∧ t.freeCtr = s.freeCtr ∧ t.balls =
    s.balls ∧ t.fuses = s.fuses ∧ t.glob = s.glob ∧ t.latch = s.latch ∧ t.mem = s.mem ∧ t.hostMem = s.hostMem ∧
    t.vents = s.vents ∧ t.cals = s.cals ∧ t.power = s.power ∧ t.ports = s.ports ∧ t.subs = s.subs ∧ t.mgmt = s.mgmt
    ∧ t.jtag = s.jtag ∧ t.store = s.store ∧ t.sets = s.sets ∧ t.path = s.path ∧ t.qm = s.qm ∧ t.glaze = s.glaze ∧
    t.easel = s.easel ∧ t.adm = s.adm ∧ t.mx = s.mx ∧ t.hbm = s.hbm := by
  unfold endRing
  split <;> simp
@[simp] theorem destroyQueue_frame (s : State) (q : Nat) :
    let t := (destroyQueue s q); t.pending = s.pending ∧ t.timebase = s.timebase ∧ t.balls = s.balls ∧ t.fuses =
    s.fuses ∧ t.glob = s.glob ∧ t.latch = s.latch ∧ t.hostMem = s.hostMem ∧ t.vents = s.vents ∧ t.cals = s.cals ∧
    t.power = s.power ∧ t.ports = s.ports ∧ t.mgmt = s.mgmt ∧ t.jtag = s.jtag ∧ t.store = s.store ∧ t.sets = s.sets
    ∧ t.easel = s.easel ∧ t.adm = s.adm ∧ t.mx = s.mx := by simp [destroyQueue]

/-! ### Machine/HostLink.lean -/

@[simp] theorem funcResume_frame (s : State) (f : Nat) :
    let t := (funcResume s f); t.pending = s.pending ∧ t.timebase = s.timebase ∧ t.balls = s.balls ∧ t.fuses =
    s.fuses ∧ t.glob = s.glob ∧ t.latch = s.latch ∧ t.mem = s.mem ∧ t.vents = s.vents ∧ t.cals = s.cals ∧ t.power =
    s.power ∧ t.ports = s.ports ∧ t.subs = s.subs ∧ t.mgmt = s.mgmt ∧ t.jtag = s.jtag ∧ t.sets = s.sets ∧ t.path =
    s.path ∧ t.qm = s.qm ∧ t.glaze = s.glaze ∧ t.easel = s.easel ∧ t.mx = s.mx ∧ t.hbm = s.hbm := by simp [funcResume]
@[simp] theorem endRings_frame (s : State) (f : Nat) :
    let t := (endRings s f); t.pending = s.pending ∧ t.timebase = s.timebase ∧ t.balls = s.balls ∧ t.fuses = s.fuses
    ∧ t.glob = s.glob ∧ t.latch = s.latch ∧ t.hostMem = s.hostMem ∧ t.vents = s.vents ∧ t.cals = s.cals ∧ t.power =
    s.power ∧ t.ports = s.ports ∧ t.mgmt = s.mgmt ∧ t.jtag = s.jtag ∧ t.store = s.store ∧ t.sets = s.sets ∧ t.easel
    = s.easel ∧ t.adm = s.adm ∧ t.mx = s.mx := by simp [endRings]
@[simp] theorem resetFunc_frame (s : State) (f : Nat) :
    let t := (resetFunc s f); t.pending = s.pending ∧ t.timebase = s.timebase ∧ t.balls = s.balls ∧ t.fuses =
    s.fuses ∧ t.glob = s.glob ∧ t.latch = s.latch ∧ t.hostMem = s.hostMem ∧ t.vents = s.vents ∧ t.cals = s.cals ∧
    t.power = s.power ∧ t.ports = s.ports ∧ t.mgmt = s.mgmt ∧ t.jtag = s.jtag ∧ t.store = s.store ∧ t.sets = s.sets
    ∧ t.easel = s.easel ∧ t.adm = s.adm ∧ t.mx = s.mx := by simp [resetFunc]
@[simp] theorem resetHost_frame (s : State) :
    let t := (resetHost s); t.pending = s.pending ∧ t.timebase = s.timebase ∧ t.balls = s.balls ∧ t.fuses = s.fuses
    ∧ t.glob = s.glob ∧ t.latch = s.latch ∧ t.hostMem = s.hostMem ∧ t.vents = s.vents ∧ t.cals = s.cals ∧ t.power =
    s.power ∧ t.ports = s.ports ∧ t.mgmt = s.mgmt ∧ t.jtag = s.jtag ∧ t.store = s.store ∧ t.sets = s.sets ∧ t.easel
    = s.easel := by simp [resetHost]
@[simp] theorem ringBell_frame (s : State) (r n : Nat) (x : Ring) :
    let t := (ringBell s r n x); t.pending = s.pending ∧ t.timebase = s.timebase ∧ t.freeCtr = s.freeCtr ∧ t.balls =
    s.balls ∧ t.fuses = s.fuses ∧ t.glob = s.glob ∧ t.latch = s.latch ∧ t.mem = s.mem ∧ t.vents = s.vents ∧ t.cals =
    s.cals ∧ t.power = s.power ∧ t.ports = s.ports ∧ t.subs = s.subs ∧ t.mgmt = s.mgmt ∧ t.jtag = s.jtag ∧ t.store =
    s.store ∧ t.sets = s.sets ∧ t.path = s.path ∧ t.qm = s.qm ∧ t.glaze = s.glaze ∧ t.easel = s.easel ∧ t.adm =
    s.adm ∧ t.mx = s.mx ∧ t.hbm = s.hbm := by simp [ringBell]
@[simp] theorem complete_frame (s : State) (c : Cpl) :
    let t := (complete s c); t.pending = s.pending ∧ t.timebase = s.timebase ∧ t.freeCtr = s.freeCtr ∧ t.balls =
    s.balls ∧ t.fuses = s.fuses ∧ t.glob = s.glob ∧ t.latch = s.latch ∧ t.mem = s.mem ∧ t.hostMem = s.hostMem ∧
    t.vents = s.vents ∧ t.cals = s.cals ∧ t.power = s.power ∧ t.ports = s.ports ∧ t.subs = s.subs ∧ t.mgmt = s.mgmt
    ∧ t.jtag = s.jtag ∧ t.store = s.store ∧ t.sets = s.sets ∧ t.path = s.path ∧ t.qm = s.qm ∧ t.glaze = s.glaze ∧
    t.easel = s.easel ∧ t.adm = s.adm ∧ t.mx = s.mx ∧ t.hbm = s.hbm := by
  unfold complete
  split <;> simp
@[simp] theorem readCpl_frame (s : State) (c : RespCode) (data : List Byte) :
    let t := (readCpl s c data); t.pending = s.pending ∧ t.timebase = s.timebase ∧ t.freeCtr = s.freeCtr ∧ t.balls =
    s.balls ∧ t.fuses = s.fuses ∧ t.glob = s.glob ∧ t.latch = s.latch ∧ t.mem = s.mem ∧ t.hostMem = s.hostMem ∧
    t.vents = s.vents ∧ t.cals = s.cals ∧ t.power = s.power ∧ t.ports = s.ports ∧ t.subs = s.subs ∧ t.mgmt = s.mgmt
    ∧ t.jtag = s.jtag ∧ t.store = s.store ∧ t.sets = s.sets ∧ t.path = s.path ∧ t.qm = s.qm ∧ t.glaze = s.glaze ∧
    t.easel = s.easel ∧ t.adm = s.adm ∧ t.mx = s.mx ∧ t.hbm = s.hbm := by
  unfold readCpl
  split <;> simp
@[simp] theorem atomRead_frame (s : State) (a n : Nat) (op : AtomOp) :
    let t := (atomRead s a n op).2; t.pending = s.pending ∧ t.timebase = s.timebase ∧ t.balls = s.balls ∧ t.fuses =
    s.fuses ∧ t.mem = s.mem ∧ t.cals = s.cals ∧ t.power = s.power ∧ t.ports = s.ports ∧ t.subs = s.subs ∧ t.mgmt =
    s.mgmt ∧ t.jtag = s.jtag ∧ t.sets = s.sets ∧ t.path = s.path ∧ t.glaze = s.glaze ∧ t.easel = s.easel ∧ t.adm =
    s.adm ∧ t.mx = s.mx := by
  unfold atomRead
  (repeat' (first | (split <;> try (rename_i h; first | (have e := pair_third h; clear h; subst e) | (have e := pair_snd h; have e2 := pair_fst h; clear h; subst e; try subst e2) | (have e := pair_fst h; clear h; subst e))) | (dsimp only; split))) <;> simp
@[simp] theorem atomWrite_frame (s : State) (l : Lock) :
    let t := (atomWrite s l); t.pending = s.pending ∧ t.timebase = s.timebase ∧ t.balls = s.balls ∧ t.fuses =
    s.fuses ∧ t.subs = s.subs ∧ t.jtag = s.jtag ∧ t.sets = s.sets := by simp [atomWrite]
@[simp] theorem endLock_frame (s : State) (t : Nat) :
    let t := (endLock s t); t.pending = s.pending ∧ t.timebase = s.timebase ∧ t.freeCtr = s.freeCtr ∧ t.balls =
    s.balls ∧ t.fuses = s.fuses ∧ t.glob = s.glob ∧ t.latch = s.latch ∧ t.mem = s.mem ∧ t.hostMem = s.hostMem ∧
    t.vents = s.vents ∧ t.cals = s.cals ∧ t.power = s.power ∧ t.ports = s.ports ∧ t.subs = s.subs ∧ t.mgmt = s.mgmt
    ∧ t.jtag = s.jtag ∧ t.store = s.store ∧ t.sets = s.sets ∧ t.path = s.path ∧ t.qm = s.qm ∧ t.glaze = s.glaze ∧
    t.easel = s.easel ∧ t.hb = s.hb ∧ t.adm = s.adm ∧ t.hbm = s.hbm := by simp [endLock]

/-! ### Machine/Tick.lean -/

@[simp] theorem tick_frame (s : State) :
    let t := (tick s); t.pending = s.pending ∧ t.freeCtr = s.freeCtr ∧ t.balls = s.balls ∧ t.fuses = s.fuses ∧
    t.glob = s.glob ∧ t.latch = s.latch ∧ t.mem = s.mem ∧ t.hostMem = s.hostMem ∧ t.vents = s.vents ∧ t.cals =
    s.cals ∧ t.power = s.power ∧ t.ports = s.ports ∧ t.subs = s.subs ∧ t.mgmt = s.mgmt ∧ t.jtag = s.jtag ∧ t.store =
    s.store ∧ t.sets = s.sets ∧ t.qm = s.qm ∧ t.glaze = s.glaze ∧ t.easel = s.easel ∧ t.hb = s.hb ∧ t.adm = s.adm ∧
    t.mx = s.mx ∧ t.hbm = s.hbm := by simp [tick]

end Sys2Proof.Machine
end

