-- ==== Sys2Proof/Laws/Maps.lean ====
section
/-! SUPPORT. Laws of the sparse maps and of the byte memory: what is read after a write, and that every memory operation
keeps the canonical form. -/

namespace Sys2Proof.Machine

/-! ### Sparse maps -/

@[simp] theorem fget_nil {α : Type} (d : α) (n : Nat) : fget d [] n = d := rfl

/-- A map read where it was set, and elsewhere. -/
theorem fget_fset {α : Type} (d : α) (n k : Nat) (x : α) (m : FMap α) :
    fget d (fset n x m) k = if n = k then x else fget d m k := by
  induction m with
  | nil => simp [fset, fget]
  | cons p r ih =>
    obtain ⟨j, v⟩ := p
    simp only [fset]
    (repeat' split) <;> simp only [fget] <;> (repeat' split) <;> first | rfl | omega | (rw [ih]; split <;> first | rfl | omega)

@[simp] theorem fget_fset_same {α : Type} (d : α) (n : Nat) (x : α) (m : FMap α) : fget d (fset n x m) n = x := by
  rw [fget_fset, if_pos rfl]

@[simp] theorem fget_fset_ne {α : Type} (d : α) (n k : Nat) (x : α) (m : FMap α) (h : n ≠ k) :
    fget d (fset n x m) k = fget d m k := by rw [fget_fset, if_neg h]

@[simp] theorem fget_fset_ne' {α : Type} (d : α) (n k : Nat) (x : α) (m : FMap α) (h : k ≠ n) :
    fget d (fset n x m) k = fget d m k := fget_fset_ne d n k x m (Ne.symm h)

/-- A map searched where it was set, and elsewhere. -/
theorem ffind_fset {α : Type} (n k : Nat) (x : α) (m : FMap α) :
    ffind (fset n x m) k = if n = k then some x else ffind m k := by
  induction m with
  | nil => simp [fset, ffind]
  | cons p r ih =>
    obtain ⟨j, v⟩ := p
    simp only [fset]
    (repeat' split) <;> simp only [ffind] <;> (repeat' split) <;> first | rfl | omega | (rw [ih]; split <;> first | rfl | omega)

@[simp] theorem ffind_fset_same {α : Type} (n : Nat) (x : α) (m : FMap α) : ffind (fset n x m) n = some x := by
  rw [ffind_fset, if_pos rfl]

@[simp] theorem ffind_fset_ne {α : Type} (n k : Nat) (x : α) (m : FMap α) (h : n ≠ k) :
    ffind (fset n x m) k = ffind m k := by rw [ffind_fset, if_neg h]

@[simp] theorem ffind_fset_ne' {α : Type} (n k : Nat) (x : α) (m : FMap α) (h : k ≠ n) :
    ffind (fset n x m) k = ffind m k := ffind_fset_ne n k x m (Ne.symm h)

/-- A map read after a removal. -/
theorem fget_fdel {α : Type} (d : α) (n k : Nat) (m : FMap α) : fget d (fdel n m) k = if n = k then d else fget d m k := by
  induction m with
  | nil => simp [fdel, fget]
  | cons p r ih =>
    obtain ⟨j, v⟩ := p
    unfold fdel at *
    by_cases h : j = n
    · subst h
      simp only [List.filter_cons, bne_self_eq_false, Bool.false_eq_true, ↓reduceIte, ih, fget]
      split <;> rfl
    · simp only [List.filter_cons, bne_iff_ne, ne_eq, h, not_false_eq_true, ↓reduceIte, fget, ih]
      (repeat' split) <;> first | rfl | omega

/-- A map searched after a removal. -/
theorem ffind_fdel {α : Type} (n k : Nat) (m : FMap α) : ffind (fdel n m) k = if n = k then none else ffind m k := by
  induction m with
  | nil => simp [fdel, ffind]
  | cons p r ih =>
    obtain ⟨j, v⟩ := p
    unfold fdel at *
    by_cases h : j = n
    · subst h
      simp only [List.filter_cons, bne_self_eq_false, Bool.false_eq_true, ↓reduceIte, ih, ffind]
      split <;> rfl
    · simp only [List.filter_cons, bne_iff_ne, ne_eq, h, not_false_eq_true, ↓reduceIte, ffind, ih]
      (repeat' split) <;> first | rfl | omega

/-- What a map gives where it lists a number. -/
theorem fget_of_ffind {α : Type} (d : α) (m : FMap α) (n : Nat) (x : α) (h : ffind m n = some x) : fget d m n = x := by
  induction m with
  | nil => simp [ffind] at h
  | cons p r ih =>
    obtain ⟨j, v⟩ := p
    simp only [ffind] at h
    simp only [fget]
    split at h
    · rw [if_pos (by assumption)]; exact Option.some.inj h
    · rw [if_neg (by assumption)]; exact ih h

/-! ### Byte memory -/

/-- A byte read after an entry is removed. -/
theorem memGet_memErase (a k : Nat) (m : List Host.Cell) : memGet (memErase a m) k = if a = k then 0 else memGet m k := by
  induction m with
  | nil => simp [memErase, memGet]
  | cons p r ih =>
    obtain ⟨j, v⟩ := p
    unfold memErase at *
    by_cases h : j = a
    · subst h
      simp only [List.filter_cons, bne_self_eq_false, Bool.false_eq_true, ↓reduceIte, ih, memGet]
      split <;> rfl
    · simp only [List.filter_cons, bne_iff_ne, ne_eq, h, not_false_eq_true, ↓reduceIte, memGet, ih]
      (repeat' split) <;> first | rfl | omega

/-- A byte read after an entry is listed. -/
theorem memGet_memInsert (a k : Nat) (b : Byte) (m : List Host.Cell) :
    memGet (memInsert a b m) k = if a = k then b else memGet m k := by
  induction m with
  | nil => simp [memInsert, memGet]
  | cons p r ih =>
    obtain ⟨j, v⟩ := p
    simp only [memInsert]
    (repeat' split) <;> simp only [memGet] <;> (repeat' split) <;> first | rfl | omega | (rw [ih]; split <;> first | rfl | omega)

/-- Read after write: the byte written, and every other byte as it was. -/
theorem memGet_memPut (a k : Nat) (b : Byte) (m : List Host.Cell) :
    memGet (memPut a b m) k = if a = k then b else memGet m k := by
  unfold memPut
  split
  · next h => rw [memGet_memErase, h]
  · exact memGet_memInsert a k b m

/-- Bytes written in order: an address written nowhere reads as before. -/
theorem memGet_memPuts_ne (w : List (Nat × Byte)) (m : List Host.Cell) (k : Nat) (h : ∀ p ∈ w, p.1 ≠ k) :
    memGet (memPuts w m) k = memGet m k := by
  unfold memPuts
  induction w generalizing m with
  | nil => rfl
  | cons p r ih =>
    rw [List.foldl_cons, ih _ (fun q hq => h q (List.mem_cons_of_mem _ hq)), memGet_memPut,
      if_neg (h p (List.mem_cons_self ..))]

/-- Bytes zeroed read as zero, and every other byte as it was. -/
theorem memGet_memZero (lo n k : Nat) (m : List Host.Cell) :
    memGet (memZero lo n m) k = if lo ≤ k ∧ k < lo + n then 0 else memGet m k := by
  unfold memZero
  induction m with
  | nil => simp [memGet]
  | cons p r ih =>
    obtain ⟨j, v⟩ := p
    simp only [List.filter_cons]
    split
    · next h =>
      simp only [Bool.or_eq_true, decide_eq_true_eq] at h
      simp only [memGet, ih]
      (repeat' split) <;> first | rfl | omega
    · next h =>
      simp only [Bool.or_eq_true, decide_eq_true_eq, not_or, Nat.not_lt, Nat.not_le] at h
      rw [ih]
      simp only [memGet]
      (repeat' split) <;> first | rfl | omega

/-! ### The canonical form -/

/-- Filtering entries keeps the canonical form. -/
theorem memWf_filter (f : Host.Cell → Bool) (m : List Host.Cell) (h : memWf m = true) : memWf (m.filter f) = true := by
  induction m with
  | nil => rfl
  | cons p r ih =>
    obtain ⟨j, v⟩ := p
    simp only [memWf, Bool.and_eq_true, List.all_eq_true] at h
    simp only [List.filter_cons]
    split
    · simp only [memWf, Bool.and_eq_true, List.all_eq_true]
      exact ⟨⟨h.1.1, fun c hc => h.1.2 c (List.mem_filter.mp hc).1⟩, ih h.2⟩
    · exact ih h.2

@[simp] theorem memWf_nil : memWf [] = true := rfl

@[simp] theorem memWf_memErase (a : Nat) (m : List Host.Cell) (h : memWf m = true) : memWf (memErase a m) = true :=
  memWf_filter _ m h

@[simp] theorem memWf_memZero (lo n : Nat) (m : List Host.Cell) (h : memWf m = true) : memWf (memZero lo n m) = true :=
  memWf_filter _ m h

/-- Entries above a bound stay above it when one above it joins them. -/
theorem all_memInsert (k a : Nat) (b : Byte) (m : List Host.Cell) (hk : k < a) (h : ∀ c ∈ m, k < c.1) :
    ∀ c ∈ memInsert a b m, k < c.1 := by
  induction m with
  | nil => intro c hc; simp only [memInsert, List.mem_cons, List.not_mem_nil, or_false] at hc; rw [hc]; exact hk
  | cons p r ih =>
    obtain ⟨j, v⟩ := p
    simp only [memInsert]
    intro c hc
    split at hc
    · simp only [List.mem_cons] at hc
      rcases hc with rfl | rfl | hc
      · exact hk
      · exact h _ (List.mem_cons_self ..)
      · exact h _ (List.mem_cons_of_mem _ hc)
    · split at hc
      · simp only [List.mem_cons] at hc
        rcases hc with rfl | hc
        · exact hk
        · exact h _ (List.mem_cons_of_mem _ hc)
      · simp only [List.mem_cons] at hc
        rcases hc with rfl | hc
        · exact h _ (List.mem_cons_self ..)
        · exact ih (fun c hc => h c (List.mem_cons_of_mem _ hc)) c hc

/-- Listing a byte that is not zero keeps the canonical form. -/
theorem memWf_memInsert (a : Nat) (b : Byte) (m : List Host.Cell) (hb : b ≠ 0) (h : memWf m = true) :
    memWf (memInsert a b m) = true := by
  induction m with
  | nil => simpa [memInsert, memWf] using hb
  | cons p r ih =>
    obtain ⟨j, v⟩ := p
    have h0 := h
    simp only [memWf, Bool.and_eq_true, List.all_eq_true, decide_eq_true_eq, bne_iff_ne, ne_eq] at h
    obtain ⟨⟨hv, hr⟩, hw⟩ := h
    simp only [memInsert]
    split
    · next hl =>
      simp only [memWf, Bool.and_eq_true, List.all_eq_true, decide_eq_true_eq, bne_iff_ne, ne_eq, List.mem_cons]
      refine ⟨⟨hb, ?_⟩, ⟨hv, hr⟩, hw⟩
      rintro c (rfl | hc)
      · exact hl
      · exact Nat.lt_trans hl (hr c hc)
    · split
      · next hl =>
        subst hl
        simp only [memWf, Bool.and_eq_true, List.all_eq_true, decide_eq_true_eq, bne_iff_ne, ne_eq]
        exact ⟨⟨hb, hr⟩, hw⟩
      · simp only [memWf, Bool.and_eq_true, List.all_eq_true, decide_eq_true_eq, bne_iff_ne, ne_eq]
        exact ⟨⟨hv, all_memInsert j a b r (by omega) hr⟩, ih hw⟩

@[simp] theorem memWf_memPut (a : Nat) (b : Byte) (m : List Host.Cell) (h : memWf m = true) : memWf (memPut a b m) = true := by
  unfold memPut
  split
  · exact memWf_memErase a m h
  · next hb => exact memWf_memInsert a b m hb h

@[simp] theorem memWf_memPuts (w : List (Nat × Byte)) (m : List Host.Cell) (h : memWf m = true) : memWf (memPuts w m) = true := by
  unfold memPuts
  induction w generalizing m with
  | nil => exact h
  | cons p r ih => exact ih _ (memWf_memPut p.1 p.2 m h)

end Sys2Proof.Machine
end

