-- ==== Sys2Proof/Laws/Lone.lean ====
section
/-! SUPPORT. A bundle of one operation: how `offerOp` runs it, and how it completes. -/

namespace Sys2Proof.Machine

@[simp] theorem fset_fset {α : Type} (n : Nat) (x y : α) (m : FMap α) : fset n x (fset n y m) = fset n x m := by
  induction m with
  | nil => simp [fset]
  | cons p r ih =>
    obtain ⟨k, z⟩ := p
    simp only [fset]
    split
    · simp [fset]
    · split
      · simp [fset, *]
      · simp only [fset, *, if_false]

@[simp] theorem setVent_setVent (s : State) (v : Nat) (x y : Vent) : setVent (setVent s v x) v y = setVent s v y := by
  simp [setVent]

@[simp] theorem ventAt_setVent (s : State) (v : Nat) (x : Vent) : ventAt (setVent s v x) v = x := by simp [setVent, ventAt]

@[simp] theorem updVent_setVent (s : State) (v : Nat) (x : Vent) (h : Vent → Vent) :
    updVent (setVent s v x) v h = setVent s v (h x) := by
  simp [updVent]

@[simp] theorem ventAt_found (s : State) (v : Nat) (e : OpEnc) : ventAt (s.found v e) v = s.fresh v e := rfl

/-- An operation takes one word or two. -/
theorem opWords_le (e : OpEnc) : opWords e ≤ 2 := by unfold opWords; split <;> omega

theorem opWords_pos (e : OpEnc) : 1 ≤ opWords e := by unfold opWords; split <;> omega

/-- No operation alone raises a fetch fault where each byte may be executed and read. -/
theorem fetchFaults_lone (s : State) (v : Nat) (vt : Vent) (n : Nat)
    (hx : ∀ i < 4 * n, rgnRefuses vt (ventLevel vt) ((vt.pc.toNat + i) % 2 ^ 32) .ex = none)
    (hr : ∀ i < n, fetchOk s v ((vt.pc.toNat + 4 * i) % 2 ^ 32) = true ∧ inCache s v ((vt.pc.toNat + 4 * i) % 2 ^ 32) = false) :
    fetchFaults s v vt n = [] := by
  unfold fetchFaults
  have h1 : ((List.range (4 * n)).map (fun i => (vt.pc.toNat + i) % 2 ^ 32)).find?
      (fun a => (rgnRefuses vt (ventLevel vt) a .ex).isSome) = none := by
    rw [List.find?_eq_none]
    intro a ha
    obtain ⟨i, hi, rfl⟩ := List.mem_map.mp ha
    rw [hx i (List.mem_range.mp hi)]
    simp
  have h2 : ((List.range n).map (fun i => (vt.pc.toNat + 4 * i) % 2 ^ 32)).find? (fun a => !inCache s v a && !fetchOk s v a) = none := by
    rw [List.find?_eq_none]
    intro a ha
    obtain ⟨i, hi, rfl⟩ := List.mem_map.mp ha
    rw [(hr i (List.mem_range.mp hi)).1]
    simp
  have h3 : ((List.range n).map (fun i => (vt.pc.toNat + 4 * i) % 2 ^ 32)).find? (fun a => inCache s v a) = none := by
    rw [List.find?_eq_none]
    intro a ha
    obtain ⟨i, hi, rfl⟩ := List.mem_map.mp ha
    rw [(hr i (List.mem_range.mp hi)).2]
    simp
  simp only [h1, h2, h3, List.append_nil]

/-- No operation alone raises an encoding fault where its own encoding is admitted. -/
theorem encFaults_lone (s : State) (v : Nat) (vt : Vent) (k : OpKind) (e : OpEnc) (st : Option Nat) (hl : e.last = true)
    (hc : encOk k e (opWords e) (v == mvNum) = true)
    (hg : (k == .vkeccak || k == .vntt) = true → hasGlaze s = true) : encFaults s v vt [⟨k, e, st⟩] = [] := by
  have hw : bundleWords [⟨k, e, st⟩] = opWords e := by simp [bundleWords]
  have h8 := opWords_le e
  unfold encFaults
  simp only [hw, placeOps, List.find?_cons, List.find?_nil, hc, hl, List.take, hasConflict]
  have hd : decide (8 < 0 + opWords e) = false := by simp; omega
  simp only [hd]
  by_cases hk : (k == .vkeccak || k == .vntt) = true
  · simp [hk, hg hk]
  · simp [hk]

/-- The result of a whole-bundle operation whose evaluation is r: it waits, stops at a boundary, or completes. -/
def loneEnd (s : State) (v : Nat) (k : OpKind) (e : OpEnc) (st : Option Nat) (r : OpRes) : State :=
  if r.wait || !sbFits (s.fresh v e) r.effs || !portFits (s.found v e) v r.effs then s
  else if r.stop then ended (stopBundle (s.found v e) v [r]) v
  else if (trapOf (s.fresh v e).pc.toNat [(r, ⟨k, e, st⟩, 0)]).any
      (fun x => entryWaits (s.found v e) v x.cause (ventLevel (s.fresh v e))) then s
  else ended (completeBundle (s.found v e) v (ventLevel (s.fresh v e)) (s.fresh v e).pc.toNat (opWords e) [r]
    (trapOf (s.fresh v e).pc.toNat [(r, ⟨k, e, st⟩, 0)])) v

theorem range8_flatMap {α : Type} (x : α) :
    (List.range 8).flatMap (fun i => if (0 == i) = true then [x] else []) = [x] := by simp [List.range_succ]

theorem flatMap_const_nil {α β : Type} (l : List α) : l.flatMap (fun _ => ([] : List β)) = [] := by simp

/-- A register file without errors fails no operand. -/
theorem regFaults_sound (vl : Nat) (vt : Vent) (on : List (BOp × Nat × Nat)) (h : vt.badRegs = []) : regFaults vl vt on = [] := by
  simp [regFaults, readsBad, h]

/-- A fetchable bundle that one operation is goes on to what its encoding, and then its operation, does. -/
theorem runBundle_fetched (s : State) (v : Nat) (k : OpKind) (e : OpEnc) (st : Option Nat) (h : Fetched s v k e) :
    runBundle s v [⟨k, e, st⟩] =
      match bestFault (encFaults (s.found v e) v (s.early v) [⟨k, e, st⟩]) with
      | some x => tryRaise (s.found v e) v (ventLevel (s.early v)) x
      | none =>
        let on := (placeOps [⟨k, e, st⟩] 0 0).filter (fun p => guardOn (s.fresh v e) p.1.e)
        if issueWaits (s.found v e) (s.fresh v e) (on.map (fun p => p.1)) then none
        else issueBundle (s.found v e) v (opWords e) (s.fresh v e) on := by
  have hw : bundleWords [(⟨k, e, st⟩ : BOp)] = opWords e := by simp [bundleWords]
  have h8 : min (opWords e) 8 = opWords e := Nat.min_eq_left (Nat.le_trans (opWords_le e) (by decide))
  have hfr : landLoads (ventAt s v) (ventAt s v).fl.bno = s.early v := rfl
  have hF := fetchFaults_lone (setVent s v (s.early v)) v (s.early v) (opWords e) h.executable h.readable
  unfold runBundle
  simp only [hfr, hw, h8, h.precise.1, h.precise.2.1, h.precise.2.2, Bool.or_false, h.free, hF, List.isEmpty_nil, List.nil_append, Bool.false_eq_true, if_false, if_true]
  rfl

/-- A whole-bundle operation other than VLD and VST whose evaluation finds no fault. -/
theorem offerOp_lone (s : State) (v : Nat) (k : OpKind) (e : OpEnc) (st : Option Nat) (h : Issues s v k e)
    (hk : k ≠ .vld ∧ k ≠ .vst) (hf : (evalOp (s.ctx v e) ⟨k, e, st⟩).faults = []) :
    offerOp s v k e st = loneEnd s v k e st (evalOp (s.ctx v e) ⟨k, e, st⟩) := by
  have hready : issueWaits (s.found v e) (s.fresh v e) [⟨k, e, st⟩] = false := h.ready
  have hnv : (k == .vld || k == .vst) = false := by simp [hk.1, hk.2]
  have hr : runBundle s v [⟨k, e, st⟩] =
      if (evalOp (s.ctx v e) ⟨k, e, st⟩).wait || !sbFits (s.fresh v e) (evalOp (s.ctx v e) ⟨k, e, st⟩).effs ||
          !portFits (s.found v e) v (evalOp (s.ctx v e) ⟨k, e, st⟩).effs then none
      else if (evalOp (s.ctx v e) ⟨k, e, st⟩).stop then some (stopBundle (s.found v e) v [evalOp (s.ctx v e) ⟨k, e, st⟩])
      else if (trapOf (s.fresh v e).pc.toNat [(evalOp (s.ctx v e) ⟨k, e, st⟩, ⟨k, e, st⟩, 0)]).any
          (fun x => entryWaits (s.found v e) v x.cause (ventLevel (s.fresh v e))) then none
      else some (completeBundle (s.found v e) v (ventLevel (s.fresh v e)) (s.fresh v e).pc.toNat (opWords e)
        [evalOp (s.ctx v e) ⟨k, e, st⟩] (trapOf (s.fresh v e).pc.toNat [(evalOp (s.ctx v e) ⟨k, e, st⟩, ⟨k, e, st⟩, 0)])) := by
    have hE := encFaults_lone (s.found v e) v (s.early v) k e st h.last h.coded h.fitted
    rw [runBundle_fetched s v k e st h.toFetched, hE]
    simp only [bestFault, placeOps, List.filter_cons, h.enabled, List.filter_nil, if_true, List.map_cons, List.map_nil, hready,
      Bool.false_eq_true, if_false]
    unfold issueBundle
    have hsound : (s.fresh v e).badRegs = [] := h.sound
    simp only [regFaults_sound _ _ _ hsound, List.filter_cons, List.filter_nil, List.map_cons, List.map_nil, List.nil_append, if_true,
      hnv, Bool.not_false, Bool.false_eq_true, if_false, List.flatMap_nil, List.foldl_nil,
      List.flatMap_cons, List.isEmpty_nil, vmemFirst, Nat.zero_sub, List.append_nil, Option.isSome_none]
    simp only [State.ctx] at hf ⊢
    simp only [hf, List.map_nil, List.filter_nil, flatMap_const_nil, bestFault]
    simp only [range8_flatMap, List.map_cons, List.map_nil, List.any_cons, List.any_nil, Bool.or_false, List.flatMap_cons, List.flatMap_nil,
      List.append_nil]
    rfl
  unfold offerOp
  rw [if_neg (by simp [h.runs])]
  simp only [h.first, List.map_nil, List.nil_append, h.last, Bool.true_or, if_true, hr]
  unfold loneEnd
  by_cases h1 : ((evalOp (s.ctx v e) ⟨k, e, st⟩).wait || !sbFits (s.fresh v e) (evalOp (s.ctx v e) ⟨k, e, st⟩).effs ||
      !portFits (s.found v e) v (evalOp (s.ctx v e) ⟨k, e, st⟩).effs) = true
  · simp only [if_pos h1]
  · by_cases h2 : (evalOp (s.ctx v e) ⟨k, e, st⟩).stop = true
    · simp only [if_neg h1, if_pos h2]; rfl
    · by_cases h3 : ((trapOf (s.fresh v e).pc.toNat [(evalOp (s.ctx v e) ⟨k, e, st⟩, ⟨k, e, st⟩, 0)]).any
          (fun x => entryWaits (s.found v e) v x.cause (ventLevel (s.fresh v e)))) = true
      · simp only [if_neg h1, if_neg h2, if_pos h3]
      · simp only [if_neg h1, if_neg h2, if_neg h3]; rfl

/-- Every operation of a vent is offered to its vent. -/
theorem exec_op (i : Instr) (k : OpKind) (v : Nat) (e : OpEnc) (s : State) (h : opKindOf i = some (k, v, e))
    (hc : opSpelt k e = true) : exec i s = .next (offerOp s v k e (stopOf i)) := by
  cases i <;> simp only [opKindOf, Option.some.injEq, Prod.mk.injEq, reduceCtorEq] at h <;>
    (obtain ⟨rfl, rfl, rfl⟩ := h; exact if_pos hc)

/-- An operation that is a whole bundle, issues and finds no fault. -/
theorem exec_lone (i : Instr) (k : OpKind) (v : Nat) (e : OpEnc) (s : State) (h : opKindOf i = some (k, v, e))
    (hi : Issues s v k e) (hk : k ≠ .vld ∧ k ≠ .vst) (hf : (evalOp (s.ctx v e) ⟨k, e, stopOf i⟩).faults = []) :
    exec i s = .next (loneEnd s v k e (stopOf i) (evalOp (s.ctx v e) ⟨k, e, stopOf i⟩)) := by
  rw [exec_op i k v e s h hi.spelt, offerOp_lone s v k e (stopOf i) hi hk hf]

/-! ### Completion -/

/-- Effects that store nothing leave the store buffer as it is. -/
theorem sbAfter_none (far : List FarLoad) (sb : List SbEntry) (effs : List Eff) (h : ∀ x ∈ effs, ∀ y, x ≠ .store y) :
    sbAfter far sb effs = sb := by
  unfold sbAfter
  induction effs generalizing sb with
  | nil => rfl
  | cons x r ih =>
    rw [List.foldl_cons]
    have hr := fun y hy => h y (List.mem_cons_of_mem _ hy)
    cases x with
    | store y => exact absurd rfl (h _ (List.mem_cons_self ..) y)
    | _ => exact ih sb hr

theorem sbFits_none (vt : Vent) (effs : List Eff) (h : ∀ x ∈ effs, ∀ y, x ≠ .store y) : sbFits vt effs = true := by
  unfold sbFits
  rw [sbAfter_none _ _ _ h]
  exact decide_eq_true (Nat.le_max_right ..)

/-- Effects none of which is a far load keep their order. -/
theorem farFirst_none (effs : List Eff) (h : ∀ x ∈ effs, ∀ l, x ≠ .far l) : farFirst effs = effs := by
  unfold farFirst
  dsimp only
  rw [List.filter_eq_nil_iff.mpr (fun x hx => by cases x <;> first | exact absurd rfl (h _ hx _) | simp),
    List.filter_eq_self.mpr (fun x hx => by cases x <;> first | exact absurd rfl (h _ hx _) | rfl), List.nil_append]

/-- Effects none of which is a Narrow far load wait for no response. -/
theorem answerSync_none (v : Nat) (effs : List Eff) (s : State) (h : ∀ x ∈ effs, ∀ l, x ≠ .sync l) :
    answerSync v effs s = (s, effs) := by
  induction effs with
  | nil => rfl
  | cons x r ih =>
    have hr := ih (fun y hy => h y (List.mem_cons_of_mem _ hy))
    cases x with
    | sync l => exact absurd rfl (h _ (List.mem_cons_self ..) l)
    | _ => simp [answerSync, hr]

theorem writeReg_pc (vt : Vent) (w : RegW) : (writeReg vt w).pc = vt.pc := by
  cases w <;> simp only [writeReg] <;> (try split) <;> rfl

theorem writeRegs_pc (ws : List RegW) (vt : Vent) : (writeRegs ws vt).pc = vt.pc := by
  unfold writeRegs
  induction ws generalizing vt with
  | nil => rfl
  | cons w r ih => rw [List.foldl_cons, ih, writeReg_pc]

theorem writeReg_astat (vt : Vent) (w : RegW) : (writeReg vt w).astat = vt.astat := by
  cases w <;> simp only [writeReg] <;> (try split) <;> rfl

theorem writeRegs_astat (ws : List RegW) (vt : Vent) : (writeRegs ws vt).astat = vt.astat := by
  unfold writeRegs
  induction ws generalizing vt with
  | nil => rfl
  | cons w r ih => rw [List.foldl_cons, ih, writeReg_astat]


/-- An effect that opens no mode shadow and is no far load. -/
def Eff.Plain : Eff → Prop
  | .mts n _ => n ≠ 0 ∧ n < 0x60
  | .gobroad | .far _ | .sync _ => False
  | _ => True

theorem openShadow_plain (vt : Vent) (effs : List Eff) (h : ∀ x ∈ effs, x.Plain) : openShadow vt effs = vt := by
  unfold openShadow
  induction effs generalizing vt with
  | nil => rfl
  | cons x r ih =>
    have hx := h x (List.mem_cons_self ..)
    have hr := fun y hy => h y (List.mem_cons_of_mem _ hy)
    rw [List.foldl_cons]
    cases x with
    | mts n w =>
      have h1 : n ≠ 0 := hx.1
      have h2 : ¬96 ≤ n := Nat.not_le.mpr hx.2
      simp only [h1, h2, if_false]
      exact ih _ hr
    | gobroad | far _ | sync _ => exact hx.elim
    | _ => exact ih _ hr

theorem commitFlags_pc (vt : Vent) (effs : List Eff) : (commitFlags vt effs).pc = vt.pc := by
  unfold commitFlags
  induction effs generalizing vt with
  | nil => rfl
  | cons x r ih => rw [List.foldl_cons, ih]; cases x <;> rfl

/-- One operation yields to no other. -/
theorem bundleEffs_one (s : State) (r : OpRes) : bundleEffs s [r] = farFirst r.effs := by
  have h : yieldTo [] = id := funext (fun x => by simp [yieldTo])
  simp [bundleEffs, laterWins, h]

/-- Effects none of which is a far load need no room at the port. -/
theorem portFits_plain (s : State) (v : Nat) (effs : List Eff) (h : ∀ x ∈ effs, x.Plain) : portFits s v effs = true := by
  have hz : (effs.map Eff.bursts).sum = 0 := by
    induction effs with
    | nil => rfl
    | cons x r ih =>
      have hx := h x (List.mem_cons_self ..)
      rw [List.map_cons, List.sum_cons, ih (fun y hy => h y (List.mem_cons_of_mem _ hy))]
      cases x with
      | far _ | sync _ => exact hx.elim
      | _ => rfl
  unfold portFits
  simp only [hz, beq_self_eq_true, Bool.true_or]

/-- Plain effects of one operation are committed as they stand. -/
theorem answered_plain (v : Nat) (r : OpRes) (s : State) (h : ∀ x ∈ r.effs, x.Plain) :
    answerSync v (bundleEffs s [r]) s = (s, r.effs) := by
  have ⟨effs, he⟩ : ∃ effs, r.effs = effs := ⟨_, rfl⟩
  rw [bundleEffs_one, he]
  rw [he] at h
  rw [farFirst_none effs (fun x hx l e => by subst e; exact h _ hx), answerSync_none v effs s (fun x hx l e => by subst e; exact h _ hx)]

/-- A bundle of one operation that completes and does not branch. -/
theorem loneEnd_next (s : State) (v : Nat) (k : OpKind) (e : OpEnc) (st : Option Nat) (r : OpRes) (t : State)
    (hw : r.wait = false) (hs : r.stop = false) (ht : r.trap = none) (hret : r.ret = none) (htg : r.target = none)
    (hb : sbFits (s.fresh v e) r.effs = true) (hc : commitAll (s.found v e) v r.effs = t) (hp : ∀ x ∈ r.effs, x.Plain) :
    loneEnd s v k e st r =
      setVent t v (wentFrom (commitFlags (ventAt t v) r.effs) (s.fresh v e).pc.toNat (opWords e)) := by
  unfold loneEnd completeBundle ended
  simp only [answered_plain v r _ hp, portFits_plain _ v _ hp, hw, hs, hb, htg, hret, ht, trapOf, Bool.not_true, Bool.or_false,
    Option.any_none, Bool.false_eq_true, if_false, hc, openShadow_plain _ _ hp, List.filterMap_cons, List.filterMap_nil, List.head?_nil,
    Option.map_none]
  unfold wentFrom wentTo
  dsimp only
  split <;> rename_i heq <;> simp [heq]

/-- The same for effects that leave the vent's pc alone. -/
theorem loneEnd_on (s : State) (v : Nat) (k : OpKind) (e : OpEnc) (st : Option Nat) (r : OpRes) (t : State)
    (hw : r.wait = false) (hs : r.stop = false) (ht : r.trap = none) (hret : r.ret = none) (htg : r.target = none)
    (hb : sbFits (s.fresh v e) r.effs = true) (hc : commitAll (s.found v e) v r.effs = t) (hp : ∀ x ∈ r.effs, x.Plain)
    (hpc : (ventAt t v).pc = (s.fresh v e).pc) :
    loneEnd s v k e st r = setVent t v (wentOn (commitFlags (ventAt t v) r.effs) (opWords e)) := by
  rw [loneEnd_next s v k e st r t hw hs ht hret htg hb hc hp, wentOn, commitFlags_pc, hpc]

/-- A bundle of one operation that completes with a taken branch. -/
theorem loneEnd_branch (s : State) (v : Nat) (k : OpKind) (e : OpEnc) (st : Option Nat) (r : OpRes) (t : State) (a : Nat)
    (hw : r.wait = false) (hs : r.stop = false) (ht : r.trap = none) (htg : r.target = some a)
    (hb : sbFits (s.fresh v e) r.effs = true) (hc : commitAll (s.found v e) v r.effs = t) (hp : ∀ x ∈ r.effs, x.Plain) :
    loneEnd s v k e st r = setVent t v (wentTo (applyShadow (commitFlags (ventAt t v) r.effs)) a) := by
  unfold loneEnd completeBundle ended
  simp only [answered_plain v r _ hp, portFits_plain _ v _ hp, hw, hs, hb, htg, ht, trapOf, Bool.not_true, Bool.or_false,
    Option.any_none, Bool.false_eq_true, if_false, hc, openShadow_plain _ _ hp, List.filterMap_cons, List.filterMap_nil, List.head?_cons,
    List.head?_nil, Option.map_none, updVent_setVent]
  rfl

end Sys2Proof.Machine
end

