-- ==== Sys2Proof/Laws/WfFields.lean ====
section
/-! SUPPORT. The canonical form of the memories through conditionals and folds. -/

namespace Sys2Proof.Machine

@[simp] theorem memWf_ite (c : Prop) [Decidable c] (x y : List Host.Cell) (hx : memWf x = true) (hy : memWf y = true) :
    memWf (if c then x else y) = true := by split <;> assumption

/-- A property that each step of a fold keeps is kept by the fold. -/
theorem foldl_holds {α β : Type} (P : β → Prop) (g : β → α → β) (h : ∀ s a, P s → P (g s a)) (l : List α) (s : β) (hs : P s) :
    P (l.foldl g s) := by
  induction l generalizing s with
  | nil => exact hs
  | cons a r ih => exact ih _ (h s a hs)

@[simp] theorem foldl_wf_mem {α : Type} (g : State → α → State) (h : ∀ s a, memWf s.mem = true → memWf (g s a).mem = true)
    (l : List α) (s : State) (hs : memWf s.mem = true) : memWf (l.foldl g s).mem = true :=
  foldl_holds (fun s => memWf s.mem = true) g h l s hs

@[simp] theorem foldl_wf_hostMem {α : Type} (g : State → α → State)
    (h : ∀ s a, memWf s.hostMem = true → memWf (g s a).hostMem = true)
    (l : List α) (s : State) (hs : memWf s.hostMem = true) : memWf (l.foldl g s).hostMem = true :=
  foldl_holds (fun s => memWf s.hostMem = true) g h l s hs

@[simp] theorem foldl_snd_wf_mem {α σ : Type} (g : σ × State → α → σ × State)
    (h : ∀ r a, memWf r.2.mem = true → memWf (g r a).2.mem = true)
    (l : List α) (r : σ × State) (hs : memWf r.2.mem = true) : memWf (l.foldl g r).2.mem = true :=
  foldl_holds (fun r => memWf r.2.mem = true) g h l r hs

@[simp] theorem foldl_snd_wf_hostMem {α σ : Type} (g : σ × State → α → σ × State)
    (h : ∀ r a, memWf r.2.hostMem = true → memWf (g r a).2.hostMem = true)
    (l : List α) (r : σ × State) (hs : memWf r.2.hostMem = true) : memWf (l.foldl g r).2.hostMem = true :=
  foldl_holds (fun r => memWf r.2.hostMem = true) g h l r hs

end Sys2Proof.Machine
end

