-- ==== Sys2Proof/Laws/MemoryCore.lean ====
section
/-! SUPPORT. Each shared operation of registers, events, the store, memory and the matrix keeps the canonical form of the
memories. -/

namespace Sys2Proof.Machine

/-! ### Machine/Base.lean -/

@[simp] theorem putMem_wf_mem (s : State) (w : List (Nat × Byte))
    (hw : memWf s.mem = true) : memWf (putMem s w).mem = true := by
  simp [putMem, *]
@[simp] theorem zeroMem_wf_mem (s : State) (a n : Nat)
    (hw : memWf s.mem = true) : memWf (zeroMem s a n).mem = true := by
  simp [zeroMem, *]
@[simp] theorem putHost_wf_hostMem (s : State) (w : List (Nat × Byte))
    (hw : memWf s.hostMem = true) : memWf (putHost s w).hostMem = true := by
  simp [putHost, *]

/-! ### Machine/VentBase.lean -/

@[simp] theorem putDie_wf_mem (s : State) (w : List (Nat × Byte))
    (hw : memWf s.mem = true) : memWf (putDie s w).mem = true := by
  simp [putDie, *]

/-! ### Machine/Events.lean -/

@[simp] theorem hostPut_wf_hostMem (s : State) (f : Nat) (ns : Bool) (a : Nat) (bs : List Byte)
    (hw : memWf s.hostMem = true) : memWf (hostPut s f ns a bs).hostMem = true := by
  simp [hostPut, *]
@[simp] theorem ringWrite_wf_hostMem (s : State) (r : Nat) (e : BitVec 128)
    (hw : memWf s.hostMem = true) : memWf (ringWrite s r e).hostMem = true := by
  unfold ringWrite
  (repeat' split) <;> simp [*]
@[simp] theorem writeHeld_wf_hostMem (f r : Nat) (n0 : Nat) (s : State)
    (hw : memWf s.hostMem = true) : memWf (writeHeld f r n0 s).hostMem = true := by
  induction n0 generalizing s with
  | zero => simpa [writeHeld] using hw
  | succ n ih => unfold writeHeld; (repeat' (first | (split <;> try (rename_i h; first | (have e := pair_third h; clear h; subst e) | (have e := pair_snd h; have e2 := pair_fst h; clear h; subst e; try subst e2) | (have e := pair_fst h; clear h; subst e))) | (dsimp only; split))) <;> first | (simp [ih, hw]; done) | (simp (disch := first | assumption | (intros; (repeat' (first | (split <;> try (rename_i h; first | (have e := pair_third h; clear h; subst e) | (have e := pair_snd h; have e2 := pair_fst h; clear h; subst e; try subst e2) | (have e := pair_fst h; clear h; subst e))) | (dsimp only; split))) <;> simp (disch := assumption); done) | (intros; simp (disch := assumption) [*]; done)) [ih, hw]; done)
@[simp] theorem flushEvents_wf_hostMem (s : State) (f : Nat)
    (hw : memWf s.hostMem = true) : memWf (flushEvents s f).hostMem = true := by
  unfold flushEvents
  (repeat' (first | (split <;> try (rename_i h; first | (have e := pair_third h; clear h; subst e) | (have e := pair_snd h; have e2 := pair_fst h; clear h; subst e; try subst e2) | (have e := pair_fst h; clear h; subst e))) | (dsimp only; split))) <;> simp [hw]
@[simp] theorem postEvent_wf_hostMem (s : State) (f src code arg : Nat)
    (hw : memWf s.hostMem = true) : memWf (postEvent s f src code arg).hostMem = true := by
  simp [postEvent, *]
@[simp] theorem keyEvent_wf_hostMem (s : State) (code ctx slot : Nat)
    (hw : memWf s.hostMem = true) : memWf (keyEvent s code ctx slot).hostMem = true := by
  simp [keyEvent, *]

@[simp] theorem markLate_wf_hostMem (s : State) (v : Nat) (m : Migration)
    (hw : memWf s.hostMem = true) : memWf (markLate s v m).hostMem = true := by
  simp [markLate, *]
@[simp] theorem marksLate_wf_hostMem (s : State) (v : Nat)
    (hw : memWf s.hostMem = true) : memWf (marksLate s v).hostMem = true := by
  unfold marksLate
  (repeat' (first | (split <;> try (rename_i h; first | (have e := pair_third h; clear h; subst e) | (have e := pair_snd h; have e2 := pair_fst h; clear h; subst e; try subst e2) | (have e := pair_fst h; clear h; subst e))) | (dsimp only; split))) <;>
    (repeat' (first | assumption | apply markLate_wf_hostMem | apply memWf_ite | apply memWf_memPuts | apply memWf_memZero | apply foldl_wf_hostMem | apply foldl_snd_wf_hostMem | (intro _ _ _) | (intro _ _) | (simp only [*]; done) | simp | split))
@[simp] theorem resetVent_wf_hostMem (s : State) (v : Nat)
    (hw : memWf s.hostMem = true) : memWf (resetVent s v).hostMem = true := by
  simp [resetVent, *]
/-! ### Machine/Store.lean -/

@[simp] theorem softNum_wf_hostMem (s : State) (c k : Nat) (e : Bool) (n : Nat)
    (hw : memWf s.hostMem = true) : memWf (softNum s c k e n).hostMem = true := by
  simp [softNum, *]
@[simp] theorem makeSpent_wf_hostMem (s : State) (c k : Nat)
    (hw : memWf s.hostMem = true) : memWf (makeSpent s c k).hostMem = true := by
  simp [makeSpent, *]
@[simp] theorem takeNum_wf_hostMem (s : State) (c k : Nat) (e : Bool)
    (hw : memWf s.hostMem = true) : memWf (takeNum s c k e).1.hostMem = true := by
  simp [takeNum, *]
@[simp] theorem kcTake_wf_hostMem (s : State) (c : Nat) (e : Bool) (t : Nat)
    (hw : memWf s.hostMem = true) : memWf (kcTake s c e t).1.hostMem = true := by
  have h1 : memWf (if (slotAt s c (b2n (ctxAt s c).curTx)).state = .live then makeSpent s c (b2n (ctxAt s c).curTx) else s).hostMem
      = true := by split <;> simp [hw]
  unfold kcTake
  dsimp only
  generalize (if (slotAt s c (b2n (ctxAt s c).curTx)).state = .live then makeSpent s c (b2n (ctxAt s c).curTx) else s) = s1 at h1 ⊢
  (repeat' split) <;> simp [h1, hw, keyEvent_wf_hostMem, makeSpent_wf_hostMem, takeNum_wf_hostMem]
@[simp] theorem txTakeOne_wf_hostMem (s : State) (v : Nat)
    (hw : memWf s.hostMem = true) : memWf (txTakeOne s v).hostMem = true := by
  simp [txTakeOne, *]
@[simp] theorem txFlush_wf_hostMem (s : State)
    (hw : memWf s.hostMem = true) : memWf (txFlush s).hostMem = true := by
  unfold txFlush
  (repeat' (first | (split <;> try (rename_i h; first | (have e := pair_third h; clear h; subst e) | (have e := pair_snd h; have e2 := pair_fst h; clear h; subst e; try subst e2) | (have e := pair_fst h; clear h; subst e))) | (dsimp only; split))) <;>
    (repeat' (first | assumption | apply txTakeOne_wf_hostMem | apply memWf_ite | apply memWf_memPuts | apply memWf_memZero | apply foldl_wf_hostMem | apply foldl_snd_wf_hostMem | (intro _ _ _) | (intro _ _) | (simp only [*]; done) | simp | split))
@[simp] theorem txTakeDo_wf_hostMem (s : State) (v : Nat)
    (hw : memWf s.hostMem = true) : memWf (txTakeDo s v).hostMem = true := by
  unfold txTakeDo
  (repeat' (first | (split <;> try (rename_i h; first | (have e := pair_third h; clear h; subst e) | (have e := pair_snd h; have e2 := pair_fst h; clear h; subst e; try subst e2) | (have e := pair_fst h; clear h; subst e))) | (dsimp only; split))) <;>
    (repeat' (first | assumption | apply txTakeOne_wf_hostMem | apply memWf_ite | apply memWf_memPuts | apply memWf_memZero | apply foldl_wf_hostMem | apply foldl_snd_wf_hostMem | (intro _ _ _) | (intro _ _) | (simp only [*]; done) | simp | split))
@[simp] theorem finalCheck_wf_hostMem (s : State) (c k : Nat) (e : Bool) (p : Nat)
    (hw : memWf s.hostMem = true) : memWf (finalCheck s c k e p).2.hostMem = true := by
  unfold finalCheck
  (repeat' (first | (split <;> try (rename_i h; first | (have e := pair_third h; clear h; subst e) | (have e := pair_snd h; have e2 := pair_fst h; clear h; subst e; try subst e2) | (have e := pair_fst h; clear h; subst e))) | (dsimp only; split))) <;> simp [hw]
@[simp] theorem kcFinal_wf_hostMem (s : State) (c k : Nat) (e : Bool) (p : Nat)
    (hw : memWf s.hostMem = true) : memWf (kcFinal s c k e p).2.hostMem = true := by
  unfold kcFinal
  (repeat' (first | (split <;> try (rename_i h; first | (have e := pair_third h; clear h; subst e) | (have e := pair_snd h; have e2 := pair_fst h; clear h; subst e; try subst e2) | (have e := pair_fst h; clear h; subst e))) | (dsimp only; split))) <;> simp [hw]
@[simp] theorem drainDone_wf_hostMem (s : State) (c k : Nat)
    (hw : memWf s.hostMem = true) : memWf (drainDone s c k).hostMem = true := by
  unfold drainDone
  (repeat' split) <;> simp [*]
@[simp] theorem keyLoadStart_wf_hostMem (s0 : State) (c k : Nat) (x : KeySlot) (m : SlotMeta) (init : DWord) (id : Nat) (kem : Bool)
    (hw : memWf s0.hostMem = true) : memWf (keyLoadStart s0 c k x m init id kem).hostMem = true := by
  simp [keyLoadStart, *]
@[simp] theorem keyRetireStart_wf_hostMem (s0 : State) (c k id : Nat)
    (hw : memWf s0.hostMem = true) : memWf (keyRetireStart s0 c k id).hostMem = true := by
  unfold keyRetireStart
  (repeat' (first | (split <;> try (rename_i h; first | (have e := pair_third h; clear h; subst e) | (have e := pair_snd h; have e2 := pair_fst h; clear h; subst e; try subst e2) | (have e := pair_fst h; clear h; subst e))) | (dsimp only; split))) <;> simp [hw]
@[simp] theorem rxExpire_wf_hostMem (s0 : State) (f : Frame) (k : Nat)
    (hw : memWf s0.hostMem = true) : memWf (rxExpire s0 f k).hostMem = true := by
  unfold rxExpire
  (repeat' (first | (split <;> try (rename_i h; first | (have e := pair_third h; clear h; subst e) | (have e := pair_snd h; have e2 := pair_fst h; clear h; subst e; try subst e2) | (have e := pair_fst h; clear h; subst e))) | (dsimp only; split))) <;> simp [hw]
@[simp] theorem keyScanSlot_wf_hostMem (s : State) (c k : Nat)
    (hw : memWf s.hostMem = true) : memWf (keyScanSlot s c k).hostMem = true := by
  simp [keyScanSlot, *]
@[simp] theorem storeRead_wf_hostMem (s : State) (o n : Nat)
    (hw : memWf s.hostMem = true) : memWf (storeRead s o n).2.2.hostMem = true := by
  unfold storeRead
  (repeat' (first | (split <;> try (rename_i h; first | (have e := pair_third h; clear h; subst e) | (have e := pair_snd h; have e2 := pair_fst h; clear h; subst e; try subst e2) | (have e := pair_fst h; clear h; subst e))) | (dsimp only; split))) <;>
    (repeat' (first | assumption | apply txTakeDo_wf_hostMem | apply memWf_ite | apply memWf_memPuts | apply memWf_memZero | apply foldl_wf_hostMem | apply foldl_snd_wf_hostMem | (intro _ _ _) | (intro _ _) | (simp only [*]; done) | simp | split))
@[simp] theorem storeWrite_wf_hostMem (s : State) (w : List (Nat × Byte))
    (hw : memWf s.hostMem = true) : memWf (storeWrite s w).2.hostMem = true := by
  unfold storeWrite
  (repeat' (first | (split <;> try (rename_i h; first | (have e := pair_third h; clear h; subst e) | (have e := pair_snd h; have e2 := pair_fst h; clear h; subst e; try subst e2) | (have e := pair_fst h; clear h; subst e))) | (dsimp only; split))) <;>
    (repeat' (first | assumption | apply txTakeDo_wf_hostMem | apply memWf_ite | apply memWf_memPuts | apply memWf_memZero | apply foldl_wf_hostMem | apply foldl_snd_wf_hostMem | (intro _ _ _) | (intro _ _) | (simp only [*]; done) | simp | split))

/-! ### Machine/Views.lean -/

@[simp] theorem subDown_wf_hostMem (s : State) (src reason : Nat)
    (hw : memWf s.hostMem = true) : memWf (subDown s src reason).hostMem = true := by
  simp [subDown, *]
@[simp] theorem portDown_wf_hostMem (s : State) (p reason : Nat)
    (hw : memWf s.hostMem = true) : memWf (portDown s p reason).hostMem = true := by
  unfold portDown
  (repeat' (first | (split <;> try (rename_i h; first | (have e := pair_third h; clear h; subst e) | (have e := pair_snd h; have e2 := pair_fst h; clear h; subst e; try subst e2) | (have e := pair_fst h; clear h; subst e))) | (dsimp only; split))) <;>
    (repeat' (first | assumption | apply subDown_wf_hostMem | apply memWf_ite | apply memWf_memPuts | apply memWf_memZero | apply foldl_wf_hostMem | apply foldl_snd_wf_hostMem | (intro _ _ _) | (intro _ _) | (simp only [*]; done) | simp | split))
@[simp] theorem retrainPort_wf_hostMem (s : State) (p : Nat)
    (hw : memWf s.hostMem = true) : memWf (retrainPort s p).hostMem = true := by
  unfold retrainPort
  apply foldl_wf_hostMem
  · intro s a h
    (repeat' (first | split | (dsimp only; split))) <;> simp [h]
  · simp [hw]

/-! ### Machine/Regs.lean -/

@[simp] theorem laneClr_wf_hostMem (s : State) (p : Nat) (w : Word)
    (hw : memWf s.hostMem = true) : memWf (laneClr s p w).hostMem = true := by
  simp [laneClr, *]
@[simp] theorem portsWrite_wf_hostMem (s : State) (o : Nat) (w : Word)
    (hw : memWf s.hostMem = true) : memWf (portsWrite s o w).hostMem = true := by
  unfold portsWrite
  (repeat' split) <;> simp [*]
@[simp] theorem markAck_wf_hostMem (s : State) (v migno : Nat)
    (hw : memWf s.hostMem = true) : memWf (markAck s v migno).hostMem = true := by
  simp [markAck, *]
@[simp] theorem easelWrite_wf_hostMem (s : State) (m : Master) (o : Nat) (w : Word)
    (hw : memWf s.hostMem = true) : memWf (easelWrite s m o w).hostMem = true := by
  unfold easelWrite
  (repeat' split) <;> simp [*]
@[simp] theorem wdExpire_wf_hostMem (s : State) (v : Nat)
    (hw : memWf s.hostMem = true) : memWf (wdExpire s v).hostMem = true := by
  unfold wdExpire
  (repeat' split) <;> simp [*]
@[simp] theorem vwdogWrite_wf_hostMem (s : State) (m : Master) (v : Nat) (w : Word)
    (hw : memWf s.hostMem = true) : memWf (vwdogWrite s m v w).hostMem = true := by
  unfold vwdogWrite
  (repeat' (first | (split <;> try (rename_i h; first | (have e := pair_third h; clear h; subst e) | (have e := pair_snd h; have e2 := pair_fst h; clear h; subst e; try subst e2) | (have e := pair_fst h; clear h; subst e))) | (dsimp only; split))) <;> simp [hw]
@[simp] theorem ventRegWrite_wf_hostMem (s : State) (m : Master) (v i : Nat) (w : Word)
    (hw : memWf s.hostMem = true) : memWf ((ventRegWrite s m v i w).2).hostMem = true := by
  simp [ventRegWrite]
  (repeat' apply memWf_ite) <;> simp [hw]
@[simp] theorem blockWrite_wf_hostMem (s : State) (m : Master) (b o : Nat) (w : Word)
    (hw : memWf s.hostMem = true) : memWf (blockWrite s m b o w).hostMem = true := by
  unfold blockWrite
  (repeat' split) <;> simp [*]
@[simp] theorem regWrite_wf_hostMem (m : Master) (a : Nat) (w : Word) (s : State)
    (hw : memWf s.hostMem = true) : memWf (regWrite m a w s).2.hostMem = true := by
  unfold regWrite
  (repeat' split) <;> simp [*]

/-! ### Machine/MatrixBase.lean -/

@[simp] theorem regWriteBytes_wf_hostMem (m : Master) (w : List (Nat × Byte)) (s : State)
    (hw : memWf s.hostMem = true) : memWf (regWriteBytes m w s).2.hostMem = true := by
  unfold regWriteBytes
  (repeat' (first | (split <;> try (rename_i h; first | (have e := pair_third h; clear h; subst e) | (have e := pair_snd h; have e2 := pair_fst h; clear h; subst e; try subst e2) | (have e := pair_fst h; clear h; subst e))) | (dsimp only; split))) <;>
    (repeat' (first | assumption | apply regWrite_wf_hostMem | apply memWf_ite | apply memWf_memPuts | apply memWf_memZero | apply foldl_wf_hostMem | apply foldl_snd_wf_hostMem | (intro _ _ _) | (intro _ _) | (simp only [*]; done) | simp | split))
@[simp] theorem zeroRegion_wf_mem (s : State) (r : Nat)
    (hw : memWf s.mem = true) : memWf (zeroRegion s r).mem = true := by
  simp [zeroRegion, *]
@[simp] theorem hbmWriteBytes_wf_mem (s : State) (w : List (Nat × Byte))
    (hw : memWf s.mem = true) : memWf (hbmWriteBytes s w).2.mem = true := by
  unfold hbmWriteBytes
  (repeat' (first | (split <;> try (rename_i h; first | (have e := pair_third h; clear h; subst e) | (have e := pair_snd h; have e2 := pair_fst h; clear h; subst e; try subst e2) | (have e := pair_fst h; clear h; subst e))) | (dsimp only; split))) <;>
    (repeat' (first | assumption | apply putMem_wf_mem | apply zeroRegion_wf_mem | apply memWf_ite | apply memWf_memPuts | apply memWf_memZero | apply foldl_wf_mem | apply foldl_snd_wf_mem | (intro _ _ _) | (intro _ _) | (simp only [*]; done) | simp | split))
@[simp] theorem hbmPut_wf_mem (s : State) (w : List (Nat × Byte))
    (hw : memWf s.mem = true) : memWf (hbmPut s w).mem = true := by
  simp [hbmPut, *]
@[simp] theorem matRead0_wf_hostMem (m : Master) (a n : Nat) (s : State)
    (hw : memWf s.hostMem = true) : memWf (matRead0 m a n s).2.2.hostMem = true := by
  unfold matRead0
  (repeat' (first | (split <;> try (rename_i h; first | (have e := pair_third h; clear h; subst e) | (have e := pair_snd h; have e2 := pair_fst h; clear h; subst e; try subst e2) | (have e := pair_fst h; clear h; subst e))) | (dsimp only; split))) <;> simp [hw]
@[simp] theorem matWrite0_wf_mem (m : Master) (w : List (Nat × Byte)) (s : State)
    (hw : memWf s.mem = true) : memWf (matWrite0 m w s).2.mem = true := by
  unfold matWrite0
  (repeat' split) <;> simp [*]
@[simp] theorem matWrite0_wf_hostMem (m : Master) (w : List (Nat × Byte)) (s : State)
    (hw : memWf s.hostMem = true) : memWf (matWrite0 m w s).2.hostMem = true := by
  unfold matWrite0
  (repeat' split) <;> simp [*]

/-! ### Machine/Dma.lean -/

@[simp] theorem dmaFetch_wf_hostMem (s : State) (n tries limit : Nat)
    (hw : memWf s.hostMem = true) : memWf (dmaFetch s n tries limit).hostMem = true := by
  simp [dmaFetch, *]
@[simp] theorem dmaBurst_wf_mem (s : State) (n : Nat)
    (hw : memWf s.mem = true) : memWf (dmaBurst s n).2.2.mem = true := by
  unfold dmaBurst
  (repeat' (first | (split <;> try (rename_i h; first | (have e := pair_third h; clear h; subst e) | (have e := pair_snd h; have e2 := pair_fst h; clear h; subst e; try subst e2) | (have e := pair_fst h; clear h; subst e))) | (dsimp only; split))) <;> simp [hw]
@[simp] theorem dmaBurst_wf_hostMem (s : State) (n : Nat)
    (hw : memWf s.hostMem = true) : memWf (dmaBurst s n).2.2.hostMem = true := by
  unfold dmaBurst
  (repeat' (first | (split <;> try (rename_i h; first | (have e := pair_third h; clear h; subst e) | (have e := pair_snd h; have e2 := pair_fst h; clear h; subst e; try subst e2) | (have e := pair_fst h; clear h; subst e))) | (dsimp only; split))) <;> simp [hw]
@[simp] theorem dmaOnce_wf_mem (s : State) (n : Nat)
    (hw : memWf s.mem = true) : memWf (dmaOnce s n).mem = true := by
  unfold dmaOnce
  (repeat' (first | (split <;> try (rename_i h; first | (have e := pair_third h; clear h; subst e) | (have e := pair_snd h; have e2 := pair_fst h; clear h; subst e; try subst e2) | (have e := pair_fst h; clear h; subst e))) | (dsimp only; split))) <;> simp [hw]
@[simp] theorem dmaServe_wf_mem (s : State) (n : Nat)
    (hw : memWf s.mem = true) : memWf (dmaServe s n).mem = true := by
  unfold dmaServe
  (repeat' (first | (split <;> try (rename_i h; first | (have e := pair_third h; clear h; subst e) | (have e := pair_snd h; have e2 := pair_fst h; clear h; subst e; try subst e2) | (have e := pair_fst h; clear h; subst e))) | (dsimp only; split))) <;> simp [hw]
@[simp] theorem dmaOnce_wf_hostMem (s : State) (n : Nat)
    (hw : memWf s.hostMem = true) : memWf (dmaOnce s n).hostMem = true := by
  unfold dmaOnce
  (repeat' (first | (split <;> try (rename_i h; first | (have e := pair_third h; clear h; subst e) | (have e := pair_snd h; have e2 := pair_fst h; clear h; subst e; try subst e2) | (have e := pair_fst h; clear h; subst e))) | (dsimp only; split))) <;> simp [hw]
@[simp] theorem dmaServe_wf_hostMem (s : State) (n : Nat)
    (hw : memWf s.hostMem = true) : memWf (dmaServe s n).hostMem = true := by
  unfold dmaServe
  (repeat' (first | (split <;> try (rename_i h; first | (have e := pair_third h; clear h; subst e) | (have e := pair_snd h; have e2 := pair_fst h; clear h; subst e; try subst e2) | (have e := pair_fst h; clear h; subst e))) | (dsimp only; split))) <;> simp [hw]
@[simp] theorem dmaSettle_wf_mem (s : State)
    (hw : memWf s.mem = true) : memWf (dmaSettle s).mem = true := by
  unfold dmaSettle
  (repeat' (first | (split <;> try (rename_i h; first | (have e := pair_third h; clear h; subst e) | (have e := pair_snd h; have e2 := pair_fst h; clear h; subst e; try subst e2) | (have e := pair_fst h; clear h; subst e))) | (dsimp only; split))) <;>
    (repeat' (first | assumption | apply dmaServe_wf_mem | apply memWf_ite | apply memWf_memPuts | apply memWf_memZero | apply foldl_wf_mem | apply foldl_snd_wf_mem | (intro _ _ _) | (intro _ _) | (simp only [*]; done) | simp | split))
@[simp] theorem dmaSettle_wf_hostMem (s : State)
    (hw : memWf s.hostMem = true) : memWf (dmaSettle s).hostMem = true := by
  unfold dmaSettle
  (repeat' (first | (split <;> try (rename_i h; first | (have e := pair_third h; clear h; subst e) | (have e := pair_snd h; have e2 := pair_fst h; clear h; subst e; try subst e2) | (have e := pair_fst h; clear h; subst e))) | (dsimp only; split))) <;>
    (repeat' (first | assumption | apply dmaServe_wf_hostMem | apply memWf_ite | apply memWf_memPuts | apply memWf_memZero | apply foldl_wf_hostMem | apply foldl_snd_wf_hostMem | (intro _ _ _) | (intro _ _) | (simp only [*]; done) | simp | split))
@[simp] theorem dmaMove_wf_mem (n stop : Nat) (n0 : Nat) (s : State)
    (hw : memWf s.mem = true) : memWf (dmaMove n stop n0 s).mem = true := by
  induction n0 generalizing s with
  | zero => simpa [dmaMove] using hw
  | succ n ih => unfold dmaMove; (repeat' (first | (split <;> try (rename_i h; first | (have e := pair_third h; clear h; subst e) | (have e := pair_snd h; have e2 := pair_fst h; clear h; subst e; try subst e2) | (have e := pair_fst h; clear h; subst e))) | (dsimp only; split))) <;> first | (simp [ih, hw]; done) | (simp (disch := first | assumption | (intros; (repeat' (first | (split <;> try (rename_i h; first | (have e := pair_third h; clear h; subst e) | (have e := pair_snd h; have e2 := pair_fst h; clear h; subst e; try subst e2) | (have e := pair_fst h; clear h; subst e))) | (dsimp only; split))) <;> simp (disch := assumption); done) | (intros; simp (disch := assumption) [*]; done)) [ih, hw]; done)
@[simp] theorem dmaMove_wf_hostMem (n stop : Nat) (n0 : Nat) (s : State)
    (hw : memWf s.hostMem = true) : memWf (dmaMove n stop n0 s).hostMem = true := by
  induction n0 generalizing s with
  | zero => simpa [dmaMove] using hw
  | succ n ih => unfold dmaMove; (repeat' (first | (split <;> try (rename_i h; first | (have e := pair_third h; clear h; subst e) | (have e := pair_snd h; have e2 := pair_fst h; clear h; subst e; try subst e2) | (have e := pair_fst h; clear h; subst e))) | (dsimp only; split))) <;> first | (simp [ih, hw]; done) | (simp (disch := first | assumption | (intros; (repeat' (first | (split <;> try (rename_i h; first | (have e := pair_third h; clear h; subst e) | (have e := pair_snd h; have e2 := pair_fst h; clear h; subst e; try subst e2) | (have e := pair_fst h; clear h; subst e))) | (dsimp only; split))) <;> simp (disch := assumption); done) | (intros; simp (disch := assumption) [*]; done)) [ih, hw]; done)
@[simp] theorem dmaComplete_wf_mem (s0 : State) (n : Nat)
    (hw : memWf s0.mem = true) : memWf (dmaComplete s0 n).mem = true := by
  unfold dmaComplete
  (repeat' (first | (split <;> try (rename_i h; first | (have e := pair_third h; clear h; subst e) | (have e := pair_snd h; have e2 := pair_fst h; clear h; subst e; try subst e2) | (have e := pair_fst h; clear h; subst e))) | (dsimp only; split))) <;> simp [hw]
@[simp] theorem dmaComplete_wf_hostMem (s0 : State) (n : Nat)
    (hw : memWf s0.hostMem = true) : memWf (dmaComplete s0 n).hostMem = true := by
  unfold dmaComplete
  (repeat' (first | (split <;> try (rename_i h; first | (have e := pair_third h; clear h; subst e) | (have e := pair_snd h; have e2 := pair_fst h; clear h; subst e; try subst e2) | (have e := pair_fst h; clear h; subst e))) | (dsimp only; split))) <;> simp [hw]
@[simp] theorem dmaBurstError_wf_mem (s : State) (n left : Nat) (wr : Bool) (code : RespCode)
    (hw : memWf s.mem = true) : memWf (dmaBurstError s n left wr code).mem = true := by
  unfold dmaBurstError
  (repeat' (first | (split <;> try (rename_i h; first | (have e := pair_third h; clear h; subst e) | (have e := pair_snd h; have e2 := pair_fst h; clear h; subst e; try subst e2) | (have e := pair_fst h; clear h; subst e))) | (dsimp only; split))) <;> simp [hw]
@[simp] theorem dmaBurstError_wf_hostMem (s : State) (n left : Nat) (wr : Bool) (code : RespCode)
    (hw : memWf s.hostMem = true) : memWf (dmaBurstError s n left wr code).hostMem = true := by
  unfold dmaBurstError
  (repeat' (first | (split <;> try (rename_i h; first | (have e := pair_third h; clear h; subst e) | (have e := pair_snd h; have e2 := pair_fst h; clear h; subst e; try subst e2) | (have e := pair_fst h; clear h; subst e))) | (dsimp only; split))) <;> simp [hw]
@[simp] theorem dmaBusError_wf_mem (s : State) (n : Nat) (what : DmaAccess) (code : RespCode)
    (hw : memWf s.mem = true) : memWf (dmaBusError s n what code).mem = true := by
  unfold dmaBusError
  (repeat' (first | (split <;> try (rename_i h; first | (have e := pair_third h; clear h; subst e) | (have e := pair_snd h; have e2 := pair_fst h; clear h; subst e; try subst e2) | (have e := pair_fst h; clear h; subst e))) | (dsimp only; split))) <;> simp [hw]
@[simp] theorem dmaBusError_wf_hostMem (s : State) (n : Nat) (what : DmaAccess) (code : RespCode)
    (hw : memWf s.hostMem = true) : memWf (dmaBusError s n what code).hostMem = true := by
  unfold dmaBusError
  (repeat' (first | (split <;> try (rename_i h; first | (have e := pair_third h; clear h; subst e) | (have e := pair_snd h; have e2 := pair_fst h; clear h; subst e; try subst e2) | (have e := pair_fst h; clear h; subst e))) | (dsimp only; split))) <;> simp [hw]
@[simp] theorem dmaRetryDo_wf_mem (s : State) (n : Nat) (ok : Bool) (last : Option RespCode)
    (hw : memWf s.mem = true) : memWf (dmaRetryDo s n ok last).mem = true := by
  unfold dmaRetryDo
  (repeat' (first | (split <;> try (rename_i h; first | (have e := pair_third h; clear h; subst e) | (have e := pair_snd h; have e2 := pair_fst h; clear h; subst e; try subst e2) | (have e := pair_fst h; clear h; subst e))) | (dsimp only; split))) <;> simp [hw]
@[simp] theorem dmaRetryDo_wf_hostMem (s : State) (n : Nat) (ok : Bool) (last : Option RespCode)
    (hw : memWf s.hostMem = true) : memWf (dmaRetryDo s n ok last).hostMem = true := by
  unfold dmaRetryDo
  (repeat' (first | (split <;> try (rename_i h; first | (have e := pair_third h; clear h; subst e) | (have e := pair_snd h; have e2 := pair_fst h; clear h; subst e; try subst e2) | (have e := pair_fst h; clear h; subst e))) | (dsimp only; split))) <;> simp [hw]

/-! ### Machine/Matrix.lean -/

@[simp] theorem matRead_wf_hostMem (m : Master) (a n : Nat) (s : State)
    (hw : memWf s.hostMem = true) : memWf (matRead m a n s).2.2.hostMem = true := by
  simp [matRead, *]
@[simp] theorem matWrite_wf_mem (m : Master) (w : List (Nat × Byte)) (s : State)
    (hw : memWf s.mem = true) : memWf (matWrite m w s).2.mem = true := by
  simp [matWrite, *]
@[simp] theorem matWrite_wf_hostMem (m : Master) (w : List (Nat × Byte)) (s : State)
    (hw : memWf s.hostMem = true) : memWf (matWrite m w s).2.hostMem = true := by
  simp [matWrite, *]
@[simp] theorem matPut_wf_mem (m : Master) (w : List (Nat × Byte)) (s : State)
    (hw : memWf s.mem = true) : memWf (matPut m w s).mem = true := by
  simp [matPut, *]
@[simp] theorem matPut_wf_hostMem (m : Master) (w : List (Nat × Byte)) (s : State)
    (hw : memWf s.hostMem = true) : memWf (matPut m w s).hostMem = true := by
  simp [matPut, *]
@[simp] theorem regPut_wf_mem (m : Master) (a : Nat) (w : Word) (s : State)
    (hw : memWf s.mem = true) : memWf (regPut m a w s).mem = true := by
  simp [regPut, *]
@[simp] theorem regPut_wf_hostMem (m : Master) (a : Nat) (w : Word) (s : State)
    (hw : memWf s.hostMem = true) : memWf (regPut m a w s).hostMem = true := by
  simp [regPut, *]

end Sys2Proof.Machine
end

