-- ==== Sys2Proof/Laws/MemoryVent.lean ====
section
/-! SUPPORT. Each shared operation of the vents keeps the canonical form of the memories. -/

namespace Sys2Proof.Machine

/-! ### Machine/Ops.lean -/

@[simp] theorem readWordRaw_wf_hostMem (s : State) (v a : Nat)
    (hw : memWf s.hostMem = true) : memWf (readWordRaw s v a).2.2.hostMem = true := by
  unfold readWordRaw
  (repeat' (first | (split <;> try (rename_i h; first | (have e := pair_third h; clear h; subst e) | (have e := pair_snd h; have e2 := pair_fst h; clear h; subst e; try subst e2) | (have e := pair_fst h; clear h; subst e))) | (dsimp only; split))) <;> simp [hw]
@[simp] theorem writeBack_wf_mem (s : State) (v : Nat) (l : DLine)
    (hw : memWf s.mem = true) : memWf (writeBack s v l).mem = true := by
  simp [writeBack, *]
@[simp] theorem writeBack_wf_hostMem (s : State) (v : Nat) (l : DLine)
    (hw : memWf s.hostMem = true) : memWf (writeBack s v l).hostMem = true := by
  simp [writeBack, *]
@[simp] theorem dcAlloc_wf_mem (s : State) (v : Nat) (block : Nat) (bytes : List Byte)
    (hw : memWf s.mem = true) : memWf (dcAlloc s v block bytes).mem = true := by
  unfold dcAlloc
  (repeat' (first | (split <;> try (rename_i h; first | (have e := pair_third h; clear h; subst e) | (have e := pair_snd h; have e2 := pair_fst h; clear h; subst e; try subst e2) | (have e := pair_fst h; clear h; subst e))) | (dsimp only; split))) <;> simp [hw]
@[simp] theorem dcAlloc_wf_hostMem (s : State) (v : Nat) (block : Nat) (bytes : List Byte)
    (hw : memWf s.hostMem = true) : memWf (dcAlloc s v block bytes).hostMem = true := by
  unfold dcAlloc
  (repeat' (first | (split <;> try (rename_i h; first | (have e := pair_third h; clear h; subst e) | (have e := pair_snd h; have e2 := pair_fst h; clear h; subst e; try subst e2) | (have e := pair_fst h; clear h; subst e))) | (dsimp only; split))) <;> simp [hw]
@[simp] theorem sbDrain_wf_mem (s : State) (v : Nat)
    (hw : memWf s.mem = true) : memWf (sbDrain s v).mem = true := by
  unfold sbDrain
  (repeat' (first | (split <;> try (rename_i h; first | (have e := pair_third h; clear h; subst e) | (have e := pair_snd h; have e2 := pair_fst h; clear h; subst e; try subst e2) | (have e := pair_fst h; clear h; subst e))) | (dsimp only; split))) <;> simp [hw]
@[simp] theorem sbDrain_wf_hostMem (s : State) (v : Nat)
    (hw : memWf s.hostMem = true) : memWf (sbDrain s v).hostMem = true := by
  unfold sbDrain
  (repeat' (first | (split <;> try (rename_i h; first | (have e := pair_third h; clear h; subst e) | (have e := pair_snd h; have e2 := pair_fst h; clear h; subst e; try subst e2) | (have e := pair_fst h; clear h; subst e))) | (dsimp only; split))) <;> simp [hw]
@[simp] theorem entryOnce_wf_hostMem (s : State) (v : Nat) (e : Event)
    (hw : memWf s.hostMem = true) : memWf (entryOnce s v e).1.hostMem = true := by
  unfold entryOnce
  (repeat' (first | (split <;> try (rename_i h; first | (have e := pair_third h; clear h; subst e) | (have e := pair_snd h; have e2 := pair_fst h; clear h; subst e; try subst e2) | (have e := pair_fst h; clear h; subst e))) | (dsimp only; split))) <;> simp [hw]
@[simp] theorem ventEnter_wf_hostMem (s : State) (v : Nat) (e : Event)
    (hw : memWf s.hostMem = true) : memWf (ventEnter s v e).hostMem = true := by
  unfold ventEnter
  split
  · simp [hw]
  · split
    · next s1 h => rw [pair_fst h]; simp [hw]
    · next s1 a h =>
      have f : s1 = (entryOnce s v e).1 := pair_fst h
      clear h
      have h1 : memWf s1.hostMem = true := by rw [f]; simp [hw]
      clear f
      split
      · simp [h1]
      · dsimp only
        split
        · simp [h1]
        · split
          · next s3 h => rw [pair_fst h]; simp [h1]
          · next s3 b h => rw [pair_fst h]; simp [h1]
@[simp] theorem takeAsync_wf_hostMem (s : State) (v : Nat)
    (hw : memWf s.hostMem = true) : memWf (takeAsync s v).hostMem = true := by
  unfold takeAsync
  (repeat' (first | (split <;> try (rename_i h; first | (have e := pair_third h; clear h; subst e) | (have e := pair_snd h; have e2 := pair_fst h; clear h; subst e; try subst e2) | (have e := pair_fst h; clear h; subst e))) | (dsimp only; split))) <;>
    (repeat' (first | assumption | apply ventEnter_wf_hostMem | apply memWf_ite | apply memWf_memPuts | apply memWf_memZero | apply foldl_wf_hostMem | apply foldl_snd_wf_hostMem | (intro _ _ _) | (intro _ _) | (simp only [*]; done) | simp | split))

/-! ### Machine/VentEval.lean -/

@[simp] theorem farPiece_wf_mem (s : State) (v : Nat) (p : FarPiece)
    (hw : memWf s.mem = true) : memWf (farPiece s v p).2.2.mem = true := by
  unfold farPiece
  (repeat' (first | (split <;> try (rename_i h; first | (have e := pair_third h; clear h; subst e) | (have e := pair_snd h; have e2 := pair_fst h; clear h; subst e; try subst e2) | (have e := pair_fst h; clear h; subst e))) | (dsimp only; split))) <;> simp [hw]
@[simp] theorem farPiece_wf_hostMem (s : State) (v : Nat) (p : FarPiece)
    (hw : memWf s.hostMem = true) : memWf (farPiece s v p).2.2.hostMem = true := by
  unfold farPiece
  (repeat' (first | (split <;> try (rename_i h; first | (have e := pair_third h; clear h; subst e) | (have e := pair_snd h; have e2 := pair_fst h; clear h; subst e; try subst e2) | (have e := pair_fst h; clear h; subst e))) | (dsimp only; split))) <;> simp [hw]
@[simp] theorem farReads_wf_mem (s : State) (v : Nat) (l : FarLoad)
    (hw : memWf s.mem = true) : memWf (farReads s v l).2.mem = true := by
  unfold farReads
  (repeat' (first | (split <;> try (rename_i h; first | (have e := pair_third h; clear h; subst e) | (have e := pair_snd h; have e2 := pair_fst h; clear h; subst e; try subst e2) | (have e := pair_fst h; clear h; subst e))) | (dsimp only; split))) <;>
    (repeat' (first | assumption | apply farPiece_wf_mem | apply memWf_ite | apply memWf_memPuts | apply memWf_memZero | apply foldl_wf_mem | apply foldl_snd_wf_mem | (intro _ _ _) | (intro _ _) | (simp only [*]; done) | simp | split))
@[simp] theorem farReads_wf_hostMem (s : State) (v : Nat) (l : FarLoad)
    (hw : memWf s.hostMem = true) : memWf (farReads s v l).2.hostMem = true := by
  unfold farReads
  (repeat' (first | (split <;> try (rename_i h; first | (have e := pair_third h; clear h; subst e) | (have e := pair_snd h; have e2 := pair_fst h; clear h; subst e; try subst e2) | (have e := pair_fst h; clear h; subst e))) | (dsimp only; split))) <;>
    (repeat' (first | assumption | apply farPiece_wf_hostMem | apply memWf_ite | apply memWf_memPuts | apply memWf_memZero | apply foldl_wf_hostMem | apply foldl_snd_wf_hostMem | (intro _ _ _) | (intro _ _) | (simp only [*]; done) | simp | split))
@[simp] theorem farOutcome_wf_mem (s : State) (v : Nat) (l : FarLoad)
    (hw : memWf s.mem = true) : memWf (farOutcome s v l).2.2.mem = true := by
  simp [farOutcome, *]
@[simp] theorem farOutcome_wf_hostMem (s : State) (v : Nat) (l : FarLoad)
    (hw : memWf s.hostMem = true) : memWf (farOutcome s v l).2.2.hostMem = true := by
  simp [farOutcome, *]
@[simp] theorem farLand_wf_mem (s : State) (v : Nat) (l : FarLoad)
    (hw : memWf s.mem = true) : memWf (farLand s v l).mem = true := by
  unfold farLand
  (repeat' (first | (split <;> try (rename_i h; first | (have e := pair_third h; clear h; subst e) | (have e := pair_snd h; have e2 := pair_fst h; clear h; subst e; try subst e2) | (have e := pair_fst h; clear h; subst e))) | (dsimp only; split))) <;>
    (repeat' (first | assumption | apply farOutcome_wf_mem | apply memWf_ite | apply memWf_memPuts | apply memWf_memZero | apply foldl_wf_mem | apply foldl_snd_wf_mem | (intro _ _ _) | (intro _ _) | (simp only [*]; done) | simp | split))
@[simp] theorem farLand_wf_hostMem (s : State) (v : Nat) (l : FarLoad)
    (hw : memWf s.hostMem = true) : memWf (farLand s v l).hostMem = true := by
  unfold farLand
  (repeat' (first | (split <;> try (rename_i h; first | (have e := pair_third h; clear h; subst e) | (have e := pair_snd h; have e2 := pair_fst h; clear h; subst e; try subst e2) | (have e := pair_fst h; clear h; subst e))) | (dsimp only; split))) <;>
    (repeat' (first | assumption | apply farOutcome_wf_hostMem | apply memWf_ite | apply memWf_memPuts | apply memWf_memZero | apply foldl_wf_hostMem | apply foldl_snd_wf_hostMem | (intro _ _ _) | (intro _ _) | (simp only [*]; done) | simp | split))
@[simp] theorem codeRead_wf_hostMem (s : State) (v m n : Nat)
    (hw : memWf s.hostMem = true) : memWf (codeRead s v m n).2.2.hostMem = true := by
  unfold codeRead
  (repeat' split) <;> simp [*]
@[simp] theorem strCopy_wf_mem (c : Ctx) (k : OpKind) (sz d a : Nat) (n0 : Nat) (n1 : Nat) (s : State)
    (hw : memWf s.mem = true) : memWf (strCopy c k sz d a n0 n1 s).mem = true := by
  induction n0 generalizing n1 s with
  | zero => simpa [strCopy] using hw
  | succ n ih => unfold strCopy; (repeat' (first | (split <;> try (rename_i h; first | (have e := pair_third h; clear h; subst e) | (have e := pair_snd h; have e2 := pair_fst h; clear h; subst e; try subst e2) | (have e := pair_fst h; clear h; subst e))) | (dsimp only; split))) <;> first | (simp [ih, hw]; done) | (simp (disch := first | assumption | (intros; (repeat' (first | (split <;> try (rename_i h; first | (have e := pair_third h; clear h; subst e) | (have e := pair_snd h; have e2 := pair_fst h; clear h; subst e; try subst e2) | (have e := pair_fst h; clear h; subst e))) | (dsimp only; split))) <;> simp (disch := assumption); done) | (intros; simp (disch := assumption) [*]; done)) [ih, hw]; done)

/-! ### Machine/VentRun.lean -/

@[simp] theorem fetchLine_wf_hostMem (s : State) (v a : Nat)
    (hw : memWf s.hostMem = true) : memWf (fetchLine s v a).2.hostMem = true := by
  unfold fetchLine
  (repeat' (first | (split <;> try (rename_i h; first | (have e := pair_third h; clear h; subst e) | (have e := pair_snd h; have e2 := pair_fst h; clear h; subst e; try subst e2) | (have e := pair_fst h; clear h; subst e))) | (dsimp only; split))) <;> simp [hw]
@[simp] theorem fetchBundle_wf_hostMem (s : State) (v pc words : Nat)
    (hw : memWf s.hostMem = true) : memWf (fetchBundle s v pc words).hostMem = true := by
  unfold fetchBundle
  (repeat' (first | (split <;> try (rename_i h; first | (have e := pair_third h; clear h; subst e) | (have e := pair_snd h; have e2 := pair_fst h; clear h; subst e; try subst e2) | (have e := pair_fst h; clear h; subst e))) | (dsimp only; split))) <;> simp [hw]
/-- An effect that leaves memory in canonical form. -/
def Eff.Wf : Eff → Prop
  | .memNow m _ _ => memWf m = true
  | _ => True

/-- Effects each of which leaves memory in canonical form. -/
def EffsWf (effs : List Eff) : Prop := ∀ x ∈ effs, x.Wf

@[simp] theorem EffsWf_nil : EffsWf [] := by intro x h; cases h

@[simp] theorem EffsWf_cons (x : Eff) (l : List Eff) : EffsWf (x :: l) ↔ x.Wf ∧ EffsWf l := List.forall_mem_cons

@[simp] theorem EffsWf_append (x y : List Eff) : EffsWf (x ++ y) ↔ EffsWf x ∧ EffsWf y := List.forall_mem_append

@[simp] theorem EffsWf_ite (c : Prop) [Decidable c] (x y : List Eff) : EffsWf (if c then x else y) ↔ (if c then EffsWf x else EffsWf y) := by
  split <;> rfl

theorem EffsWf_flatMap {α : Type} (l : List α) (f : α → List Eff) (h : ∀ a ∈ l, EffsWf (f a)) : EffsWf (l.flatMap f) := by
  intro x hx
  obtain ⟨a, ha, hx⟩ := List.mem_flatMap.mp hx
  exact h a ha x hx

theorem EffsWf_map {α : Type} (l : List α) (f : α → Eff) (h : ∀ a, (f a).Wf) : EffsWf (l.map f) := by
  intro x hx
  obtain ⟨a, _, rfl⟩ := List.mem_map.mp hx
  exact h a

@[simp] theorem storeAt_wf (c : Ctx) (a : Nat) (bs : List Byte) : EffsWf (storeAt c a bs) := by
  unfold storeAt
  apply EffsWf_map
  intro p
  dsimp only
  split <;> simp [Eff.Wf]
@[simp] theorem longEff_wf (c : Ctx) (ws : List RegW) (f : Nat) : EffsWf (longEff c ws f) := by
  unfold longEff; split <;> simp [Eff.Wf]
@[simp] theorem loadParts_wf (c : Ctx) (d : Nat) (dest : FarDest) (parts : List LPart) : EffsWf (loadParts c d dest parts).effs := by
  unfold loadParts
  dsimp only
  (repeat' split) <;> simp [Eff.Wf]
theorem evalRm_wf (c : Ctx) (k : OpKind) (e : OpEnc) : EffsWf (evalRm c k e).effs := by
  unfold evalRm
  dsimp only
  (repeat' split) <;> simp [Eff.Wf] <;> (repeat' split) <;> simp [Eff.Wf]
theorem evalR_wf (c : Ctx) (k : OpKind) (e : OpEnc) : EffsWf (evalR c k e).effs := by
  unfold evalR evalFlong
  dsimp only
  (repeat' split) <;> simp [Eff.Wf]
theorem evalM_wf (c : Ctx) (k : OpKind) (e : OpEnc) : EffsWf (evalM c k e).effs := by
  unfold evalM
  dsimp only
  (repeat' split) <;> simp [Eff.Wf] <;> (repeat' split) <;> simp [Eff.Wf]
theorem evalLB_wf (c : Ctx) (k : OpKind) (e : OpEnc) : EffsWf (evalLB c k e).effs := by
  unfold evalLB
  dsimp only
  (repeat' split) <;> simp [Eff.Wf]
theorem evalLoop_wf (c : Ctx) (e : OpEnc) : EffsWf (evalLoop c e).effs := by
  unfold evalLoop
  dsimp only
  (repeat' split) <;> simp [Eff.Wf]
theorem evalS_wf (c : Ctx) (k : OpKind) (e : OpEnc) : EffsWf (evalS c k e).effs := by
  unfold evalS
  dsimp only
  (repeat' split) <;> simp [Eff.Wf]
theorem evalSys_wf (c : Ctx) (k : OpKind) (e : OpEnc) : EffsWf (evalSys c k e).effs := by
  unfold evalSys
  dsimp only
  (repeat' split) <;> simp [Eff.Wf]
theorem evalP_wf (c : Ctx) (k : OpKind) (e : OpEnc) : EffsWf (evalP c k e).effs := by
  unfold evalP; simp [Eff.Wf]
theorem strCopy_wf (c : Ctx) (k : OpKind) (sz d a n j : Nat) (s : State) (h : memWf s.mem = true) :
    memWf (strCopy c k sz d a n j s).mem = true := by
  induction n generalizing j s with
  | zero => exact h
  | succ n ih => exact ih _ _ (by simp [h])
theorem evalX_wf (c : Ctx) (k : OpKind) (e : OpEnc) (stop : Option Nat) (h : memWf c.s.mem = true) :
    EffsWf (evalX c k e stop).effs := by
  have hs := fun sz d a n j => strCopy_wf c k sz d a n j c.s h
  unfold evalX
  extract_lets sz cn rd ra cnt d a two al regs step bad evt refuse done
  have hd : ∀ n b, EffsWf (done n b).effs := by
    intro n b
    simp only [done]
    split <;> simp [Eff.Wf, hs]
  have hr : ∀ j, EffsWf (refuse j).effs := by
    intro j
    simp [refuse]
  clear_value done refuse evt bad
  split
  · simp
  · rename_i lim hit _
    clear_value hit lim
    cases hit <;> cases bad <;> cases evt <;> dsimp only <;> (repeat' split) <;> first | exact hd _ _ | exact hr _
theorem evalK_wf (c : Ctx) (k : OpKind) (e : OpEnc) (stop : Option Nat) : EffsWf (evalK c k e stop).effs := by
  unfold evalK; dsimp only; (repeat' split) <;> simp [Eff.Wf]
theorem evalVF_wf (c : Ctx) (k : OpKind) (e : OpEnc) : EffsWf (evalVF c k e).effs := by
  unfold evalVF; dsimp only; (repeat' split) <;> simp [Eff.Wf]
theorem evalF_wf (c : Ctx) (k : OpKind) (e : OpEnc) : EffsWf (evalF c k e).effs := by
  unfold evalF; dsimp only; (repeat' split) <;> simp [Eff.Wf]
theorem evalVI_wf (c : Ctx) (k : OpKind) (e : OpEnc) : EffsWf (evalVI c k e).effs := by
  unfold evalVI; dsimp only; (repeat' split) <;> simp [Eff.Wf] <;> (repeat' split) <;> simp [Eff.Wf]
theorem evalOp_wf (c : Ctx) (o : BOp) (h : memWf c.s.mem = true) : EffsWf (evalOp c o).effs := by
  unfold evalOp
  (repeat' split) <;> first
    | exact evalRm_wf _ _ _
    | exact evalR_wf _ _ _
    | exact evalM_wf _ _ _
    | exact evalLB_wf _ _ _
    | exact evalLoop_wf _ _
    | exact evalS_wf _ _ _
    | exact evalSys_wf _ _ _
    | exact evalP_wf _ _ _
    | exact evalX_wf _ _ _ _ h
    | exact evalK_wf _ _ _ _
    | exact evalF_wf _ _ _
    | exact evalVF_wf _ _ _
    | exact evalVI_wf _ _ _
    | exact EffsWf_nil
theorem vmemMake_wf (c : Ctx) (m : VMem) (lo hi : Nat) : EffsWf (vmemMake c m lo hi).effs := by
  unfold vmemMake
  dsimp only
  (repeat' split) <;> first
    | (simp [Eff.Wf]; done)
    | (apply EffsWf_flatMap; intro a _; simp)

@[simp] theorem commitEff_wf_mem (v : Nat) (s : State) (x : Eff) (hx : x.Wf) (hw : memWf s.mem = true) :
    memWf (commitEff v s x).mem = true := by
  unfold commitEff
  cases x <;> dsimp only <;> (repeat' split) <;> (try subst_vars) <;> first
    | (simp [hw]; done)
    | exact hx
    | (apply foldl_wf_mem _ (fun s a h => writeBack_wf_mem s v a h); simp [hw]; done)
    | (rename_i h; rw [(show _ = _ from pair_third h)]; simp [hw])
    | skip
@[simp] theorem commitEff_wf_hostMem (v : Nat) (s : State) (x : Eff)
    (hw : memWf s.hostMem = true) : memWf (commitEff v s x).hostMem = true := by
  unfold commitEff
  (repeat' (first | (split <;> try (rename_i h; first | (have e := pair_third h; clear h; subst e) | (have e := pair_snd h; have e2 := pair_fst h; clear h; subst e; try subst e2) | (have e := pair_fst h; clear h; subst e))) | (dsimp only; split))) <;>
    (repeat' (first | assumption | apply matRead_wf_hostMem | apply writeBack_wf_hostMem | apply dcAlloc_wf_hostMem | apply farLand_wf_hostMem | apply fetchBundle_wf_hostMem | apply memWf_ite | apply memWf_memPuts | apply memWf_memZero | apply foldl_wf_hostMem | apply foldl_snd_wf_hostMem | (intro _ _ _) | (intro _ _) | (simp only [*]; done) | simp | split))
@[simp] theorem answerSync_wf_mem (v : Nat) (n0 : List Eff) (s : State) (hw : memWf s.mem = true) :
    memWf (answerSync v n0 s).1.mem = true := by
  induction n0 generalizing s with
  | nil => exact hw
  | cons x r ih =>
    cases x with
    | sync l => exact ih _ (farOutcome_wf_mem s v l hw)
    | _ => exact ih _ hw

/-- Reordering a bundle's far loads first drops and adds none of its effects. -/
theorem farFirst_wf {effs : List Eff} (h : EffsWf effs) : EffsWf (farFirst effs) := by
  intro x hx
  rcases List.mem_append.mp hx with hx | hx <;> exact h x (List.mem_filter.mp hx).1
theorem answerSync_effs_wf (v : Nat) (n0 : List Eff) (s : State) (h : EffsWf n0) : EffsWf (answerSync v n0 s).2 := by
  induction n0 generalizing s with
  | nil => exact EffsWf_nil
  | cons x r ih =>
    rw [EffsWf_cons] at h
    cases x <;> simp [answerSync, Eff.Wf, ih _ h.2] <;> exact h.1
@[simp] theorem answerSync_wf_hostMem (v : Nat) (n0 : List Eff) (s : State) (hw : memWf s.hostMem = true) :
    memWf (answerSync v n0 s).1.hostMem = true := by
  induction n0 generalizing s with
  | nil => exact hw
  | cons x r ih =>
    cases x with
    | sync l => exact ih _ (farOutcome_wf_hostMem s v l hw)
    | _ => exact ih _ hw
@[simp] theorem raiseFault_wf_mem (s0 : State) (v lvl : Nat) (x : Chosen)
    (hw : memWf s0.mem = true) : memWf (raiseFault s0 v lvl x).mem = true := by
  unfold raiseFault
  (repeat' (first | (split <;> try (rename_i h; first | (have e := pair_third h; clear h; subst e) | (have e := pair_snd h; have e2 := pair_fst h; clear h; subst e; try subst e2) | (have e := pair_fst h; clear h; subst e))) | (dsimp only; split))) <;> simp [hw]
@[simp] theorem raiseFault_wf_hostMem (s0 : State) (v lvl : Nat) (x : Chosen)
    (hw : memWf s0.hostMem = true) : memWf (raiseFault s0 v lvl x).hostMem = true := by
  unfold raiseFault
  (repeat' (first | (split <;> try (rename_i h; first | (have e := pair_third h; clear h; subst e) | (have e := pair_snd h; have e2 := pair_fst h; clear h; subst e; try subst e2) | (have e := pair_fst h; clear h; subst e))) | (dsimp only; split))) <;> simp [hw]
theorem commitAll_wf_mem (s : State) (v : Nat) (effs : List Eff) (hx : EffsWf effs) (hw : memWf s.mem = true) :
    memWf (commitAll s v effs).mem = true := by
  unfold commitAll
  induction effs generalizing s with
  | nil => exact hw
  | cons e r ih =>
    rw [EffsWf_cons] at hx
    exact ih _ hx.2 (commitEff_wf_mem v s e hx.1 hw)
@[simp] theorem commitAll_wf_hostMem (s : State) (v : Nat) (effs : List Eff)
    (hw : memWf s.hostMem = true) : memWf (commitAll s v effs).hostMem = true := by
  unfold commitAll
  (repeat' (first | (split <;> try (rename_i h; first | (have e := pair_third h; clear h; subst e) | (have e := pair_snd h; have e2 := pair_fst h; clear h; subst e; try subst e2) | (have e := pair_fst h; clear h; subst e))) | (dsimp only; split))) <;>
    (repeat' (first | assumption | apply commitEff_wf_hostMem | apply memWf_ite | apply memWf_memPuts | apply memWf_memZero | apply foldl_wf_hostMem | apply foldl_snd_wf_hostMem | (intro _ _ _) | (intro _ _) | (simp only [*]; done) | simp | split))
@[simp] theorem yieldTo_wf (later : List RegW) (x : Eff) : (yieldTo later x).Wf ↔ x.Wf := by
  unfold yieldTo
  split
  · rfl
  · cases x <;> simp [Eff.Wf]
theorem laterWins_wf (vl : Nat) (rs : List OpRes) (h : EffsWf (rs.flatMap (fun r => r.effs))) : EffsWf (laterWins vl rs).1 := by
  induction rs with
  | nil => simp [laterWins]
  | cons r rest ih =>
    rw [List.flatMap_cons, EffsWf_append] at h
    unfold laterWins
    rw [EffsWf_append]
    refine ⟨fun x hx => ?_, ih h.2⟩
    obtain ⟨y, hy, rfl⟩ := List.mem_map.mp hx
    exact (yieldTo_wf _ y).mpr (h.1 y hy)
/-- A bundle's effects are those of its operations, less what yields. -/
theorem bundleEffs_wf (s : State) (rs : List OpRes) (h : EffsWf (rs.flatMap (fun r => r.effs))) : EffsWf (bundleEffs s rs) :=
  farFirst_wf (laterWins_wf _ rs h)
theorem completeBundle_wf_mem (s0 : State) (v lvl pc words : Nat) (rs : List OpRes) (trap : Option Event)
    (hx : EffsWf (rs.flatMap (fun r => r.effs))) (hw : memWf s0.mem = true) :
    memWf (completeBundle s0 v lvl pc words rs trap).mem = true := by
  have h := commitAll_wf_mem (answerSync v (bundleEffs s0 rs) s0).1 v _
    (answerSync_effs_wf v _ s0 (bundleEffs_wf s0 rs hx)) (by simp [hw])
  unfold completeBundle
  generalize answerSync v (bundleEffs s0 rs) s0 = r at h ⊢
  obtain ⟨s1, effs⟩ := r
  dsimp only at h ⊢
  (repeat' (first | split | (dsimp only; split))) <;> simp [h]
@[simp] theorem completeBundle_wf_hostMem (s0 : State) (v lvl pc words : Nat) (rs : List OpRes) (trap : Option Event)
    (hw : memWf s0.hostMem = true) : memWf (completeBundle s0 v lvl pc words rs trap).hostMem = true := by
  have h : memWf (commitAll (answerSync v (bundleEffs s0 rs) s0).1 v
      (answerSync v (bundleEffs s0 rs) s0).2).hostMem = true := by simp [hw]
  unfold completeBundle
  generalize answerSync v (bundleEffs s0 rs) s0 = r at h ⊢
  obtain ⟨s1, effs⟩ := r
  dsimp only at h ⊢
  (repeat' (first | split | (dsimp only; split))) <;> simp [h]
theorem stopBundle_wf_mem (s0 : State) (v : Nat) (rs : List OpRes) (hx : EffsWf (rs.flatMap (fun r => r.effs)))
    (hw : memWf s0.mem = true) : memWf (stopBundle s0 v rs).mem = true := by
  have h := commitAll_wf_mem s0 v _ hx hw
  simp [stopBundle, h]
@[simp] theorem stopBundle_wf_hostMem (s0 : State) (v : Nat) (rs : List OpRes)
    (hw : memWf s0.hostMem = true) : memWf (stopBundle s0 v rs).hostMem = true := by
  simp [stopBundle, *]
/-- A bundle that issues keeps the canonical form of memory. -/
theorem issueBundle_wf_mem (s : State) (v words : Nat) (vt : Vent) (on : List (BOp × Nat × Nat)) (t : State)
    (hx : issueBundle s v words vt on = some t) (hs : memWf s.mem = true) : memWf t.mem = true := by
  unfold issueBundle at hx
  extract_lets pc lvl c isV vres ms top circ vf rs make vs chosen others ordered upd all res at hx
  have hrs : ∀ r ∈ rs, EffsWf r.1.effs := by
    intro r hr
    obtain ⟨p, _, rfl⟩ := List.mem_map.mp hr
    exact evalOp_wf c p.1 hs
  have hmk : ∀ hi, ∀ r ∈ make hi, EffsWf r.1.effs := by
    intro hi r hr
    obtain ⟨p, _, rfl⟩ := List.mem_map.mp hr
    exact vmemMake_wf _ _ _ _
  have hres : EffsWf (res.flatMap (fun r => r.effs)) := by
    apply EffsWf_flatMap
    intro r hr
    obtain ⟨p, hp, rfl⟩ := List.mem_map.mp hr
    obtain ⟨i, _, hp⟩ := List.mem_flatMap.mp hp
    have hp := (List.mem_filter.mp hp).1
    rcases List.mem_append.mp hp with hp | hp
    · rcases List.mem_append.mp hp with hp | hp
      · exact hrs p hp
      · exact hmk _ p hp
    · obtain ⟨m, _, rfl⟩ := List.mem_map.mp hp
      dsimp only
      split <;> simp [Eff.Wf]
  have hpart : ∀ k, EffsWf (((make k).map (fun r => r.1)).flatMap (fun r => r.effs)) := fun k => by
    apply EffsWf_flatMap
    intro r hr
    obtain ⟨p, hp, rfl⟩ := List.mem_map.mp hr
    exact hmk k p hp
  clear_value res all upd ordered others chosen vs make rs vf circ top ms
  (repeat' (first | split at hx | (dsimp only at hx; split at hx))) <;> first
    | (cases hx; done)
    | (obtain rfl := Option.some.inj hx; exact stopBundle_wf_mem _ _ _ hres hs)
    | (obtain rfl := Option.some.inj hx; exact completeBundle_wf_mem _ _ _ _ _ _ _ hres hs)
    | (obtain rfl := tryRaise_some hx; exact raiseFault_wf_mem _ _ _ _ hs)
    | (obtain rfl := Option.some.inj hx; exact raiseFault_wf_mem _ _ _ _ hs)
    | (obtain rfl := Option.some.inj hx
       apply raiseFault_wf_mem
       apply commitAll_wf_mem _ _ _ _ (by simp [hs])
       rw [EffsWf_append]
       exact ⟨answerSync_effs_wf v _ s (bundleEffs_wf s _ (hpart _)), by simp [Eff.Wf]⟩)
/-- A bundle that issues keeps the canonical form of the host's memory. -/
theorem issueBundle_wf_hostMem (s : State) (v words : Nat) (vt : Vent) (on : List (BOp × Nat × Nat)) (t : State)
    (hx : issueBundle s v words vt on = some t) (hw : memWf s.hostMem = true) : memWf t.hostMem = true := by
  unfold issueBundle at hx
  extract_lets pc lvl c isV vres ms top circ vf rs make vs chosen others ordered upd all res at hx
  clear_value res all upd ordered others chosen vs make rs vf circ top ms
  (repeat' (first | split at hx | (dsimp only at hx; split at hx))) <;> first
    | (cases hx; done)
    | (obtain rfl := tryRaise_some hx; simp [hw]; done)
    | (obtain rfl := Option.some.inj hx; simp [hw]; done)
    | (obtain rfl := Option.some.inj hx; apply raiseFault_wf_hostMem; simp [hw]; done)
/-- A bundle that executes keeps the canonical form of memory. -/
theorem runBundle_wf_mem (s0 : State) (v : Nat) (b : List BOp) (t : State) (hx : runBundle s0 v b = some t)
    (hw : memWf s0.mem = true) : memWf t.mem = true := by
  unfold runBundle at hx
  extract_lets vt1 s1 pc lvl words fetch s at hx
  have hs : memWf s.mem = true := by
    simp only [s]
    split <;> simp [s1, hw]
  clear_value s
  split at hx
  · cases hx
  · split at hx
    · obtain rfl := tryRaise_some hx; simp [s1, hw]
    · split at hx
      · cases hx
      · split at hx
        · obtain rfl := tryRaise_some hx; simp [hs]
        · split at hx
          · cases hx
          · exact issueBundle_wf_mem _ _ _ _ _ _ hx hs
/-- A bundle that executes keeps the canonical form of the host's memory. -/
theorem runBundle_wf_hostMem (s0 : State) (v : Nat) (b : List BOp) (t : State) (hx : runBundle s0 v b = some t)
    (hw : memWf s0.hostMem = true) : memWf t.hostMem = true := by
  unfold runBundle at hx
  extract_lets vt1 s1 pc lvl words fetch s at hx
  have hs : memWf s.hostMem = true := by
    simp only [s]
    split <;> simp [s1, hw]
  clear_value s
  split at hx
  · cases hx
  · split at hx
    · obtain rfl := tryRaise_some hx; simp [s1, hw]
    · split at hx
      · cases hx
      · split at hx
        · obtain rfl := tryRaise_some hx; simp [hs]
        · split at hx
          · cases hx
          · exact issueBundle_wf_hostMem _ _ _ _ _ _ hx hs
@[simp] theorem offerOp_wf_mem (s : State) (v : Nat) (k : OpKind) (e : OpEnc) (stop : Option Nat)
    (hw : memWf s.mem = true) : memWf (offerOp s v k e stop).mem = true := by
  unfold offerOp
  (repeat' (first | (split <;> try (rename_i h; first | (have e := pair_third h; clear h; subst e) | (have e := pair_snd h; have e2 := pair_fst h; clear h; subst e; try subst e2) | (have e := pair_fst h; clear h; subst e))) | (dsimp only; split))) <;>
    (repeat' (first | assumption | (refine runBundle_wf_mem _ _ _ _ ‹_› ?_) | apply memWf_ite | apply memWf_memPuts | apply memWf_memZero | apply foldl_wf_mem | apply foldl_snd_wf_mem | (intro _ _ _) | (intro _ _) | (simp only [*]; done) | simp | split))
@[simp] theorem offerOp_wf_hostMem (s : State) (v : Nat) (k : OpKind) (e : OpEnc) (stop : Option Nat)
    (hw : memWf s.hostMem = true) : memWf (offerOp s v k e stop).hostMem = true := by
  unfold offerOp
  (repeat' (first | (split <;> try (rename_i h; first | (have e := pair_third h; clear h; subst e) | (have e := pair_snd h; have e2 := pair_fst h; clear h; subst e; try subst e2) | (have e := pair_fst h; clear h; subst e))) | (dsimp only; split))) <;>
    (repeat' (first | assumption | (refine runBundle_wf_hostMem _ _ _ _ ‹_› ?_) | apply memWf_ite | apply memWf_memPuts | apply memWf_memZero | apply foldl_wf_hostMem | apply foldl_snd_wf_hostMem | (intro _ _ _) | (intro _ _) | (simp only [*]; done) | simp | split))

/-! ### Machine/VentEvents.lean -/

@[simp] theorem absorbFar_wf_hostMem (s : State) (v : Nat) (l : FarLoad)
    (hw : memWf s.hostMem = true) : memWf (absorbFar s v l).hostMem = true := by
  unfold absorbFar
  (repeat' (first | (split <;> try (rename_i h; first | (have e := pair_third h; clear h; subst e) | (have e := pair_snd h; have e2 := pair_fst h; clear h; subst e; try subst e2) | (have e := pair_fst h; clear h; subst e))) | (dsimp only; split))) <;>
    (repeat' (first | assumption | apply matRead_wf_hostMem | apply memWf_ite | apply memWf_memPuts | apply memWf_memZero | apply foldl_wf_hostMem | apply foldl_snd_wf_hostMem | (intro _ _ _) | (intro _ _) | (simp only [*]; done) | simp | split))
@[simp] theorem farResponse_wf_mem (s : State) (v n : Nat)
    (hw : memWf s.mem = true) : memWf (farResponse s v n).mem = true := by
  unfold farResponse
  (repeat' split) <;> simp [*]
@[simp] theorem farResponse_wf_hostMem (s : State) (v n : Nat)
    (hw : memWf s.hostMem = true) : memWf (farResponse s v n).hostMem = true := by
  unfold farResponse
  (repeat' split) <;> simp [*]

end Sys2Proof.Machine
end

