-- ==== Sys2Proof/Laws/MemoryPath.lean ====
section
/-! SUPPORT. Each shared operation of the frame path keeps the canonical form of the memories. -/

namespace Sys2Proof.Machine

/-! ### Machine/Frames.lean -/

@[simp] theorem writeCells_wf_mem (s : State) (cells : List Nat) (bs : List Byte)
    (hw : memWf s.mem = true) : memWf (writeCells s cells bs).mem = true := by
  simp [writeCells, *]
@[simp] theorem setFrameBytes_wf_mem (s : State) (n : Nat) (cells : List Nat) (bs : List Byte)
    (hw : memWf s.mem = true) : memWf (setFrameBytes s n cells bs).mem = true := by
  simp [setFrameBytes, *]

/-! ### Machine/Intake.lean -/

@[simp] theorem roleAlarm_wf_hostMem (s : State) (src code : Nat)
    (hw : memWf s.hostMem = true) : memWf (roleAlarm s src code).hostMem = true := by
  unfold roleAlarm
  (repeat' split) <;> simp [*]
theorem intakeFrame_wf_mem (s : State) (src func : Nat) (bs : List Byte) (cells : List Nat) (t : State) (hx : intakeFrame s src func bs cells = some t) (hw : memWf s.mem = true) :
    memWf t.mem = true := by
  unfold intakeFrame at hx
  (repeat' (first | (split at hx <;> try (rename_i h; first | (have e := pair_third h; clear h; subst e) | (have e := pair_snd h; have e2 := pair_fst h; clear h; subst e; try subst e2) | (have e := pair_fst h; clear h; subst e))) | (dsimp only at hx; split at hx))) <;> first
    | (cases hx; done)
    | (obtain rfl := Option.some.inj hx; simp [hw]; done)
theorem intakeFrame_wf_hostMem (s : State) (src func : Nat) (bs : List Byte) (cells : List Nat) (t : State) (hx : intakeFrame s src func bs cells = some t) (hw : memWf s.hostMem = true) :
    memWf t.hostMem = true := by
  unfold intakeFrame at hx
  (repeat' (first | (split at hx <;> try (rename_i h; first | (have e := pair_third h; clear h; subst e) | (have e := pair_snd h; have e2 := pair_fst h; clear h; subst e; try subst e2) | (have e := pair_fst h; clear h; subst e))) | (dsimp only at hx; split at hx))) <;> first
    | (cases hx; done)
    | (obtain rfl := Option.some.inj hx; simp [hw]; done)
@[simp] theorem fromhostDone_wf_hostMem (s : State) (r : Nat) (x : Ring) (len : Nat)
    (hw : memWf s.hostMem = true) : memWf (fromhostDone s r x len).hostMem = true := by
  unfold fromhostDone
  (repeat' split) <;> simp [*]
@[simp] theorem deliverEntry_wf_mem (s : State) (v : Nat) (e : List Byte) (k : Byte)
    (hw : memWf s.mem = true) : memWf (deliverEntry s v e k).mem = true := by
  simp [deliverEntry, *]

/-! ### Machine/Qm.lean -/

@[simp] theorem spillWrite_wf_mem (s : State) (a : Nat) (bs : List Byte)
    (hw : memWf s.mem = true) : memWf (spillWrite s a bs).2.mem = true := by
  simp [spillWrite, *]
@[simp] theorem storeQueue_wf_mem (s : State) (q : Nat)
    (hw : memWf s.mem = true) : memWf (storeQueue s q).mem = true := by
  simp [storeQueue, *]
theorem cacheTake_wf_mem (s : State) (q : Nat) (t : State) (hx : cacheTake s q = some t) (hw : memWf s.mem = true) :
    memWf t.mem = true := by
  unfold cacheTake at hx
  simp only [] at hx
  split at hx
  · obtain rfl := Option.some.inj hx; simp [hw]
  · split at hx
    · obtain rfl := Option.some.inj hx; simp [hw]
    · split at hx
      · obtain rfl := Option.some.inj hx; simp [hw]
      · cases hx
theorem spillFrame_wf_mem (s : State) (q n : Nat) (hw : memWf s.mem = true) : memWf ((spillFrame s q n).state s).mem = true := by
  unfold spillFrame
  dsimp only
  split
  · exact hw
  · next k o s1 h =>
    have F := spillPlace_frame _ _ _ _ _ _ h
    split
    · next s2 h2 => rw [pair_snd h2]; simp [SpillEnd.state, F, hw]
    · next s2 h2 => rw [pair_snd h2]; simp [SpillEnd.state, F, hw]
@[simp] theorem placeFrame_wf_mem (s : State) (q n : Nat) (hw : memWf s.mem = true) : memWf (placeFrame s q n).mem = true := by
  have F := spillFrame_wf_mem s q n hw
  unfold placeFrame
  dsimp only
  split
  · split <;> next h => rw [h] at F; simp [SpillEnd.state] at F; simp [F]
  · simp [hw]
@[simp] theorem qmEnter_wf_mem (s : State) (n : Nat)
    (hw : memWf s.mem = true) : memWf (qmEnter s n).mem = true := by
  unfold qmEnter
  dsimp only
  (repeat' split) <;> first
    | (simp [hw]; done)
    | (next h _ _ => have F := cacheTake_wf_mem _ _ _ h hw; simp [F]; done)
    | (next h _ => have F := cacheTake_wf_mem _ _ _ h hw; simp [F]; done)
@[simp] theorem rackRelease_wf_mem (s : State) (n : Nat)
    (hw : memWf s.mem = true) : memWf (rackRelease s n).mem = true := by
  unfold rackRelease
  (repeat' (first | (split <;> try (rename_i h; first | (have e := pair_third h; clear h; subst e) | (have e := pair_snd h; have e2 := pair_fst h; clear h; subst e; try subst e2) | (have e := pair_fst h; clear h; subst e))) | (dsimp only; split))) <;> simp [hw]
@[simp] theorem joinPiece_wf_mem (s : State) (n : Nat) (c : Carrier) (o : OpenPiece)
    (hw : memWf s.mem = true) : memWf (joinPiece s n c o).mem = true := by
  simp [joinPiece, *]
@[simp] theorem rackJob_wf_mem (s : State) (n : Nat)
    (hw : memWf s.mem = true) : memWf (rackJob s n).mem = true := by
  unfold rackJob
  (repeat' (first | (split <;> try (rename_i h; first | (have e := pair_third h; clear h; subst e) | (have e := pair_snd h; have e2 := pair_fst h; clear h; subst e; try subst e2) | (have e := pair_fst h; clear h; subst e))) | (dsimp only; split))) <;> simp [hw]

/-! ### Machine/Lce.lean -/

@[simp] theorem jobHeader_wf_hostMem (s : State) (n : Nat) (j : LceJob)
    (hw : memWf s.hostMem = true) : memWf (jobHeader s n j).2.hostMem = true := by
  unfold jobHeader
  (repeat' (first | (split <;> try (rename_i h; first | (have e := pair_third h; clear h; subst e) | (have e := pair_snd h; have e2 := pair_fst h; clear h; subst e; try subst e2) | (have e := pair_fst h; clear h; subst e))) | (dsimp only; split))) <;> simp [hw]
@[simp] theorem decryptBytes_wf_hostMem (s : State) (j : LceJob) (follows : Bool) (f : Frame) (hdr frame : List Byte)
    (hw : memWf s.hostMem = true) : memWf (decryptBytes s j follows f hdr frame).2.hostMem = true := by
  unfold decryptBytes
  (repeat' (first | (split <;> try (rename_i h; first | (have e := pair_third h; clear h; subst e) | (have e := pair_snd h; have e2 := pair_fst h; clear h; subst e; try subst e2) | (have e := pair_fst h; clear h; subst e))) | (dsimp only; split))) <;> simp [hw]
@[simp] theorem jobInputs_wf_hostMem (s : State) (n : Nat) (ecc staging follows : Bool) (j : LceJob) (f : Frame)
    (hw : memWf s.hostMem = true) : memWf (jobInputs s n ecc staging follows j f).2.hostMem = true := by
  unfold jobInputs
  (repeat' (first | (split <;> try (rename_i h; first | (have e := pair_third h; clear h; subst e) | (have e := pair_snd h; have e2 := pair_fst h; clear h; subst e; try subst e2) | (have e := pair_fst h; clear h; subst e))) | (dsimp only; split))) <;> simp [hw]
theorem jobOutput_wf_mem (s : State) (n : Nat) (cells : List Nat) (bs : List Byte) (t : State) (hx : jobOutput s n cells bs = some t) (hw : memWf s.mem = true) :
    memWf t.mem = true := by
  unfold jobOutput at hx
  (repeat' (first | (split at hx <;> try (rename_i h; first | (have e := pair_third h; clear h; subst e) | (have e := pair_snd h; have e2 := pair_fst h; clear h; subst e; try subst e2) | (have e := pair_fst h; clear h; subst e))) | (dsimp only at hx; split at hx))) <;> first
    | (cases hx; done)
    | (obtain rfl := Option.some.inj hx; simp [hw]; done)
@[simp] theorem lceStep_wf_mem (s : State) (n : Nat) (want : LceJob → Bool) (ecc : Bool) (cells : List Nat) (work : JobWork) (fin : LceJob → Option Carrier → Frame → Frame) (hk : ∀ s n e f j x, memWf s.mem = true → memWf (work s n e f j x).2.mem = true)
    (hw : memWf s.mem = true) : memWf (lceStep s n want ecc cells work fin).mem = true := by
  have K : ∀ {x : Opened} {s1 s0 : State} {n e f j y}, memWf s0.mem = true → work s0 n e f j y = (x, s1) → memWf s1.mem = true :=
    fun h0 h => by rw [pair_snd h]; exact hk _ _ _ _ _ _ h0
  unfold lceStep
  split
  · exact hw
  · dsimp only
    split
    · exact hw
    · split
      · simp [hw]
      · split
        · simp [hw]
        · split
          · simp [hw]
          · split
            · next h =>
              have F := K (by exact hw) h
              split <;> simp [F]
            · next h =>
              have F := K (by exact hw) h
              split
              · exact hw
              · next ho =>
                have G := jobOutput_wf_mem _ _ _ _ _ ho F
                simp [G]

/-! ### Machine/Glaze.lean -/

@[simp] theorem issueSlot_wf_mem (s : State) (r : SlotRec) (f : Frame) (cells : List Nat) (bs : List Byte)
    (hw : memWf s.mem = true) : memWf (issueSlot s r f cells bs).mem = true := by
  simp [issueSlot, *]
theorem closeContent_wf_mem (s : State) (p g n o : Nat) (sh : SlotShape) (cells : List Nat) (t : State) (hx : closeContent s p g n o sh cells = some t) (hw : memWf s.mem = true) :
    memWf t.mem = true := by
  unfold closeContent at hx
  (repeat' (first | (split at hx <;> try (rename_i h; first | (have e := pair_third h; clear h; subst e) | (have e := pair_snd h; have e2 := pair_fst h; clear h; subst e; try subst e2) | (have e := pair_fst h; clear h; subst e))) | (dsimp only at hx; split at hx))) <;> first
    | (cases hx; done)
    | (obtain rfl := Option.some.inj hx; simp [hw]; done)
theorem closeDummy_wf_mem (s : State) (p g : Nat) (sh : SlotShape) (cells : List Nat) (t : State) (hx : closeDummy s p g sh cells = some t) (hw : memWf s.mem = true) :
    memWf t.mem = true := by
  unfold closeDummy at hx
  (repeat' (first | (split at hx <;> try (rename_i h; first | (have e := pair_third h; clear h; subst e) | (have e := pair_snd h; have e2 := pair_fst h; clear h; subst e; try subst e2) | (have e := pair_fst h; clear h; subst e))) | (dsimp only at hx; split at hx))) <;> first
    | (cases hx; done)
    | (obtain rfl := Option.some.inj hx; simp [hw]; done)

end Sys2Proof.Machine
end

