-- ==== Sys2Proof/Laws/MemoryPart.lean ====
section
/-! SUPPORT. Each shared operation of admin commands, power, links and the host bridge keeps the canonical form of the
memories. -/

namespace Sys2Proof.Machine

/-! ### Machine/Adm.lean -/

@[simp] theorem haltRing_wf_hostMem (s : State) (r status : Nat) (late : Bool)
    (hw : memWf s.hostMem = true) : memWf (haltRing s r status late).hostMem = true := by
  unfold haltRing
  (repeat' split) <;> simp [*]
@[simp] theorem cqWrite_wf_hostMem (s : State) (c : AdmCmd) (status : Nat)
    (hw : memWf s.hostMem = true) : memWf (cqWrite s c status).hostMem = true := by
  unfold cqWrite
  (repeat' split) <;> simp [*]
@[simp] theorem admComplete_wf_hostMem (s : State)
    (hw : memWf s.hostMem = true) : memWf (admComplete s).hostMem = true := by
  unfold admComplete
  (repeat' split) <;> simp [*]
@[simp] theorem putAdm_wf_hostMem (s : State) (raddr : Nat) (bs : List Byte)
    (hw : memWf s.hostMem = true) : memWf (putAdm s raddr bs).hostMem = true := by
  simp [putAdm, *]
@[simp] theorem admResult_wf_hostMem (s : State) (d : AdmDesc) (bs : List Byte)
    (hw : memWf s.hostMem = true) : memWf (admResult s d bs).hostMem = true := by
  simp [admResult, *]

theorem admAccept_wf_mem (s : State) (d : AdmDesc) (p : Option (List Byte)) (q : AdmReq) (go : Nat → State → State)
    (hk : ∀ id s, memWf s.mem = true → memWf (go id s).mem = true)
    (hw : memWf s.mem = true) : memWf (admAccept s d p q go).mem = true := by
  unfold admAccept
  split
  · exact hw
  · split
    · exact hw
    · split
      · exact hw
      · split
        · repeat' split
          all_goals simp [hw]
        · exact hk _ _ (by simp [hw])
theorem admAccept_wf_hostMem (s : State) (d : AdmDesc) (p : Option (List Byte)) (q : AdmReq) (go : Nat → State → State)
    (hk : ∀ id s, memWf s.hostMem = true → memWf (go id s).hostMem = true)
    (hw : memWf s.hostMem = true) : memWf (admAccept s d p q go).hostMem = true := by
  unfold admAccept
  split
  · exact hw
  · split
    · exact hw
    · split
      · exact hw
      · split
        · repeat' split
          all_goals simp [hw]
        · exact hk _ _ (by simp [hw])

/-! ### Machine/Power.lean -/

@[simp] theorem resetPart_wf_mem (s : State) (src : BitVec 2) : memWf (resetPart s src).mem = true := rfl
@[simp] theorem resetPart_wf_hostMem (s : State) (src : BitVec 2)
    (hw : memWf s.hostMem = true) : memWf (resetPart s src).hostMem = true := by
  simp [resetPart, *]
@[simp] theorem shutdown_wf_hostMem (s : State) (n : Nat) (r : Byte)
    (hw : memWf s.hostMem = true) : memWf (shutdown s n r).hostMem = true := by
  unfold shutdown
  dsimp only
  apply postEvent_wf_hostMem
  apply foldl_wf_hostMem
  · intro s a h
    split <;> simp [h]
  · exact foldl_wf_hostMem _ (fun s a h => portDown_wf_hostMem s a 5 h) _ _ hw
@[simp] theorem thermalSample_wf_mem (s : State) (rs : List (Nat × Byte))
    (hw : memWf s.mem = true) : memWf (thermalSample s rs).mem = true := by
  unfold thermalSample
  (repeat' (first | (split <;> try (rename_i h; first | (have e := pair_third h; clear h; subst e) | (have e := pair_snd h; have e2 := pair_fst h; clear h; subst e; try subst e2) | (have e := pair_fst h; clear h; subst e))) | (dsimp only; split))) <;> simp [hw]
@[simp] theorem thermalSample_wf_hostMem (s : State) (rs : List (Nat × Byte))
    (hw : memWf s.hostMem = true) : memWf (thermalSample s rs).hostMem = true := by
  unfold thermalSample
  (repeat' (first | (split <;> try (rename_i h; first | (have e := pair_third h; clear h; subst e) | (have e := pair_snd h; have e2 := pair_fst h; clear h; subst e; try subst e2) | (have e := pair_fst h; clear h; subst e))) | (dsimp only; split))) <;> simp [hw]
@[simp] theorem loadSections_wf_mem (s : State) (c : Nat)
    (hw : memWf s.mem = true) : memWf (loadSections s c).mem = true := by
  unfold loadSections
  (repeat' (first | (split <;> try (rename_i h; first | (have e := pair_third h; clear h; subst e) | (have e := pair_snd h; have e2 := pair_fst h; clear h; subst e; try subst e2) | (have e := pair_fst h; clear h; subst e))) | (dsimp only; split))) <;>
    (repeat' (first | assumption | apply putDie_wf_mem | apply memWf_ite | apply memWf_memPuts | apply memWf_memZero | apply foldl_wf_mem | apply foldl_snd_wf_mem | (intro _ _ _) | (intro _ _) | (simp only [*]; done) | simp | split))
@[simp] theorem wipeCal_wf_mem (s : State) (c : Nat)
    (hw : memWf s.mem = true) : memWf (wipeCal s c).mem = true := by
  have h2 := foldl_wf_mem (fun s i => wipeVent s (8 * c + i)) (fun s a h => by simp [wipeVent, h]) (List.range 8) (zeroMem s (calBase c) 0x400000) (by simp [hw])
  simpa [wipeCal] using h2

/-! ### Machine/KeyWork.lean -/

@[simp] theorem workGen_wf_hostMem (s : State) (id c k : Nat) (raddr : DWord)
    (hw : memWf s.hostMem = true) : memWf (workGen s id c k raddr).hostMem = true := by
  simp [workGen, *]
@[simp] theorem workDecaps_wf_hostMem (s : State) (id c k q : Nat) (ct cs info : List Byte) (ld : SlotMeta × Nat × Word × DWord)
    (hw : memWf s.hostMem = true) : memWf (workDecaps s id c k q ct cs info ld).hostMem = true := by
  simp [workDecaps, *]
@[simp] theorem workXgen_wf_hostMem (s : State) (id c k : Nat) (raddr : DWord)
    (hw : memWf s.hostMem = true) : memWf (workXgen s id c k raddr).hostMem = true := by
  simp [workXgen, *]
@[simp] theorem workAgree_wf_hostMem (s : State) (id c k q : Nat) (toSlot : Bool) (peer : List Byte) (raddr : DWord)
    (hw : memWf s.hostMem = true) : memWf (workAgree s id c k q toSlot peer raddr).hostMem = true := by
  simp [workAgree, *]
@[simp] theorem workAttest_wf_hostMem (s : State) (id : Nat) (nonce : List Byte) (raddr : DWord)
    (hw : memWf s.hostMem = true) : memWf (workAttest s id nonce raddr).hostMem = true := by
  simp [workAttest, *]
@[simp] theorem doWork_wf_hostMem (s : State) (id : Nat) (n0 : KeyWork)
    (hw : memWf s.hostMem = true) : memWf (doWork s id n0).hostMem = true := by
  unfold doWork
  (repeat' split) <;> simp [*]
@[simp] theorem runWork_wf_hostMem (s : State)
    (hw : memWf s.hostMem = true) : memWf (runWork s).hostMem = true := by
  unfold runWork
  (repeat' (first | (split <;> try (rename_i h; first | (have e := pair_third h; clear h; subst e) | (have e := pair_snd h; have e2 := pair_fst h; clear h; subst e; try subst e2) | (have e := pair_fst h; clear h; subst e))) | (dsimp only; split))) <;>
    (repeat' (first | assumption | apply doWork_wf_hostMem | apply memWf_ite | apply memWf_memPuts | apply memWf_memZero | apply foldl_wf_hostMem | apply foldl_snd_wf_hostMem | (intro _ _ _) | (intro _ _) | (simp only [*]; done) | simp | split))
@[simp] theorem queueWork_wf_hostMem (s : State) (id : Nat) (w : KeyWork)
    (hw : memWf s.hostMem = true) : memWf (queueWork s id w).hostMem = true := by
  simp [queueWork, *]

/-! ### Machine/Easel.lean -/

@[simp] theorem throttleCal_wf_hostMem (s : State) (c : Nat)
    (hw : memWf s.hostMem = true) : memWf (throttleCal s c).hostMem = true := by
  simp [throttleCal, *]
@[simp] theorem planItem_wf_mem (s : State) (n0 : PlanItem)
    (hw : memWf s.mem = true) : memWf (planItem s n0).mem = true := by
  unfold planItem
  cases n0 <;> dsimp only <;> (repeat' (first | split | (dsimp only; split))) <;> simp [hw]
@[simp] theorem copyBytes_wf_mem (s : State) (a b n : Nat)
    (hw : memWf s.mem = true) : memWf (copyBytes s a b n).mem = true := by
  simp [copyBytes, *]
@[simp] theorem copyBytes_wf_hostMem (s : State) (a b n : Nat)
    (hw : memWf s.hostMem = true) : memWf (copyBytes s a b n).hostMem = true := by
  unfold copyBytes
  (repeat' (first | (split <;> try (rename_i h; first | (have e := pair_third h; clear h; subst e) | (have e := pair_snd h; have e2 := pair_fst h; clear h; subst e; try subst e2) | (have e := pair_fst h; clear h; subst e))) | (dsimp only; split))) <;> simp [hw]
@[simp] theorem copySlot_wf_mem (s : State) (m : Migration)
    (hw : memWf s.mem = true) : memWf (copySlot s m).mem = true := by
  simp [copySlot, *]
@[simp] theorem copySlot_wf_hostMem (s : State) (m : Migration)
    (hw : memWf s.hostMem = true) : memWf (copySlot s m).hostMem = true := by
  simp [copySlot, *]
@[simp] theorem migEnd_wf_mem (s : State) (m : Migration)
    (hw : memWf s.mem = true) : memWf (migEnd s m).mem = true := by
  simp [migEnd, *]
@[simp] theorem migEnd_wf_hostMem (s : State) (m : Migration)
    (hw : memWf s.hostMem = true) : memWf (migEnd s m).hostMem = true := by
  simp [migEnd, *]

/-! ### Machine/Firmware.lean -/

@[simp] theorem bdApply1_wf_hostMem (s : State) (r : Nat × List Byte)
    (hw : memWf s.hostMem = true) : memWf (bdApply1 s r).hostMem = true := by
  unfold bdApply1
  (repeat' split) <;> simp [*]
@[simp] theorem startStageB_wf_hostMem (s : State) (rs : List (Nat × List Byte)) (i : Image)
    (hw : memWf s.hostMem = true) : memWf (startStageB s rs i).hostMem = true := by
  unfold startStageB
  (repeat' (first | (split <;> try (rename_i h; first | (have e := pair_third h; clear h; subst e) | (have e := pair_snd h; have e2 := pair_fst h; clear h; subst e; try subst e2) | (have e := pair_fst h; clear h; subst e))) | (dsimp only; split))) <;>
    (repeat' (first | assumption | apply bdApply1_wf_hostMem | apply memWf_ite | apply memWf_memPuts | apply memWf_memZero | apply foldl_wf_hostMem | apply foldl_snd_wf_hostMem | (intro _ _ _) | (intro _ _) | (simp only [*]; done) | simp | split))
@[simp] theorem primedState_wf_mem (s : State)
    (hw : memWf s.mem = true) : memWf (primedState s).mem = true := by
  unfold primedState
  (repeat' (first | (split <;> try (rename_i h; first | (have e := pair_third h; clear h; subst e) | (have e := pair_snd h; have e2 := pair_fst h; clear h; subst e; try subst e2) | (have e := pair_fst h; clear h; subst e))) | (dsimp only; split))) <;>
    (repeat' (first | assumption | apply zeroMem_wf_mem | apply loadSections_wf_mem | apply memWf_ite | apply memWf_memPuts | apply memWf_memZero | apply foldl_wf_mem | apply foldl_snd_wf_mem | (intro _ _ _) | (intro _ _) | (simp only [*]; done) | simp | split))

/-! ### Machine/RegCommands.lean -/

@[simp] theorem pfWordWrite_wf_hostMem (s : State) (o : Nat) (w : Word)
    (hw : memWf s.hostMem = true) : memWf (pfWordWrite s o w).hostMem = true := by
  unfold pfWordWrite
  (repeat' (first | (split <;> try (rename_i h; first | (have e := pair_third h; clear h; subst e) | (have e := pair_snd h; have e2 := pair_fst h; clear h; subst e; try subst e2) | (have e := pair_fst h; clear h; subst e))) | (dsimp only; split))) <;> simp [hw]
@[simp] theorem barWordWrite_wf_hostMem (f : Nat) (s : State) (o : Nat) (w : Word)
    (hw : memWf s.hostMem = true) : memWf (barWordWrite f s o w).hostMem = true := by
  simp [barWordWrite, *]
@[simp] theorem barWrite_wf_hostMem (s : State) (f o : Nat) (bytes : List Byte)
    (hw : memWf s.hostMem = true) : memWf (barWrite s f o bytes).hostMem = true := by
  unfold barWrite
  (repeat' (first | (split <;> try (rename_i h; first | (have e := pair_third h; clear h; subst e) | (have e := pair_snd h; have e2 := pair_fst h; clear h; subst e; try subst e2) | (have e := pair_fst h; clear h; subst e))) | (dsimp only; split))) <;>
    (repeat' (first | assumption | apply barWordWrite_wf_hostMem | apply memWf_ite | apply memWf_memPuts | apply memWf_memZero | apply foldl_wf_hostMem | apply foldl_snd_wf_hostMem | (intro _ _ _) | (intro _ _) | (simp only [*]; done) | simp | split))
@[simp] theorem dapAccess_wf_mem (s : State) (addr : Nat) (acc : HostAccess)
    (hw : memWf s.mem = true) : memWf (dapAccess s addr acc).mem = true := by
  unfold dapAccess
  (repeat' (first | (split <;> try (rename_i h; first | (have e := pair_third h; clear h; subst e) | (have e := pair_snd h; have e2 := pair_fst h; clear h; subst e; try subst e2) | (have e := pair_fst h; clear h; subst e))) | (dsimp only; split))) <;> simp [hw]
@[simp] theorem dapAccess_wf_hostMem (s : State) (addr : Nat) (acc : HostAccess)
    (hw : memWf s.hostMem = true) : memWf (dapAccess s addr acc).hostMem = true := by
  unfold dapAccess
  (repeat' (first | (split <;> try (rename_i h; first | (have e := pair_third h; clear h; subst e) | (have e := pair_snd h; have e2 := pair_fst h; clear h; subst e; try subst e2) | (have e := pair_fst h; clear h; subst e))) | (dsimp only; split))) <;> simp [hw]
@[simp] theorem registerAccess_wf_mem (s : State) (m : Master) (addr : Nat) (acc : HostAccess)
    (hw : memWf s.mem = true) : memWf (registerAccess s m addr acc).mem = true := by
  unfold registerAccess
  (repeat' split) <;> simp [*]
@[simp] theorem registerAccess_wf_hostMem (s : State) (m : Master) (addr : Nat) (acc : HostAccess)
    (hw : memWf s.hostMem = true) : memWf (registerAccess s m addr acc).hostMem = true := by
  unfold registerAccess
  (repeat' split) <;> simp [*]
@[simp] theorem regCmd_wf_hostMem (s : State) (m : Master) (a : Nat) (w : Word)
    (hw : memWf s.hostMem = true) : memWf (regCmd s m a w).hostMem = true := by
  unfold regCmd
  (repeat' (first | (split <;> try (rename_i h; first | (have e := pair_third h; clear h; subst e) | (have e := pair_snd h; have e2 := pair_fst h; clear h; subst e; try subst e2) | (have e := pair_fst h; clear h; subst e))) | (dsimp only; split))) <;> simp [hw]
@[simp] theorem ringCtlCmd_wf_hostMem (s : State) (m : Master) (r : Nat) (w : Word)
    (hw : memWf s.hostMem = true) : memWf (ringCtlCmd s m r w).hostMem = true := by
  unfold ringCtlCmd
  (repeat' split) <;> simp [*]
@[simp] theorem calgateCmd_wf_hostMem (s : State) (m : Master) (c : Nat) (g : Bool)
    (hw : memWf s.hostMem = true) : memWf (calgateCmd s m c g).hostMem = true := by
  simp [calgateCmd, *]
@[simp] theorem ventCmd_wf_hostMem (s : State) (m : Master) (v o : Nat) (w : Word)
    (hw : memWf s.hostMem = true) : memWf (ventCmd s m v o w).hostMem = true := by
  simp [ventCmd, *]

/-! ### Machine/Lanes.lean -/

@[simp] theorem laneFault_wf_hostMem (s : State) (p n : Nat) (short : Bool)
    (hw : memWf s.hostMem = true) : memWf (laneFault s p n short).hostMem = true := by
  unfold laneFault
  (repeat' (first | (split <;> try (rename_i h; first | (have e := pair_third h; clear h; subst e) | (have e := pair_snd h; have e2 := pair_fst h; clear h; subst e; try subst e2) | (have e := pair_fst h; clear h; subst e))) | (dsimp only; split))) <;> simp [hw]
@[simp] theorem linkUp_wf_hostMem (s : State) (src : Nat) (polinv : Byte)
    (hw : memWf s.hostMem = true) : memWf (linkUp s src polinv).hostMem = true := by
  unfold linkUp
  (repeat' (first | (split <;> try (rename_i h; first | (have e := pair_third h; clear h; subst e) | (have e := pair_snd h; have e2 := pair_fst h; clear h; subst e; try subst e2) | (have e := pair_fst h; clear h; subst e))) | (dsimp only; split))) <;> simp [hw]
@[simp] theorem mgmtEvent_wf_hostMem (s : State) (n : Nat) (disabled : Bool)
    (hw : memWf s.hostMem = true) : memWf (mgmtEvent s n disabled).hostMem = true := by
  simp [mgmtEvent, *]
@[simp] theorem i2cDisable_wf_hostMem (s : State) (n : Nat)
    (hw : memWf s.hostMem = true) : memWf (i2cDisable s n).hostMem = true := by
  simp [i2cDisable, *]
@[simp] theorem i2cCheck_wf_hostMem (s : State) (n : Nat) (o : LineObs)
    (hw : memWf s.hostMem = true) : memWf (i2cCheck s n o).hostMem = true := by
  unfold i2cCheck
  (repeat' split) <;> simp [*]
@[simp] theorem tapTake_wf_hostMem (s : State) (op : Byte) (r : TapReg)
    (hw : memWf s.hostMem = true) : memWf (tapTake s op r).hostMem = true := by
  have h2 := foldl_wf_hostMem (fun s p => portDown s p 0) (fun s a h => portDown_wf_hostMem s a 0 h) (List.range 4) (tapSelect s op r 0)
    (by simp [hw])
  simpa [tapTake] using h2

/-! ### Machine/AdmInfo.lean -/

@[simp] theorem stageVerify_wf_hostMem (s : State) (id a n : Nat) (more : Option Nat) (go : State → State) (hk : ∀ s, memWf s.hostMem = true → memWf (go s).hostMem = true)
    (hw : memWf s.hostMem = true) : memWf (stageVerify s id a n more go).hostMem = true := by
  unfold stageVerify
  (repeat' split) <;> simp [*]
@[simp] theorem replaceCal_wf_mem (s : State) (c : Nat)
    (hw : memWf s.mem = true) : memWf (replaceCal s c).mem = true := by
  simp [replaceCal, *]
@[simp] theorem i2cEnd_wf_hostMem (s : State) (id n : Nat) (o : I2cEnd) (x : MgmtXfer) (ok : State → State) (hk : ∀ s, memWf s.hostMem = true → memWf (ok s).hostMem = true)
    (hw : memWf s.hostMem = true) : memWf (i2cEnd s id n o x ok).hostMem = true := by
  unfold i2cEnd
  (repeat' split) <;> simp [*]

/-! ### Machine/AdmQueues.lean -/

@[simp] theorem flushQueue_wf_mem (s : State) (q : Nat)
    (hw : memWf s.mem = true) : memWf (flushQueue s q).mem = true := by
  simp [flushQueue, *]
@[simp] theorem destroyQueue_wf_mem (s : State) (q : Nat)
    (hw : memWf s.mem = true) : memWf (destroyQueue s q).mem = true := by
  simp [destroyQueue, *]

/-! ### Machine/HostLink.lean -/

@[simp] theorem funcResume_wf_hostMem (s : State) (f : Nat)
    (hw : memWf s.hostMem = true) : memWf (funcResume s f).hostMem = true := by
  unfold funcResume
  (repeat' (first | (split <;> try (rename_i h; first | (have e := pair_third h; clear h; subst e) | (have e := pair_snd h; have e2 := pair_fst h; clear h; subst e; try subst e2) | (have e := pair_fst h; clear h; subst e))) | (dsimp only; split))) <;>
    (repeat' (first | assumption | apply flushEvents_wf_hostMem | apply runWork_wf_hostMem | apply memWf_ite | apply memWf_memPuts | apply memWf_memZero | apply foldl_wf_hostMem | apply foldl_snd_wf_hostMem | (intro _ _ _) | (intro _ _) | (simp only [*]; done) | simp | split))
@[simp] theorem endRings_wf_mem (s : State) (f : Nat)
    (hw : memWf s.mem = true) : memWf (endRings s f).mem = true := by
  unfold endRings
  (repeat' (first | (split <;> try (rename_i h; first | (have e := pair_third h; clear h; subst e) | (have e := pair_snd h; have e2 := pair_fst h; clear h; subst e; try subst e2) | (have e := pair_fst h; clear h; subst e))) | (dsimp only; split))) <;>
    (repeat' (first | assumption | apply destroyQueue_wf_mem | apply memWf_ite | apply memWf_memPuts | apply memWf_memZero | apply foldl_wf_mem | apply foldl_snd_wf_mem | (intro _ _ _) | (intro _ _) | (simp only [*]; done) | simp | split))
@[simp] theorem resetFunc_wf_mem (s : State) (f : Nat)
    (hw : memWf s.mem = true) : memWf (resetFunc s f).mem = true := by
  simp [resetFunc, *]
@[simp] theorem resetHost_wf_mem (s : State)
    (hw : memWf s.mem = true) : memWf (resetHost s).mem = true := by
  unfold resetHost
  generalize List.range 64 = l
  exact foldl_wf_mem resetFunc (fun s a h => resetFunc_wf_mem s a h) l s hw
@[simp] theorem ringBell_wf_hostMem (s : State) (r n : Nat) (x : Ring)
    (hw : memWf s.hostMem = true) : memWf (ringBell s r n x).hostMem = true := by
  unfold ringBell
  (repeat' (first | (split <;> try (rename_i h; first | (have e := pair_third h; clear h; subst e) | (have e := pair_snd h; have e2 := pair_fst h; clear h; subst e; try subst e2) | (have e := pair_fst h; clear h; subst e))) | (dsimp only; split))) <;> simp [hw]
@[simp] theorem atomRead_wf_hostMem (s : State) (a n : Nat) (op : AtomOp)
    (hw : memWf s.hostMem = true) : memWf (atomRead s a n op).2.hostMem = true := by
  unfold atomRead
  (repeat' (first | (split <;> try (rename_i h; first | (have e := pair_third h; clear h; subst e) | (have e := pair_snd h; have e2 := pair_fst h; clear h; subst e; try subst e2) | (have e := pair_fst h; clear h; subst e))) | (dsimp only; split))) <;> simp [hw]
@[simp] theorem atomWrite_wf_mem (s : State) (l : Lock)
    (hw : memWf s.mem = true) : memWf (atomWrite s l).mem = true := by
  simp [atomWrite, *]
@[simp] theorem atomWrite_wf_hostMem (s : State) (l : Lock)
    (hw : memWf s.hostMem = true) : memWf (atomWrite s l).hostMem = true := by
  simp [atomWrite, *]

end Sys2Proof.Machine
end

