-- ==== Sys2Proof/Laws/Quiet.lean ====
section
/-! SUPPORT. The operations that first do what has fallen due (R4) leave a state as it is in which nothing has; and what a
lock-free matrix answers. -/

namespace Sys2Proof.Machine

theorem dmaSettle_idle (s : State) (h : dmaDue s = []) : dmaSettle s = s := by simp [dmaSettle, h]

theorem domainStop_idle (s : State) (c : Nat) (h : domainDue s c = false) : domainStop s c = s := by simp [domainStop, h]

theorem foldl_stays {α β : Type} (f : β → α → β) (x : β) (l : List α) (h : ∀ a ∈ l, f x a = x) : l.foldl f x = x := by
  induction l with
  | nil => rfl
  | cons a r ih => rw [List.foldl_cons, h a (by simp), ih (fun b hb => h b (by simp [hb]))]

theorem domainLapse_idle (s : State) (h : ∀ d < nCals s, domainDue s d = false) : domainLapse s = s :=
  foldl_stays _ _ _ (fun d hd => domainStop_idle s d (h d (List.mem_range.mp hd)))

theorem ackLate_iff (s : State) (v : Nat) (m : Migration) : ackLate s v m = true ↔
    v ∈ m.unacked ∧ v ∉ m.late ∧ ∃ t, ffind m.arrived v = some t ∧ t.toNat + 50000 ≤ s.timebase.toNat := by
  cases h : ffind m.arrived v <;> simp [ackLate, h, and_assoc]

theorem marksLate_idle (s : State) (v : Nat) (h : ∀ m ∈ s.easel.migs, ackLate s v m = false) : marksLate s v = s := by
  unfold marksLate
  rw [List.filter_eq_nil_iff.mpr (fun m hm => by simp [h m hm])]
  rfl

@[simp] theorem matLocked_free (m : Master) (a : Nat) (s : State) (h : s.mx.locks = []) : matLocked m a s = false := by
  simp [matLocked, h]

@[simp] theorem spanLocked_free (m : Master) (a n : Nat) (s : State) (h : s.mx.locks = []) : spanLocked m a n s = false := by
  simp [spanLocked, h]

theorem vwdogWrite_early (s : State) (m : Master) (v : Nat) (w : Word) (h : wdExpires s v = false) :
    vwdogWrite s m v w = updVent s v (fun x => { x with evt := { x.evt with
      wdog := w &&& 0xFFFFFF
      wdDue := s.timebase + BitVec.ofNat 64 (1000 * wbits w 23 0)
      wdOnce := false } }) := by
  simp [vwdogWrite, h]

theorem lockLapse_idle (s : State) (t : Nat) (h : ∀ l ∈ s.mx.locks, l.target = t → lockOver s l = false) : lockLapse s t = s := by
  unfold lockLapse
  rw [if_neg]
  simp only [List.any_eq_true, Bool.and_eq_true, beq_iff_eq, not_exists, not_and]
  intro l hl ht
  simp [h l hl ht]

/-- A frame that its vent may send on, and one that DROP_TAG takes. -/
theorem ventBars_none (s : State) (f : Frame) : ventBars s f = none ↔ ventRefuses s f = none ∧ tagRefused s f = false := by
  unfold ventBars
  cases ventRefuses s f <;> cases tagRefused s f <;> simp

end Sys2Proof.Machine
end

