-- ==== Sys2Proof/Laws/State.lean ====
section
/-! SUPPORT. Each indexed field of State after each update of one: what was written where it was written, and what
stood before everywhere else. -/

namespace Sys2Proof.Machine

/-! ### The field that is updated -/

theorem ventAt_updVent_at (s : State) (v v' : Nat) (h : Vent → Vent) :
    ventAt (updVent s v h) v' = if v = v' then h (ventAt s v) else ventAt s v' := fget_fset _ _ _ _ _
@[simp] theorem ventAt_updVent_same (s : State) (v : Nat) (h : Vent → Vent) : ventAt (updVent s v h) v = h (ventAt s v) := by
  rw [ventAt_updVent_at, if_pos rfl]
theorem calAt_updCal_at (s : State) (c c' : Nat) (h : Cal → Cal) :
    calAt (updCal s c h) c' = if c = c' then h (calAt s c) else calAt s c' := fget_fset _ _ _ _ _
@[simp] theorem calAt_updCal_same (s : State) (c : Nat) (h : Cal → Cal) : calAt (updCal s c h) c = h (calAt s c) := by
  rw [calAt_updCal_at, if_pos rfl]
theorem portAt_updPort_at (s : State) (p p' : Nat) (h : Port → Port) :
    portAt (updPort s p h) p' = if p = p' then h (portAt s p) else portAt s p' := fget_fset _ _ _ _ _
@[simp] theorem portAt_updPort_same (s : State) (p : Nat) (h : Port → Port) : portAt (updPort s p h) p = h (portAt s p) := by
  rw [portAt_updPort_at, if_pos rfl]
theorem subAt_updSub_at (s : State) (i i' : Nat) (h : SubPort → SubPort) :
    subAt (updSub s i h) i' = if i = i' then h (subAt s i) else subAt s i' := fget_fset _ _ _ _ _
@[simp] theorem subAt_updSub_same (s : State) (i : Nat) (h : SubPort → SubPort) : subAt (updSub s i h) i = h (subAt s i) := by
  rw [subAt_updSub_at, if_pos rfl]
theorem ctxAt_updCtx_at (s : State) (c c' : Nat) (h : CtxRec → CtxRec) :
    ctxAt (updCtx s c h) c' = if c = c' then h (ctxAt s c) else ctxAt s c' := fget_fset _ _ _ _ _
@[simp] theorem ctxAt_updCtx_same (s : State) (c : Nat) (h : CtxRec → CtxRec) : ctxAt (updCtx s c h) c = h (ctxAt s c) := by
  rw [ctxAt_updCtx_at, if_pos rfl]
theorem queueAt_updQueue_at (s : State) (q q' : Nat) (h : Queue → Queue) :
    queueAt (updQueue s q h) q' = if q = q' then h (queueAt s q) else queueAt s q' := fget_fset _ _ _ _ _
@[simp] theorem queueAt_updQueue_same (s : State) (q : Nat) (h : Queue → Queue) : queueAt (updQueue s q h) q = h (queueAt s q) := by
  rw [queueAt_updQueue_at, if_pos rfl]
theorem frameAt_updFrame_at (s : State) (n n' : Nat) (h : Frame → Frame) :
    frameAt (updFrame s n h) n' = if n = n' then h (frameAt s n) else frameAt s n' := fget_fset _ _ _ _ _
@[simp] theorem frameAt_updFrame_same (s : State) (n : Nat) (h : Frame → Frame) : frameAt (updFrame s n h) n = h (frameAt s n) := by
  rw [frameAt_updFrame_at, if_pos rfl]
theorem ringAt_setRing_at (s : State) (r r' : Nat) (x : Ring) :
    ringAt (setRing s r x) r' = if r = r' then some x else ringAt s r' := ffind_fset _ _ _ _
@[simp] theorem ringAt_setRing_same (s : State) (r : Nat) (x : Ring) : ringAt (setRing s r x) r = some x := by
  rw [ringAt_setRing_at, if_pos rfl]
theorem funcAt_updFunc_at (s : State) (f f' : Nat) (h : Func → Func) :
    funcAt (updFunc s f h) f' = if f = f' then h (funcAt s f) else funcAt s f' := fget_fset _ _ _ _ _
@[simp] theorem funcAt_updFunc_same (s : State) (f : Nat) (h : Func → Func) : funcAt (updFunc s f h) f = h (funcAt s f) := by
  rw [funcAt_updFunc_at, if_pos rfl]
theorem dmaAt_updDma_at (s : State) (n n' : Nat) (h : Dma → Dma) :
    dmaAt (updDma s n h) n' = if n = n' then h (dmaAt s n) else dmaAt s n' := fget_fset _ _ _ _ _
@[simp] theorem dmaAt_updDma_same (s : State) (n : Nat) (h : Dma → Dma) : dmaAt (updDma s n h) n = h (dmaAt s n) := by
  rw [dmaAt_updDma_at, if_pos rfl]
theorem ventAt_setVent_at (s : State) (v v' : Nat) (x : Vent) :
    ventAt (setVent s v x) v' = if v = v' then x else ventAt s v' := fget_fset _ _ _ _ _
@[simp] theorem ventAt_setVent_same (s : State) (v : Nat) (x : Vent) : ventAt (setVent s v x) v = x := by
  rw [ventAt_setVent_at, if_pos rfl]
theorem vecAt_updVec_same (s : State) (f v : Nat) (h : MsixVec → MsixVec) : vecAt (updVec s f v h) f v = h (vecAt s f v) :=
  fget_fset_same _ _ _ _
theorem chanAt_updChan_same (s : State) (p g : Nat) (h : Channel → Channel) : chanAt (updChan s p g h) p g = h (chanAt s p g) :=
  fget_fset_same _ _ _ _
theorem steerAt_setSteer_same (s : State) (j b : Nat) (x : Steer) : steerAt (setSteer s j b x) j b = x := by
  unfold steerAt setSteer
  rw [ffind_fset_same]

/-! ### The fields that are not -/

@[simp] theorem calAt_updVent (s : State) (v c' : Nat) (h : Vent → Vent) : calAt (updVent s v h) c' = calAt s c' := rfl
@[simp] theorem portAt_updVent (s : State) (v p' : Nat) (h : Vent → Vent) : portAt (updVent s v h) p' = portAt s p' := rfl
@[simp] theorem subAt_updVent (s : State) (v i' : Nat) (h : Vent → Vent) : subAt (updVent s v h) i' = subAt s i' := rfl
@[simp] theorem ctxAt_updVent (s : State) (v c' : Nat) (h : Vent → Vent) : ctxAt (updVent s v h) c' = ctxAt s c' := rfl
@[simp] theorem queueAt_updVent (s : State) (v q' : Nat) (h : Vent → Vent) : queueAt (updVent s v h) q' = queueAt s q' := rfl
@[simp] theorem frameAt_updVent (s : State) (v n' : Nat) (h : Vent → Vent) : frameAt (updVent s v h) n' = frameAt s n' := rfl
@[simp] theorem ringAt_updVent (s : State) (v r' : Nat) (h : Vent → Vent) : ringAt (updVent s v h) r' = ringAt s r' := rfl
@[simp] theorem funcAt_updVent (s : State) (v f' : Nat) (h : Vent → Vent) : funcAt (updVent s v h) f' = funcAt s f' := rfl
@[simp] theorem vecAt_updVent (s : State) (v f' v' : Nat) (h : Vent → Vent) : vecAt (updVent s v h) f' v' = vecAt s f' v' := rfl
@[simp] theorem dmaAt_updVent (s : State) (v n' : Nat) (h : Vent → Vent) : dmaAt (updVent s v h) n' = dmaAt s n' := rfl
@[simp] theorem chanAt_updVent (s : State) (v p' g' : Nat) (h : Vent → Vent) : chanAt (updVent s v h) p' g' = chanAt s p' g' := rfl
@[simp] theorem steerAt_updVent (s : State) (v j' b' : Nat) (h : Vent → Vent) : steerAt (updVent s v h) j' b' = steerAt s j' b' := rfl
@[simp] theorem ventAt_updCal (s : State) (c v' : Nat) (h : Cal → Cal) : ventAt (updCal s c h) v' = ventAt s v' := rfl
@[simp] theorem portAt_updCal (s : State) (c p' : Nat) (h : Cal → Cal) : portAt (updCal s c h) p' = portAt s p' := rfl
@[simp] theorem subAt_updCal (s : State) (c i' : Nat) (h : Cal → Cal) : subAt (updCal s c h) i' = subAt s i' := rfl
@[simp] theorem ctxAt_updCal (s : State) (c c' : Nat) (h : Cal → Cal) : ctxAt (updCal s c h) c' = ctxAt s c' := rfl
@[simp] theorem queueAt_updCal (s : State) (c q' : Nat) (h : Cal → Cal) : queueAt (updCal s c h) q' = queueAt s q' := rfl
@[simp] theorem frameAt_updCal (s : State) (c n' : Nat) (h : Cal → Cal) : frameAt (updCal s c h) n' = frameAt s n' := rfl
@[simp] theorem ringAt_updCal (s : State) (c r' : Nat) (h : Cal → Cal) : ringAt (updCal s c h) r' = ringAt s r' := rfl
@[simp] theorem funcAt_updCal (s : State) (c f' : Nat) (h : Cal → Cal) : funcAt (updCal s c h) f' = funcAt s f' := rfl
@[simp] theorem vecAt_updCal (s : State) (c f' v' : Nat) (h : Cal → Cal) : vecAt (updCal s c h) f' v' = vecAt s f' v' := rfl
@[simp] theorem dmaAt_updCal (s : State) (c n' : Nat) (h : Cal → Cal) : dmaAt (updCal s c h) n' = dmaAt s n' := rfl
@[simp] theorem chanAt_updCal (s : State) (c p' g' : Nat) (h : Cal → Cal) : chanAt (updCal s c h) p' g' = chanAt s p' g' := rfl
@[simp] theorem steerAt_updCal (s : State) (c j' b' : Nat) (h : Cal → Cal) : steerAt (updCal s c h) j' b' = steerAt s j' b' := rfl
@[simp] theorem ventAt_updPort (s : State) (p v' : Nat) (h : Port → Port) : ventAt (updPort s p h) v' = ventAt s v' := rfl
@[simp] theorem calAt_updPort (s : State) (p c' : Nat) (h : Port → Port) : calAt (updPort s p h) c' = calAt s c' := rfl
@[simp] theorem subAt_updPort (s : State) (p i' : Nat) (h : Port → Port) : subAt (updPort s p h) i' = subAt s i' := rfl
@[simp] theorem ctxAt_updPort (s : State) (p c' : Nat) (h : Port → Port) : ctxAt (updPort s p h) c' = ctxAt s c' := rfl
@[simp] theorem queueAt_updPort (s : State) (p q' : Nat) (h : Port → Port) : queueAt (updPort s p h) q' = queueAt s q' := rfl
@[simp] theorem frameAt_updPort (s : State) (p n' : Nat) (h : Port → Port) : frameAt (updPort s p h) n' = frameAt s n' := rfl
@[simp] theorem ringAt_updPort (s : State) (p r' : Nat) (h : Port → Port) : ringAt (updPort s p h) r' = ringAt s r' := rfl
@[simp] theorem funcAt_updPort (s : State) (p f' : Nat) (h : Port → Port) : funcAt (updPort s p h) f' = funcAt s f' := rfl
@[simp] theorem vecAt_updPort (s : State) (p f' v' : Nat) (h : Port → Port) : vecAt (updPort s p h) f' v' = vecAt s f' v' := rfl
@[simp] theorem dmaAt_updPort (s : State) (p n' : Nat) (h : Port → Port) : dmaAt (updPort s p h) n' = dmaAt s n' := rfl
@[simp] theorem chanAt_updPort (s : State) (p p' g' : Nat) (h : Port → Port) : chanAt (updPort s p h) p' g' = chanAt s p' g' := rfl
@[simp] theorem steerAt_updPort (s : State) (p j' b' : Nat) (h : Port → Port) : steerAt (updPort s p h) j' b' = steerAt s j' b' := rfl
@[simp] theorem ventAt_updSub (s : State) (i v' : Nat) (h : SubPort → SubPort) : ventAt (updSub s i h) v' = ventAt s v' := rfl
@[simp] theorem calAt_updSub (s : State) (i c' : Nat) (h : SubPort → SubPort) : calAt (updSub s i h) c' = calAt s c' := rfl
@[simp] theorem portAt_updSub (s : State) (i p' : Nat) (h : SubPort → SubPort) : portAt (updSub s i h) p' = portAt s p' := rfl
@[simp] theorem ctxAt_updSub (s : State) (i c' : Nat) (h : SubPort → SubPort) : ctxAt (updSub s i h) c' = ctxAt s c' := rfl
@[simp] theorem queueAt_updSub (s : State) (i q' : Nat) (h : SubPort → SubPort) : queueAt (updSub s i h) q' = queueAt s q' := rfl
@[simp] theorem frameAt_updSub (s : State) (i n' : Nat) (h : SubPort → SubPort) : frameAt (updSub s i h) n' = frameAt s n' := rfl
@[simp] theorem ringAt_updSub (s : State) (i r' : Nat) (h : SubPort → SubPort) : ringAt (updSub s i h) r' = ringAt s r' := rfl
@[simp] theorem funcAt_updSub (s : State) (i f' : Nat) (h : SubPort → SubPort) : funcAt (updSub s i h) f' = funcAt s f' := rfl
@[simp] theorem vecAt_updSub (s : State) (i f' v' : Nat) (h : SubPort → SubPort) : vecAt (updSub s i h) f' v' = vecAt s f' v' := rfl
@[simp] theorem dmaAt_updSub (s : State) (i n' : Nat) (h : SubPort → SubPort) : dmaAt (updSub s i h) n' = dmaAt s n' := rfl
@[simp] theorem chanAt_updSub (s : State) (i p' g' : Nat) (h : SubPort → SubPort) : chanAt (updSub s i h) p' g' = chanAt s p' g' := rfl
@[simp] theorem steerAt_updSub (s : State) (i j' b' : Nat) (h : SubPort → SubPort) : steerAt (updSub s i h) j' b' = steerAt s j' b' := rfl
@[simp] theorem ventAt_updCtx (s : State) (c v' : Nat) (h : CtxRec → CtxRec) : ventAt (updCtx s c h) v' = ventAt s v' := rfl
@[simp] theorem calAt_updCtx (s : State) (c c' : Nat) (h : CtxRec → CtxRec) : calAt (updCtx s c h) c' = calAt s c' := rfl
@[simp] theorem portAt_updCtx (s : State) (c p' : Nat) (h : CtxRec → CtxRec) : portAt (updCtx s c h) p' = portAt s p' := rfl
@[simp] theorem subAt_updCtx (s : State) (c i' : Nat) (h : CtxRec → CtxRec) : subAt (updCtx s c h) i' = subAt s i' := rfl
@[simp] theorem queueAt_updCtx (s : State) (c q' : Nat) (h : CtxRec → CtxRec) : queueAt (updCtx s c h) q' = queueAt s q' := rfl
@[simp] theorem frameAt_updCtx (s : State) (c n' : Nat) (h : CtxRec → CtxRec) : frameAt (updCtx s c h) n' = frameAt s n' := rfl
@[simp] theorem ringAt_updCtx (s : State) (c r' : Nat) (h : CtxRec → CtxRec) : ringAt (updCtx s c h) r' = ringAt s r' := rfl
@[simp] theorem funcAt_updCtx (s : State) (c f' : Nat) (h : CtxRec → CtxRec) : funcAt (updCtx s c h) f' = funcAt s f' := rfl
@[simp] theorem vecAt_updCtx (s : State) (c f' v' : Nat) (h : CtxRec → CtxRec) : vecAt (updCtx s c h) f' v' = vecAt s f' v' := rfl
@[simp] theorem dmaAt_updCtx (s : State) (c n' : Nat) (h : CtxRec → CtxRec) : dmaAt (updCtx s c h) n' = dmaAt s n' := rfl
@[simp] theorem chanAt_updCtx (s : State) (c p' g' : Nat) (h : CtxRec → CtxRec) : chanAt (updCtx s c h) p' g' = chanAt s p' g' := rfl
@[simp] theorem steerAt_updCtx (s : State) (c j' b' : Nat) (h : CtxRec → CtxRec) : steerAt (updCtx s c h) j' b' = steerAt s j' b' := rfl
@[simp] theorem ventAt_updQueue (s : State) (q v' : Nat) (h : Queue → Queue) : ventAt (updQueue s q h) v' = ventAt s v' := rfl
@[simp] theorem calAt_updQueue (s : State) (q c' : Nat) (h : Queue → Queue) : calAt (updQueue s q h) c' = calAt s c' := rfl
@[simp] theorem portAt_updQueue (s : State) (q p' : Nat) (h : Queue → Queue) : portAt (updQueue s q h) p' = portAt s p' := rfl
@[simp] theorem subAt_updQueue (s : State) (q i' : Nat) (h : Queue → Queue) : subAt (updQueue s q h) i' = subAt s i' := rfl
@[simp] theorem ctxAt_updQueue (s : State) (q c' : Nat) (h : Queue → Queue) : ctxAt (updQueue s q h) c' = ctxAt s c' := rfl
@[simp] theorem frameAt_updQueue (s : State) (q n' : Nat) (h : Queue → Queue) : frameAt (updQueue s q h) n' = frameAt s n' := rfl
@[simp] theorem ringAt_updQueue (s : State) (q r' : Nat) (h : Queue → Queue) : ringAt (updQueue s q h) r' = ringAt s r' := rfl
@[simp] theorem funcAt_updQueue (s : State) (q f' : Nat) (h : Queue → Queue) : funcAt (updQueue s q h) f' = funcAt s f' := rfl
@[simp] theorem vecAt_updQueue (s : State) (q f' v' : Nat) (h : Queue → Queue) : vecAt (updQueue s q h) f' v' = vecAt s f' v' := rfl
@[simp] theorem dmaAt_updQueue (s : State) (q n' : Nat) (h : Queue → Queue) : dmaAt (updQueue s q h) n' = dmaAt s n' := rfl
@[simp] theorem chanAt_updQueue (s : State) (q p' g' : Nat) (h : Queue → Queue) : chanAt (updQueue s q h) p' g' = chanAt s p' g' := rfl
@[simp] theorem steerAt_updQueue (s : State) (q j' b' : Nat) (h : Queue → Queue) : steerAt (updQueue s q h) j' b' = steerAt s j' b' := rfl
@[simp] theorem ventAt_updFrame (s : State) (n v' : Nat) (h : Frame → Frame) : ventAt (updFrame s n h) v' = ventAt s v' := rfl
@[simp] theorem calAt_updFrame (s : State) (n c' : Nat) (h : Frame → Frame) : calAt (updFrame s n h) c' = calAt s c' := rfl
@[simp] theorem portAt_updFrame (s : State) (n p' : Nat) (h : Frame → Frame) : portAt (updFrame s n h) p' = portAt s p' := rfl
@[simp] theorem subAt_updFrame (s : State) (n i' : Nat) (h : Frame → Frame) : subAt (updFrame s n h) i' = subAt s i' := rfl
@[simp] theorem ctxAt_updFrame (s : State) (n c' : Nat) (h : Frame → Frame) : ctxAt (updFrame s n h) c' = ctxAt s c' := rfl
@[simp] theorem queueAt_updFrame (s : State) (n q' : Nat) (h : Frame → Frame) : queueAt (updFrame s n h) q' = queueAt s q' := rfl
@[simp] theorem ringAt_updFrame (s : State) (n r' : Nat) (h : Frame → Frame) : ringAt (updFrame s n h) r' = ringAt s r' := rfl
@[simp] theorem funcAt_updFrame (s : State) (n f' : Nat) (h : Frame → Frame) : funcAt (updFrame s n h) f' = funcAt s f' := rfl
@[simp] theorem vecAt_updFrame (s : State) (n f' v' : Nat) (h : Frame → Frame) : vecAt (updFrame s n h) f' v' = vecAt s f' v' := rfl
@[simp] theorem dmaAt_updFrame (s : State) (n n' : Nat) (h : Frame → Frame) : dmaAt (updFrame s n h) n' = dmaAt s n' := rfl
@[simp] theorem chanAt_updFrame (s : State) (n p' g' : Nat) (h : Frame → Frame) : chanAt (updFrame s n h) p' g' = chanAt s p' g' := rfl
@[simp] theorem steerAt_updFrame (s : State) (n j' b' : Nat) (h : Frame → Frame) : steerAt (updFrame s n h) j' b' = steerAt s j' b' := rfl
@[simp] theorem ventAt_setRing (s : State) (r v' : Nat) (x : Ring) : ventAt (setRing s r x) v' = ventAt s v' := rfl
@[simp] theorem calAt_setRing (s : State) (r c' : Nat) (x : Ring) : calAt (setRing s r x) c' = calAt s c' := rfl
@[simp] theorem portAt_setRing (s : State) (r p' : Nat) (x : Ring) : portAt (setRing s r x) p' = portAt s p' := rfl
@[simp] theorem subAt_setRing (s : State) (r i' : Nat) (x : Ring) : subAt (setRing s r x) i' = subAt s i' := rfl
@[simp] theorem ctxAt_setRing (s : State) (r c' : Nat) (x : Ring) : ctxAt (setRing s r x) c' = ctxAt s c' := rfl
@[simp] theorem queueAt_setRing (s : State) (r q' : Nat) (x : Ring) : queueAt (setRing s r x) q' = queueAt s q' := rfl
@[simp] theorem frameAt_setRing (s : State) (r n' : Nat) (x : Ring) : frameAt (setRing s r x) n' = frameAt s n' := rfl
@[simp] theorem funcAt_setRing (s : State) (r f' : Nat) (x : Ring) : funcAt (setRing s r x) f' = funcAt s f' := rfl
@[simp] theorem vecAt_setRing (s : State) (r f' v' : Nat) (x : Ring) : vecAt (setRing s r x) f' v' = vecAt s f' v' := rfl
@[simp] theorem dmaAt_setRing (s : State) (r n' : Nat) (x : Ring) : dmaAt (setRing s r x) n' = dmaAt s n' := rfl
@[simp] theorem chanAt_setRing (s : State) (r p' g' : Nat) (x : Ring) : chanAt (setRing s r x) p' g' = chanAt s p' g' := rfl
@[simp] theorem steerAt_setRing (s : State) (r j' b' : Nat) (x : Ring) : steerAt (setRing s r x) j' b' = steerAt s j' b' := rfl
@[simp] theorem ventAt_updFunc (s : State) (f v' : Nat) (h : Func → Func) : ventAt (updFunc s f h) v' = ventAt s v' := rfl
@[simp] theorem calAt_updFunc (s : State) (f c' : Nat) (h : Func → Func) : calAt (updFunc s f h) c' = calAt s c' := rfl
@[simp] theorem portAt_updFunc (s : State) (f p' : Nat) (h : Func → Func) : portAt (updFunc s f h) p' = portAt s p' := rfl
@[simp] theorem subAt_updFunc (s : State) (f i' : Nat) (h : Func → Func) : subAt (updFunc s f h) i' = subAt s i' := rfl
@[simp] theorem ctxAt_updFunc (s : State) (f c' : Nat) (h : Func → Func) : ctxAt (updFunc s f h) c' = ctxAt s c' := rfl
@[simp] theorem queueAt_updFunc (s : State) (f q' : Nat) (h : Func → Func) : queueAt (updFunc s f h) q' = queueAt s q' := rfl
@[simp] theorem frameAt_updFunc (s : State) (f n' : Nat) (h : Func → Func) : frameAt (updFunc s f h) n' = frameAt s n' := rfl
@[simp] theorem ringAt_updFunc (s : State) (f r' : Nat) (h : Func → Func) : ringAt (updFunc s f h) r' = ringAt s r' := rfl
@[simp] theorem vecAt_updFunc (s : State) (f f' v' : Nat) (h : Func → Func) : vecAt (updFunc s f h) f' v' = vecAt s f' v' := rfl
@[simp] theorem dmaAt_updFunc (s : State) (f n' : Nat) (h : Func → Func) : dmaAt (updFunc s f h) n' = dmaAt s n' := rfl
@[simp] theorem chanAt_updFunc (s : State) (f p' g' : Nat) (h : Func → Func) : chanAt (updFunc s f h) p' g' = chanAt s p' g' := rfl
@[simp] theorem steerAt_updFunc (s : State) (f j' b' : Nat) (h : Func → Func) : steerAt (updFunc s f h) j' b' = steerAt s j' b' := rfl
@[simp] theorem ventAt_updVec (s : State) (f v v' : Nat) (h : MsixVec → MsixVec) : ventAt (updVec s f v h) v' = ventAt s v' := rfl
@[simp] theorem calAt_updVec (s : State) (f v c' : Nat) (h : MsixVec → MsixVec) : calAt (updVec s f v h) c' = calAt s c' := rfl
@[simp] theorem portAt_updVec (s : State) (f v p' : Nat) (h : MsixVec → MsixVec) : portAt (updVec s f v h) p' = portAt s p' := rfl
@[simp] theorem subAt_updVec (s : State) (f v i' : Nat) (h : MsixVec → MsixVec) : subAt (updVec s f v h) i' = subAt s i' := rfl
@[simp] theorem ctxAt_updVec (s : State) (f v c' : Nat) (h : MsixVec → MsixVec) : ctxAt (updVec s f v h) c' = ctxAt s c' := rfl
@[simp] theorem queueAt_updVec (s : State) (f v q' : Nat) (h : MsixVec → MsixVec) : queueAt (updVec s f v h) q' = queueAt s q' := rfl
@[simp] theorem frameAt_updVec (s : State) (f v n' : Nat) (h : MsixVec → MsixVec) : frameAt (updVec s f v h) n' = frameAt s n' := rfl
@[simp] theorem ringAt_updVec (s : State) (f v r' : Nat) (h : MsixVec → MsixVec) : ringAt (updVec s f v h) r' = ringAt s r' := rfl
@[simp] theorem funcAt_updVec (s : State) (f v f' : Nat) (h : MsixVec → MsixVec) : funcAt (updVec s f v h) f' = funcAt s f' := rfl
@[simp] theorem dmaAt_updVec (s : State) (f v n' : Nat) (h : MsixVec → MsixVec) : dmaAt (updVec s f v h) n' = dmaAt s n' := rfl
@[simp] theorem chanAt_updVec (s : State) (f v p' g' : Nat) (h : MsixVec → MsixVec) : chanAt (updVec s f v h) p' g' = chanAt s p' g' := rfl
@[simp] theorem steerAt_updVec (s : State) (f v j' b' : Nat) (h : MsixVec → MsixVec) : steerAt (updVec s f v h) j' b' = steerAt s j' b' := rfl
@[simp] theorem ventAt_updDma (s : State) (n v' : Nat) (h : Dma → Dma) : ventAt (updDma s n h) v' = ventAt s v' := rfl
@[simp] theorem calAt_updDma (s : State) (n c' : Nat) (h : Dma → Dma) : calAt (updDma s n h) c' = calAt s c' := rfl
@[simp] theorem portAt_updDma (s : State) (n p' : Nat) (h : Dma → Dma) : portAt (updDma s n h) p' = portAt s p' := rfl
@[simp] theorem subAt_updDma (s : State) (n i' : Nat) (h : Dma → Dma) : subAt (updDma s n h) i' = subAt s i' := rfl
@[simp] theorem ctxAt_updDma (s : State) (n c' : Nat) (h : Dma → Dma) : ctxAt (updDma s n h) c' = ctxAt s c' := rfl
@[simp] theorem queueAt_updDma (s : State) (n q' : Nat) (h : Dma → Dma) : queueAt (updDma s n h) q' = queueAt s q' := rfl
@[simp] theorem frameAt_updDma (s : State) (n n' : Nat) (h : Dma → Dma) : frameAt (updDma s n h) n' = frameAt s n' := rfl
@[simp] theorem ringAt_updDma (s : State) (n r' : Nat) (h : Dma → Dma) : ringAt (updDma s n h) r' = ringAt s r' := rfl
@[simp] theorem funcAt_updDma (s : State) (n f' : Nat) (h : Dma → Dma) : funcAt (updDma s n h) f' = funcAt s f' := rfl
@[simp] theorem vecAt_updDma (s : State) (n f' v' : Nat) (h : Dma → Dma) : vecAt (updDma s n h) f' v' = vecAt s f' v' := rfl
@[simp] theorem chanAt_updDma (s : State) (n p' g' : Nat) (h : Dma → Dma) : chanAt (updDma s n h) p' g' = chanAt s p' g' := rfl
@[simp] theorem steerAt_updDma (s : State) (n j' b' : Nat) (h : Dma → Dma) : steerAt (updDma s n h) j' b' = steerAt s j' b' := rfl
@[simp] theorem ventAt_updChan (s : State) (p g v' : Nat) (h : Channel → Channel) : ventAt (updChan s p g h) v' = ventAt s v' := rfl
@[simp] theorem calAt_updChan (s : State) (p g c' : Nat) (h : Channel → Channel) : calAt (updChan s p g h) c' = calAt s c' := rfl
@[simp] theorem portAt_updChan (s : State) (p g p' : Nat) (h : Channel → Channel) : portAt (updChan s p g h) p' = portAt s p' := rfl
@[simp] theorem subAt_updChan (s : State) (p g i' : Nat) (h : Channel → Channel) : subAt (updChan s p g h) i' = subAt s i' := rfl
@[simp] theorem ctxAt_updChan (s : State) (p g c' : Nat) (h : Channel → Channel) : ctxAt (updChan s p g h) c' = ctxAt s c' := rfl
@[simp] theorem queueAt_updChan (s : State) (p g q' : Nat) (h : Channel → Channel) : queueAt (updChan s p g h) q' = queueAt s q' := rfl
@[simp] theorem frameAt_updChan (s : State) (p g n' : Nat) (h : Channel → Channel) : frameAt (updChan s p g h) n' = frameAt s n' := rfl
@[simp] theorem ringAt_updChan (s : State) (p g r' : Nat) (h : Channel → Channel) : ringAt (updChan s p g h) r' = ringAt s r' := rfl
@[simp] theorem funcAt_updChan (s : State) (p g f' : Nat) (h : Channel → Channel) : funcAt (updChan s p g h) f' = funcAt s f' := rfl
@[simp] theorem vecAt_updChan (s : State) (p g f' v' : Nat) (h : Channel → Channel) : vecAt (updChan s p g h) f' v' = vecAt s f' v' := rfl
@[simp] theorem dmaAt_updChan (s : State) (p g n' : Nat) (h : Channel → Channel) : dmaAt (updChan s p g h) n' = dmaAt s n' := rfl
@[simp] theorem steerAt_updChan (s : State) (p g j' b' : Nat) (h : Channel → Channel) : steerAt (updChan s p g h) j' b' = steerAt s j' b' := rfl
@[simp] theorem ventAt_setSteer (s : State) (j b v' : Nat) (x : Steer) : ventAt (setSteer s j b x) v' = ventAt s v' := rfl
@[simp] theorem calAt_setSteer (s : State) (j b c' : Nat) (x : Steer) : calAt (setSteer s j b x) c' = calAt s c' := rfl
@[simp] theorem portAt_setSteer (s : State) (j b p' : Nat) (x : Steer) : portAt (setSteer s j b x) p' = portAt s p' := rfl
@[simp] theorem subAt_setSteer (s : State) (j b i' : Nat) (x : Steer) : subAt (setSteer s j b x) i' = subAt s i' := rfl
@[simp] theorem ctxAt_setSteer (s : State) (j b c' : Nat) (x : Steer) : ctxAt (setSteer s j b x) c' = ctxAt s c' := rfl
@[simp] theorem queueAt_setSteer (s : State) (j b q' : Nat) (x : Steer) : queueAt (setSteer s j b x) q' = queueAt s q' := rfl
@[simp] theorem frameAt_setSteer (s : State) (j b n' : Nat) (x : Steer) : frameAt (setSteer s j b x) n' = frameAt s n' := rfl
@[simp] theorem ringAt_setSteer (s : State) (j b r' : Nat) (x : Steer) : ringAt (setSteer s j b x) r' = ringAt s r' := rfl
@[simp] theorem funcAt_setSteer (s : State) (j b f' : Nat) (x : Steer) : funcAt (setSteer s j b x) f' = funcAt s f' := rfl
@[simp] theorem vecAt_setSteer (s : State) (j b f' v' : Nat) (x : Steer) : vecAt (setSteer s j b x) f' v' = vecAt s f' v' := rfl
@[simp] theorem dmaAt_setSteer (s : State) (j b n' : Nat) (x : Steer) : dmaAt (setSteer s j b x) n' = dmaAt s n' := rfl
@[simp] theorem chanAt_setSteer (s : State) (j b p' g' : Nat) (x : Steer) : chanAt (setSteer s j b x) p' g' = chanAt s p' g' := rfl
@[simp] theorem calAt_setVent (s : State) (v c' : Nat) (x : Vent) : calAt (setVent s v x) c' = calAt s c' := rfl
@[simp] theorem portAt_setVent (s : State) (v p' : Nat) (x : Vent) : portAt (setVent s v x) p' = portAt s p' := rfl
@[simp] theorem subAt_setVent (s : State) (v i' : Nat) (x : Vent) : subAt (setVent s v x) i' = subAt s i' := rfl
@[simp] theorem ctxAt_setVent (s : State) (v c' : Nat) (x : Vent) : ctxAt (setVent s v x) c' = ctxAt s c' := rfl
@[simp] theorem queueAt_setVent (s : State) (v q' : Nat) (x : Vent) : queueAt (setVent s v x) q' = queueAt s q' := rfl
@[simp] theorem frameAt_setVent (s : State) (v n' : Nat) (x : Vent) : frameAt (setVent s v x) n' = frameAt s n' := rfl
@[simp] theorem ringAt_setVent (s : State) (v r' : Nat) (x : Vent) : ringAt (setVent s v x) r' = ringAt s r' := rfl
@[simp] theorem funcAt_setVent (s : State) (v f' : Nat) (x : Vent) : funcAt (setVent s v x) f' = funcAt s f' := rfl
@[simp] theorem vecAt_setVent (s : State) (v f' v' : Nat) (x : Vent) : vecAt (setVent s v x) f' v' = vecAt s f' v' := rfl
@[simp] theorem dmaAt_setVent (s : State) (v n' : Nat) (x : Vent) : dmaAt (setVent s v x) n' = dmaAt s n' := rfl
@[simp] theorem chanAt_setVent (s : State) (v p' g' : Nat) (x : Vent) : chanAt (setVent s v x) p' g' = chanAt s p' g' := rfl
@[simp] theorem steerAt_setVent (s : State) (v j' b' : Nat) (x : Vent) : steerAt (setVent s v x) j' b' = steerAt s j' b' := rfl

end Sys2Proof.Machine
end

