-- ==== Sys2Proof/Tests/Slice0.lean ====
section
/-! SUPPORT. Tests: for every statement with hypotheses a state and operands that meet them (test_witness_…), an ill-formed
command for each check of WellFormed, and results that the spec itself works out (each names its example or rule). -/

namespace Sys2Proof.Tests
open Sys2Proof.Machine

set_option Elab.async false

/-- Vent 0 out of reset at VBOOT, in Broad mode at M: A1 7, A2 8, A3 3, A5 0x100, C1 4, VL 64. -/
def broad : Vent :=
  { held := false
    stat := 3
    r := [(1, 7), (2, 8), (3, 3), (5, 0x100), (25, 4)]
    vec := { vl := 64 } }

/-- The same in Narrow mode. -/
def narrow : Vent := { broad with stat := 7 }

/-- A primed part whose caldera 0 is on, with vent 0 as given. -/
def part (x : Vent) : State :=
  { State.reset with
    glob := { phase := .primed, cfgReady := true }
    balls := { poresetN := true }
    cals := [(0, { power := .on, clk := 1500 })]
    hbm := { trained := 15 }
    vents := [(0, x)] }

/-- The first opcode of a class's map that names operation k. -/
def codeIn (k : OpKind) (m : List (Nat × List OpKind)) : Option Nat :=
  m.findSome? (fun r => (r.2.findIdx? (fun x => x == k)).map (fun i => r.1 + i))

/-- A class and an opcode that name operation k (R187). -/
def codeOf (k : OpKind) : Nat × Nat :=
  ([(0, mapS), (2, mapAG), (3, mapLS), (5, mapV ++ mapVA), (7, mapX)].findSome? (fun c =>
    (codeIn k c.2).map (fun o => (c.1, o)))).getD (0, 0)

/-- The operation of kind k under guard g, whose first word has bits [31:15] lo and whose second word, if any, is hi. -/
def guarded (g : BitVec 4) (k : OpKind) (lo : Nat) (hi : Option Nat := none) : OpEnc :=
  opEnc true hi.isSome (BitVec.ofNat 3 (codeOf k).1) g (BitVec.ofNat 6 (codeOf k).2) (BitVec.ofNat 17 lo) (BitVec.ofNat 32 (hi.getD 0))

/-- The same for every guard's `always`. -/
def op (k : OpKind) (lo : Nat) (hi : Option Nat := none) : OpEnc := guarded 0 k lo hi

/-- What `Issues` asks, as a value to compute. -/
def issues (s : State) (v : Nat) (k : OpKind) (e : OpEnc) : Bool :=
  let vt := s.early v
  let s0 := setVent s v vt
  let n := opWords e
  ventRuns s v && (List.range (4 * n)).all (fun i => (rgnRefuses vt (ventLevel vt) ((vt.pc.toNat + i) % 2 ^ 32) .ex).isNone) &&
  (List.range n).all (fun i => fetchOk s0 v ((vt.pc.toNat + 4 * i) % 2 ^ 32) && !inCache s0 v ((vt.pc.toNat + 4 * i) % 2 ^ 32)) &&
  !fetchBlocked s0 v vt.pc.toNat n && !vt.fl.narrowFault && !narrowWaits vt && !narrowDue vt && (ventAt s v).fl.bundle.isEmpty && e.last &&
  opSpelt k e && encOk k e n (v == mvNum) && (!(k == .vkeccak || k == .vntt) || hasGlaze (s.found v e)) &&
  guardOn (s.fresh v e) e && !issueWaits (s.found v e) (s.fresh v e) [⟨k, e, none⟩] && (s.fresh v e).badRegs.isEmpty

theorem issues_sound (s : State) (v : Nat) (k : OpKind) (e : OpEnc) (h : issues s v k e = true) : Issues s v k e := by
  simp only [issues, Bool.and_eq_true, List.all_eq_true, List.mem_range, Option.isNone_iff_eq_none, List.isEmpty_iff,
    Bool.not_eq_true', Bool.or_eq_true] at h
  obtain ⟨⟨⟨⟨⟨⟨⟨⟨⟨⟨⟨⟨⟨⟨h1, h2⟩, h3⟩, h4⟩, h5⟩, h6⟩, h6b⟩, h7⟩, h8⟩, h9⟩, h10⟩, h11⟩, h12⟩, h13⟩, h14⟩ := h
  refine ⟨⟨⟨⟨h1, h2, h3, h4, h5, h6, h6b⟩, h7, h8, h9⟩, h10, ?_⟩, h12, h13, h14⟩
  intro hk
  simp_all

/-- An encoding of each operation, its fields written out from the format tables of R176 and R204: register operands 1, 2
and 3, words, and [A5 + 8 × size] for an address. -/
def enc (k : OpKind) : OpEnc :=
  match opFormat k with
  | .rm => op k (if (opSig k).2.2 = .none then 2 + 4 * 1 + 128 * 2 else 2 + 4 * 1 + 128 * 2 + 4096 * 3)
  | .r => op k (match k with
    | .jr | .jrl => 2 + 128 * 2
    | .fdiv => 2 + 4 * 1 + 128 * 2 + 4096 * 3
    | .fsqrt => 2 + 4 * 1 + 128 * 2
    | _ => 2 + 128 * 2 + 4096 * 3)
  | .m => op k (match k with
    | .lds => 1 + 4 * 1 + 4096 * 2
    | .ld | .ldf => 2 + 4 * 1 + 4096 * 2
    | .vldl => 2 + 4 * 2 + 4096 * 2
    | .st | .stf => 2 + 4 * 1 + 4096 * 1
    | .vstl => 2 + 4 * 2 + 4096 * 1
    | _ => 2 + 4096 * 2) (some 0x0508)
  | .l => op k (match k with
    | .movi | .addi => 2 + 4 * 1
    | _ => 2) (some 0x40)
  | .b => op k 4
  | .j => op k (4 * 2 + 256 * 2) (some 2)
  | .s => op k (4 * 1 + 128 * 4)
  | .i => op k (4 * 5)
  | .p => op k (1 + 8 * 2 + 128 * 3)
  | .x => op k (4 * 1 + 16 * 1 + 256 * 2)
  | .n => op k 0
  | .v => match k with
    | .vmov | .vbswap | .setvl | .kpop | .fcvt | .fcvtf | .fsgn | .fmvx | .fclass | .vfcvt | .vfsgn => op k (2 + 4 * 1 + 128 * 2)
    | .vgete | .vsete | .vsldn | .vslup => op k (2 + 4 * 1 + 128 * 2) (some (16 + 65536 * 1))
    | .klog => op k (4 * 1 + 128 * 2 + 4096 * 3)
    | .kmov => op k (4 * 1 + 128 * 2)
    | _ => op k (2 + 4 * 1 + 128 * 2 + 4096 * 3)
  | .vmem => op k (2 + 4 * 1) (some (65536 * 0x1200))
  | .k => op k (128 * 2)

/-- Every operation. -/
def ops : List OpKind :=
  [.mov, .movi, .add, .sub, .addi, .neg, .abs, .adds, .subs, .min, .max, .minu, .maxu, .and, .or, .xor, .andn, .not, .shl,
   .shr, .sar, .rol, .ror, .extu, .exts, .ins, .clz, .popc, .bswap, .mul, .mulhs, .mulhu, .cmpeq, .cmpne, .cmplt, .cmpltu,
   .cmple, .cmpleu, .tst, .pand, .por, .pxor, .br, .brl, .brf, .brlf, .jr, .jrl, .loop, .mts, .mfs, .syscall, .brk, .hold,
   .retm, .rets, .gobroad, .barrier, .isync, .nop] ++
  [.ld, .lds, .ldf, .st, .stf, .vld, .vst, .vldl, .vstl, .pref, .fence, .dcflush, .dcinv, .icinv, .div, .divu, .rem, .remu,
   .fdiv, .fsqrt, .movs, .fils, .cmps, .scnsEq, .scnsNe, .vkeccak, .vntt] ++
  [.setvl, .vadd, .vsub, .vmul, .vmulh, .vmin, .vmax, .vlog, .vmov, .vsel, .vshl, .vshr, .vcmp, .vcmpl, .vadds, .vsubs,
   .vmulrh, .vsrr, .vred, .vgete, .vsete, .vsldn, .vslup, .vbswap, .klog, .kmov, .kpop, .fadd, .fsub, .fmul, .fma, .fmin,
   .fmax, .fcmp, .fcvt, .fcvtf, .fsgn, .fmvx, .fclass, .vfadd, .vfsub, .vfmul, .vfma, .vfmin, .vfmax, .vfcmp, .vfcvt,
   .vfsgn]

theorem test_witness_issues_broad : ops.all (fun k => issues (part broad) 0 k (enc k)) = true := by decide
theorem test_witness_issues_narrow : ops.all (fun k => issues (part narrow) 0 k (enc k)) = true := by decide

/-- So each operation of the list issues as a bundle of its own. -/
theorem issues_broad (k : OpKind) (h : k ∈ ops) : Issues (part broad) 0 k (enc k) :=
  issues_sound _ _ _ _ (List.all_eq_true.mp test_witness_issues_broad k h)

/-- What f reads in the state that command i leaves s in. -/
def after {α : Type} (i : Instr) (s : State) (f : State → α) : Option α :=
  match exec i s with
  | .next t => some (f t)
  | _ => none

/-- A scalar register of vent 0. -/
def reg (n : Nat) (s : State) : Word := regOf (ventAt s 0) n

/-! ### Witnesses: scalar operations -/

theorem test_witness_scalarToRegister : scalarKinds.all (fun k => ops.contains k && opD k (enc k) == .reg (fD (enc k)) &&
    srcA (part broad) 0 k (enc k) == { val := 8 } &&
    (srcB (part broad) 0 k (enc k) == { val := 3 } || srcB (part broad) 0 k (enc k) == {})) = true := by decide

/-- ADD of class 0 that is not the last of its bundle, and the same of class c that is: A1 = A2 + A3, A4 = A2 + A3. -/
def addFirst : OpEnc := opEnc false false 0 0 1 (BitVec.ofNat 17 (2 + 4 * 1 + 128 * 2 + 4096 * 3)) 0
/-- The second ADD, of class c. -/
def addLast (c : BitVec 3) : OpEnc := opEnc true false c 0 1 (BitVec.ofNat 17 (2 + 4 * 4 + 128 * 2 + 4096 * 3)) 0

/-- The part whose vent 0 has the first ADD under assembly. -/
def assembling : State := part { broad with fl := { bundle := [(.add, addFirst, none)] } }

theorem test_witness_pair : Pair assembling 0 .add addFirst .add (addLast 1) ∧ addFirst.cls ≠ (addLast 1).cls ∧
    (let s1 := assembling.foundN 0 2
     let vt := ventAt s1 0
     guardOn vt addFirst = true ∧ guardOn vt (addLast 1) = true ∧ vt.badRegs = [] ∧
     issueWaits s1 vt [⟨.add, addFirst, none⟩, ⟨.add, addLast 1, none⟩] = false) :=
  ⟨⟨⟨by decide, by decide, by decide, by decide, by decide⟩, by decide, by decide, by decide, by decide⟩, by decide, by decide⟩

/-- R144, R178: two ADDs of one bundle write both registers; two of one class raise cause 2, of which MCAUSE tells. -/
theorem test_bundle_of_two : after (.add 0 (addLast 1)) assembling (fun t => (reg 1 t, reg 4 t)) = some (11, 11) ∧
    after (.add 0 (addLast 0)) assembling (fun t => ((ventAt t 0).m.cause.toNat % 32, reg 4 t)) = some (2, 0) := by decide

/-- The same operation with its destination at [A5] and registers 2 and 3 as sources. -/
def toMem (k : OpKind) (sz : Nat) : OpEnc :=
  op k (if (opSig k).2.2 = .none then sz + 4 * 2 + 4096 * 1 else sz + 4 * 2 + 128 * 3 + 4096 * 1) (some 0x0500)

theorem test_witness_scalarToMemory : scalarKinds.all (fun k => (List.range 3).all (fun sz =>
    let e := toMem k sz
    issues (part broad) 0 k e && opD k e == .spec 0x500 && srcA (part broad) 0 k e == { val := 8 } &&
    (srcB (part broad) 0 k e == { val := 3 } || srcB (part broad) 0 k e == {}) &&
    specAddr ((part broad).fresh 0 e) 0x500 (2 ^ sz) (2 ^ sz) (2 ^ sz) == (0x100, [], []) &&
    accFaults ((part broad).ctx 0 e) .wr 0x100 (2 ^ sz) true == [] &&
    ventLoc ((part broad).fresh 0 e) 0 0x100 == .pal 0x100)) = true := by decide
theorem test_witness_scalarToMemory_ins :
    srcOpnd ((part broad).ctx 0 (toMem .ins 0)) 1 false (opD .ins (toMem .ins 0)) = { val := 0 } := by decide

/-- A broad vent whose A5 is the given address. -/
def a5 (x : Nat) : Vent := { broad with r := [(2, 8), (3, 3), (5, BitVec.ofNat 32 x)] }

/-- The same whose store buffer holds eight blocks of caldera memory. -/
def fullBuffer (x : Nat) : Vent :=
  { a5 x with fl := { sbuf := (List.range 8).map (fun i => { block := calBase 0 + 64 * i, bytes := [(calBase 0 + 64 * i, 1)] }) } }

theorem test_witness_scalarToCaldera : [part (a5 0x0010_2000), part (fullBuffer 0x0010_2000)].all (fun s =>
    let e := toMem .add 2
    issues s 0 .add e && specAddr (s.fresh 0 e) 0x500 4 4 4 == (0x0010_2000, [], []) &&
    accFaults (s.ctx 0 e) .wr 0x0010_2000 4 true == [] && ventLoc (s.fresh 0 e) 0 0x0010_2000 == .cal 0x2000) = true ∧
    (sbPush [] [] (entryFor ((part (a5 0x0010_2000)).ctx 0 (toMem .add 2)) (.cal 0x2000) 0x0010_2000 (calBase 0 + 0x2000) (zeros 4))).length
      ≤ 8 ∧
    8 < (sbPush [] (fullBuffer 0).fl.sbuf (entryFor ((part (fullBuffer 0x0010_2000)).ctx 0 (toMem .add 2)) (.cal 0x2000) 0x0010_2000
      (calBase 0 + 0x2000) (zeros 4))).length := by decide

theorem test_witness_predicates : compareKinds.all (fun k => ops.contains k &&
    srcA (part broad) 0 k (enc k) == { val := 8 } && srcB (part broad) 0 k (enc k) == { val := 3 }) = true ∧
    ops.contains .pand = true ∧ ops.contains .por = true ∧ ops.contains .pxor = true := by decide

/-- A branch under predicate 1. -/
def brIf : OpEnc := guarded 1 .br 4

theorem test_witness_immediatesAndBranches : let s := part { broad with r := [(2, 6)] }
    (regOf ((part broad).fresh 0 (enc .jr)) (fA (enc .jr))).toNat % 4 = 0 ∧ (regOf (s.fresh 0 (enc .jr)) (fA (enc .jr))).toNat % 4 ≠ 0 ∧
    issues s 0 .jr (enc .jr) = true ∧ (op .brf 2 (some 6)).hi.toNat % 4 ≠ 0 := by decide
/-- The part's vent 0 can read the handler's address of every cause that it can raise, and it waits where HBM's port is locked
and the table lies there. -/
theorem test_witness_handlerReady : let s := (part broad).found 0 (enc .nop)
    [0, 1, 2, 3, 4, 5, 6, 7, 8, 9, 10, 11, 12, 49].all (fun c => !entryWaits s 0 c (ventLevel (ventAt s 0))) = true := by decide
theorem test_witness_handler_waits : let x : Vent := { broad with m := { tbase := 0x4000_0000 }, winbase := [(0, 0x0010_0001)] }
    entryWaits { part x with mx := { locks := [{ target := 33, addr := 0x10_0000_0000 }] } } 0 6 3 = true := by decide
theorem test_witness_branch_target : Fetched (part broad) 0 .brf (op .brf 0 (some 6)) :=
  ⟨⟨by decide, by decide, by decide, by decide, by decide⟩, by decide, by decide, by decide⟩
theorem test_witness_branch_disabled : guardOn ((part broad).fresh 0 brIf) brIf = false ∧
    issueWaits ((part broad).found 0 brIf) ((part broad).fresh 0 brIf) [] = false ∧
    issues (part { broad with pred := 3 }) 0 .br brIf = true := by decide

theorem test_witness_divisions : [OpKind.div, .divu, .rem, .remu].all (fun k =>
    srcA (part broad) 0 k (enc k) == { val := 8 } && srcB (part broad) 0 k (enc k) == { val := 3 }) = true ∧
    (let vt := (part broad).fresh 0 (enc .fdiv)
     fpEnables vt &&& (fpOp .fdiv fmt32 (fctl vt) 0 0 0).2 = 0) := by decide

/-! ### Witnesses: loops, system registers, traps, barriers -/

/-- A broad vent with loop n ending at its pc, cnt passes left. -/
def looping (n cnt : Nat) : Vent :=
  { broad with loop := {
      lend := [(n, 0x0010_0000)]
      lbeg := [(n, 0x0010_0100)]
      lcnt := [(n, BitVec.ofNat 32 cnt)] } }

theorem test_witness_zeroOverheadLoops : [0, 3].all (fun n => [1, 2].all (fun c =>
    let s := part (looping n c)
    let vt := s.fresh 0 (enc .nop)
    issues s 0 .nop (enc .nop) && fget 0 vt.loop.lend n == vt.pc && fget 0 vt.loop.lcnt n == BitVec.ofNat 32 c &&
    (List.range 4).all (fun m => m == n || fget 0 vt.loop.lcnt m == 0))) = true := by decide
theorem test_witness_loop_counts : (regOf ((part broad).fresh 0 (enc .loop)) 2 ≠ 0) ∧
    issues (part { broad with r := [] }) 0 .loop (enc .loop) = true ∧
    regOf ((part { broad with r := [] }).fresh 0 (enc .loop)) 2 = 0 := by decide

/-- MTS or MFS of system register n. -/
def sysOp (k : OpKind) (n : Nat) : OpEnc := op k (4 * 1 + 128 * n)

theorem test_witness_systemRegisterWrites :
    [(0x07, 4), (0x0F, 4), (0x04, 0), (0x24, 0), (0x53, 3), (0, 3), (0x60, 3), (0x7F, 3)].all (fun p =>
      issues (part broad) 0 .mts (sysOp .mts p.1) && fld (sysOp .mts p.1) 31 22 == p.1 && (sregLevels p.1).2 == p.2) = true ∧
    ventLevel ((part broad).fresh 0 (enc .mts)) = 3 := by decide
theorem test_witness_systemRegister_reads : sregOk 4 = true ∧ sregOk 0x24 = true ∧ sregOk 0x53 = true ∧ (sregLevels 0x24).2 ≠ 4 := by
  decide
theorem test_witness_systemRegisterReads : [0, 9, 0x0E, 0x7F].all (fun n => issues (part broad) 0 .mfs (sysOp .mfs n) &&
    decide ((sregLevels n).1 ≤ ventLevel ((part broad).fresh 0 (sysOp .mfs n)))) = true ∧
    (calAt ((part broad).found 0 (enc .mfs)) (islandOf 0)).tbCopy ≤ (part broad).timebase := by decide

theorem test_witness_trapsAndEntry :
    ventLoc (ventAt (part broad) 0) 0 ((0 + 4 * 11) % 2 ^ 32) = .pal 44 ∧ badIn (part broad) (palBase 0 + 44) 4 = false ∧
    ops.contains .syscall = true ∧ ops.contains .brk = true ∧ entryWaits ((part broad).found 0 (enc .syscall)) 0 11 3 = false ∧
    entryWaits ((part broad).found 0 (enc .brk)) 0 12 3 = false := by decide
theorem test_witness_handlerReturns : ventLevel ((part broad).fresh 0 (enc .retm)) = 3 ∧ ops.contains .retm = true ∧
    ops.contains .rets = true ∧ ops.contains .gobroad = true := by decide

/-- A broad vent with one store for caldera memory in its buffer. -/
def storing : Vent :=
  { broad with fl := { sbuf := [{
      block := calBase 0
      bytes := [(calBase 0, 1)] }] } }

/-- A broad vent with one deferred fault. -/
def deferring : Vent := { broad with fl := { deferq := [{ addr := 3 }] } }

theorem test_witness_holdAndBarriers : let f := ((part broad).fresh 0 (enc .barrier)).fl
    issues (part storing) 0 .barrier (enc .barrier) = true ∧ ((part storing).fresh 0 (enc .barrier)).fl.sbuf ≠ [] ∧
    issues (part storing) 0 .fence (enc .fence) = true ∧ ((part storing).fresh 0 (enc .fence)).fl.sbuf ≠ [] ∧
    f.far = [] ∧ f.longs = [] ∧ f.sbuf = [] ∧ f.farWrites = [] ∧ f.deferq = [] ∧
    issues (part deferring) 0 .barrier (enc .barrier) = true ∧ ((part deferring).fresh 0 (enc .barrier)).fl.deferq ≠ [] ∧
    ((part deferring).fresh 0 (enc .barrier)).fl.sbuf = [] ∧ entryWaits ((part deferring).found 0 (enc .barrier)) 0 10 3 = false := by decide
theorem test_witness_hold_cut : fld (op .hold (4 * 0xFFF)) 28 17 = 0xFFF ∧ issues (part broad) 0 .hold (op .hold (4 * 0xFFF)) = true := by
  decide

/-- R238: BARRIER with a deferred fault raises cause 10, and FADDR holds the entry's address. -/
theorem test_barrier_deferred : after (.barrier 0 (enc .barrier)) (part deferring) (fun t =>
    ((ventAt t 0).m.cause.toNat % 32, (ventAt t 0).m.faddr, (ventAt t 0).fl.deferq.length)) = some (10, 3, 1) := by decide

/-! ### Witnesses: memory -/

theorem test_witness_scalarLoads : let e := enc .ld
    opA .ld e = .spec 0x508 ∧ specAddr ((part broad).fresh 0 e) 0x508 4 4 4 = (0x120, [], []) ∧
    accFaults ((part broad).ctx 0 e) .rd 0x120 4 false = [] ∧
    loadBuffer ((part broad).ctx 0 e) [{ va := 0x120, len := 4 }] = (none, false) ∧
    partLoad ((part broad).ctx 0 e) none { va := 0x120, len := 4 } = .got [0, 0, 0, 0] ∧
    ventLoc ((part broad).fresh 0 e) 0 0x120 = .pal 0x120 := by decide

/-- A load of an immediate, the lowest. -/
def loadImm : OpEnc := op .lds (1 + 4 * 1 + 4096 * 2) (some 0x8800)

theorem test_witness_load_immediate : issues (part broad) 0 .lds loadImm = true ∧ opA .lds loadImm = .spec 0x8800 ∧
    spMode 0x8800 = 8 := by decide

theorem test_witness_load_caldera : let s := part (a5 0x0010_2000)
    issues s 0 .ld (enc .ld) = true ∧ ventLoc (s.fresh 0 (enc .ld)) 0 0x0010_2020 = .cal 0x2020 ∧
    (s.fresh 0 (enc .ld)).fl.sbuf = [] ∧ partLoad (s.ctx 0 (enc .ld)) none { va := 0x0010_2020, len := 4 } = .got [0, 0, 0, 0] := by
  decide

/-- A vent with A5 as given, STAT as given, and window 0 over the matrix from w · 2^28 on, cacheable. -/
def windowed (stat : Word) (w x : Nat) : Vent :=
  { a5 x with
    stat := stat
    winbase := [(0, BitVec.ofNat 32 (w * 4096 + 3))] }

/-- A word of HBM to be loaded through the D-cache. -/
def farWord : FarPiece := { maddr := 0x10_0000_0020, len := 4, vaddr := 0x4000_0020, cache := true }

theorem test_witness_load_far : [3, 7].all (fun st =>
    let s := part (windowed st 0x100 0x4000_0000)
    let c := s.ctx 0 (enc .ld)
    issues s 0 .ld (enc .ld) && specAddr c.vt 0x508 4 4 4 == (0x4000_0020, [], []) && accFaults c .rd 0x4000_0020 4 false == [] &&
    loadBuffer c [{ va := 0x4000_0020, len := 4 }] == (none, false) &&
    partLoad c none { va := 0x4000_0020, len := 4 } == .out farWord && c.vt.fl.sbuf == [] &&
    ventNarrow c.vt == (st == 7) && !farBlocked c.s 0 { pieces := [farWord] }) = true := by decide +kernel
theorem test_witness_load_far_answer : let r := farPiece ((part (windowed 7 0x100 0x4000_0000)).found 0 (enc .ld)) 0 farWord
    r.1 = .okay ∧ r.2.1.length = 4 := by decide +kernel

/-- The same word outside HBM. -/
def noWord : FarPiece := { maddr := 0x40_0000_0020, len := 4, vaddr := 0x4000_0020, cache := true }

theorem test_witness_load_far_fails : let s := part (windowed 7 0x400 0x4000_0000)
    issues s 0 .ld (enc .ld) = true ∧ partLoad (s.ctx 0 (enc .ld)) none { va := 0x4000_0020, len := 4 } = .out noWord ∧
    (farPiece (s.found 0 (enc .ld)) 0 noWord).1 ≠ .okay ∧ farBlocked (s.found 0 (enc .ld)) 0 { pieces := [noWord] } = false ∧
    entryWaits (s.found 0 (enc .ld)) 0 10 3 = false := by decide +kernel
/-- A vent with 64 far loads outstanding. -/
def crowded (x : Vent) : Vent := { x with fl := { far := List.replicate 64 { pieces := [farWord] } } }

theorem sum_zeros (l : List Nat) (h : ∀ n ∈ l, n = 0) : l.sum = 0 := by
  induction l with
  | nil => rfl
  | cons n r ih => simp [h n (by simp), ih (fun m hm => h m (by simp [hm]))]
theorem mem_le_sum (l : List Nat) (n : Nat) (h : n ∈ l) : n ≤ l.sum := by
  induction l with
  | nil => simp at h
  | cons m r ih =>
    rw [List.sum_cons]
    cases h with
    | head => omega
    | tail _ h => have := ih h; omega
theorem portOut_idle (s : State) (v : Nat) (h : ∀ x < 97, (ventAt s x).fl.far = [] ∧ (ventAt s x).fl.farWrites = []) :
    portOut s v = 0 := by
  unfold portOut
  apply sum_zeros
  intro n hn
  obtain ⟨x, hx, rfl⟩ := List.mem_map.mp hn
  have := h x (List.mem_range.mp hx)
  simp [this.1, this.2]
theorem portOut_own (s : State) (v : Nat) (hv : v < 97) :
    ((ventAt s v).fl.far.map FarLoad.bursts).sum ≤ portOut s v := by
  unfold portOut
  refine Nat.le_trans ?_ (mem_le_sum _ _ (List.mem_map_of_mem (List.mem_range.mpr hv)))
  rw [if_pos rfl]
  exact Nat.le_add_right _ _

theorem test_witness_load_port : let s := part (crowded (windowed 3 0x100 0x4000_0000))
    portOut ((part (windowed 3 0x100 0x4000_0000)).found 0 (enc .ld)) 0 < 64 ∧
    portOut ((part (windowed 7 0x100 0x4000_0000)).found 0 (enc .ld)) 0 < 64 ∧
    portOut ((part (windowed 7 0x400 0x4000_0000)).found 0 (enc .ld)) 0 < 64 ∧
    issues s 0 .ld (enc .ld) = true ∧ partLoad (s.ctx 0 (enc .ld)) none { va := 0x4000_0020, len := 4 } = .out farWord ∧
    64 ≤ portOut (s.found 0 (enc .ld)) 0 := by
  refine ⟨?_, ?_, ?_, by decide, by decide, Nat.le_trans (by decide) (portOut_own _ 0 (by decide))⟩ <;>
  · rw [portOut_idle _ _ (by decide)]
    decide

/-- A broad vent with one byte of a word stored, still in the store buffer. -/
def half : Vent :=
  { a5 0x0010_2000 with fl := { sbuf := [{
      block := calBase 0 + 0x2000
      bytes := [(calBase 0 + 0x2020, 1)] }] } }

theorem test_witness_load_waits : issues (part half) 0 .ld (enc .ld) = true ∧
    (loadBuffer ((part half).ctx 0 (enc .ld)) [{ va := 0x0010_2020, len := 4 }]).2 = true := by decide

theorem test_witness_blockLoads : let e := enc .vldl
    let c := (part broad).ctx 0 e
    opA .vldl e = .spec 0x508 ∧ spMode 0x508 ≠ 8 ∧ specAddr c.vt 0x508 64 64 64 = (0x300, [], []) ∧ blockFaults c .rd 0x300 = [] ∧
    (ventLoc c.vt 0 0x300).isLocal = true ∧ loadBuffer c [{ va := 0x300, len := 64 }] = (none, false) ∧
    partLoad c none { va := 0x300, len := 64 } = .got (zeros 32 ++ zeros 32) ∧ (zeros 32).length = 32 := by decide
theorem test_witness_blockLoads_caldera : let s := part (a5 0x0010_2000)
    let c := s.ctx 0 (enc .vldl)
    issues s 0 .vldl (enc .vldl) = true ∧ specAddr c.vt 0x508 64 64 64 = (0x0010_2200, [], []) ∧ blockFaults c .rd 0x0010_2200 = [] ∧
    ventLoc c.vt 0 0x0010_2200 = .cal 0x2200 ∧ c.vt.fl.sbuf = [] := by decide
theorem test_witness_blockLoads_far : [part (windowed 3 0x100 0x4000_0000), part (crowded (windowed 3 0x100 0x4000_0000))].all (fun s =>
    let c := s.ctx 0 (enc .vldl)
    issues s 0 .vldl (enc .vldl) && specAddr c.vt 0x508 64 64 64 == (0x4000_0200, [], []) && blockFaults c .rd 0x4000_0200 == [] &&
    loadBuffer c [{ va := 0x4000_0200, len := 64 }] == (none, false) &&
    partLoad c none { va := 0x4000_0200, len := 64 } ==
      .out { maddr := 0x10_0000_0200, len := 64, vaddr := 0x4000_0200, cache := true }) = true := by decide
theorem test_witness_blockLoads_port : portOut ((part (windowed 3 0x100 0x4000_0000)).found 0 (enc .vldl)) 0 < 64 ∧
    64 ≤ portOut ((part (crowded (windowed 3 0x100 0x4000_0000))).found 0 (enc .vldl)) 0 := by
  rw [portOut_idle _ _ (by decide)]
  exact ⟨by decide, Nat.le_trans (by decide) (portOut_own _ 0 (by decide))⟩
/-- A block of HBM, and one outside it. -/
def farBlock : FarPiece := { maddr := 0x10_0000_0200, len := 64, vaddr := 0x4000_0200, cache := true }
theorem test_witness_blockLoads_narrow : let s := part (windowed 7 0x100 0x4000_0000)
    let c := s.ctx 0 (enc .vldl)
    issues s 0 .vldl (enc .vldl) = true ∧ specAddr c.vt 0x508 64 64 64 = (0x4000_0200, [], []) ∧ blockFaults c .rd 0x4000_0200 = [] ∧
    partLoad c none { va := 0x4000_0200, len := 64 } = .out farBlock ∧ ventNarrow c.vt = true ∧ c.vt.fl.sbuf = [] ∧
    farBlocked c.s 0 { pieces := [farBlock] } = false ∧ (farPiece c.s 0 farBlock).1 = .okay ∧
    (farPiece c.s 0 farBlock).2.1 = zeros 32 ++ zeros 32 := by decide +kernel
theorem test_witness_blockLoads_fails : let s := part (windowed 7 0x400 0x4000_0000)
    let c := s.ctx 0 (enc .vldl)
    issues s 0 .vldl (enc .vldl) = true ∧ (farPiece c.s 0 { farBlock with maddr := 0x40_0000_0200 }).1 ≠ .okay ∧
    entryWaits c.s 0 10 3 = false := by decide +kernel
theorem test_witness_blockLoads_wait : let x : SbEntry := { block := calBase 0 + 0x2200, bytes := [(calBase 0 + 0x2201, 1)] }
    let s := part { a5 0x0010_2000 with fl := { sbuf := [x] } }
    issues s 0 .vldl (enc .vldl) = true ∧ (loadBuffer (s.ctx 0 (enc .vldl)) [{ va := 0x0010_2200, len := 64 }]).2 = true := by decide

theorem test_witness_storesAndJobs : [part broad, part (a5 0x0010_2000), part (fullBuffer 0x0010_2000)].all (fun s =>
    let a := (regOf (ventAt s 0) 5).toNat + 0x20
    let c := s.ctx 0 (enc .st)
    issues s 0 .st (enc .st) && opD .st (enc .st) == .spec 0x508 && specAddr c.vt 0x508 4 4 4 == (a, [], []) &&
    accFaults c .wr a 4 false == [] && ventLoc c.vt 0 a == (if a < 0x40000 then .pal a else .cal (a - 0x100000))) = true ∧
    ((part (fullBuffer 0x0010_2000)).fresh 0 (enc .st)).fl.sbuf.length = 8 := by decide

/-- A VSTL to the vent's own VJOB. -/
def vstlJob : OpEnc := op .vstl (2 + 4 * 2 + 4096 * 1) (some 0x0500)

theorem test_witness_vstl_job : let s := part (a5 0x8FF0_0040)
    issues s 0 .vstl vstlJob = true ∧ specAddr (s.fresh 0 vstlJob) 0x500 64 64 64 = (0x8FF0_0040, [], []) ∧
    accFaults (s.ctx 0 vstlJob) .wr 0x8FF0_0040 64 false = [] ∧ (s.fresh 0 vstlJob).fl.sbuf = [] ∧
    ventLoc (s.fresh 0 vstlJob) 0 0x8FF0_0040 = .dev (0x90000000 + 0 / 8 * 0x100000 + 0 % 8 * 0x1000 + 0x40) := by decide

theorem test_witness_cacheOperations : let s := part (windowed 3 0x100 0x4000_0000)
    let e := enc .pref
    let x := s.fresh 0 e
    issues s 0 .pref e = true ∧ opA .pref e = .spec 0x508 ∧ specAddr x 0x508 4 4 4 = (0x4000_0020, [], []) ∧
    ventLoc x 0 0x4000_0020 = .far 0x10_0000_0020 true ∧ x.fl.dcache = [] ∧
    matLocked (ventMaster 0) 0x10_0000_0000 (s.found 0 e) = false ∧ evictBlocked (s.found 0 e) 0 0x10_0000_0020 = false ∧
    (matRead (ventMaster 0) 0x10_0000_0000 64 (s.after 0 e x)).1 = .okay := by decide +kernel
theorem test_witness_pref_local : ventLoc ((part broad).fresh 0 (enc .pref)) 0 0x120 = .pal 0x120 ∧
    specAddr ((part broad).fresh 0 (enc .pref)) 0x508 4 4 4 = (0x120, [], []) := by decide

/-- The same part with HBM's port locked by a host request. -/
def lockedHbm (l : List DLine) : State :=
  let x := windowed 3 0x100 0x4000_0000
  { part { x with
      r := [(1, 0x4000_0000), (2, 0x4000_0000), (3, 64), (5, 0x4000_0000)]
      fl := { dcache := l } } with mx := { locks := [{ target := 33, addr := 0x10_0000_0000 }] } }

theorem test_witness_pref_locked : issues (lockedHbm []) 0 .pref (enc .pref) = true ∧
    matLocked (ventMaster 0) 0x10_0000_0000 ((lockedHbm []).found 0 (enc .pref)) = true := by decide
theorem test_witness_dcflush : let s := lockedHbm [{ block := 0x10_0000_0000, dirty := true }]
    let e := enc .dcflush
    issues s 0 .dcflush e = true ∧ (s.fresh 0 e).fl.dcache = [{ block := 0x10_0000_0000, dirty := true }] ∧
    (rangeBlocks (s.fresh 0 e) (regOf (s.fresh 0 e) (fA e)).toNat (regOf (s.fresh 0 e) (fB e)).toNat).contains 0x10_0000_0000 = true ∧
    matLocked (ventMaster 0) 0x10_0000_0000 (s.found 0 e) = true ∧ ((part broad).fresh 0 e).fl.dcache = [] := by decide +kernel
theorem test_witness_cache_port : let s := part (crowded { windowed 3 0x100 0x4000_0000 with
      r := [(2, 0x4000_0000), (3, 64), (5, 0x4000_0000)] })
    issues s 0 .pref (enc .pref) = true ∧ 64 ≤ portOut (s.found 0 (enc .pref)) 0 ∧
    (let t := part { crowded { broad with r := [(2, 0x4000_0000), (3, 64)] } with
        winbase := [(0, 0x0010_0003)]
        fl := { dcache := [{ block := 0x10_0000_0000, dirty := true }], far := List.replicate 64 { pieces := [farWord] } } }
     issues t 0 .dcflush (enc .dcflush) = true ∧ 64 ≤ portOut (t.found 0 (enc .dcflush)) 0) :=
  ⟨by decide, Nat.le_trans (by decide) (portOut_own _ 0 (by decide)), by decide,
    Nat.le_trans (by decide) (portOut_own _ 0 (by decide))⟩
theorem test_witness_dcinv : let x := (part broad).fresh 0 (enc .dcinv)
    dcinvFaults ((part broad).ctx 0 (enc .dcinv)) (regOf x (fA (enc .dcinv))).toNat (regOf x (fB (enc .dcinv))).toNat = [] := by decide

/-! ### Witnesses: vectors and long operations -/

/-- A broad vent with VL 64 and A2 as given, so that VLD and VST of `enc` access 16 words from there on. -/
def vectorAt (x : Nat) : Vent := { broad with r := [(2, BitVec.ofNat 32 x)] }

/-- The refused elements of the first k of an access. -/
def refusals (s : State) (k : OpKind) (n : Nat) : List (Nat × Nat) :=
  let c := s.ctx 0 (enc k)
  (List.range n).flatMap (fun j => (vmemFaults c (vmemOf c k (enc k)) j).map (fun f => (j, f.faddr)))

theorem test_witness_vectorMemory : [(8, OpKind.vld), (8, .vst), (0x0010_2000, .vld), (0x0010_2000, .vst)].all (fun p =>
    let s := part (vectorAt p.1)
    let e := enc p.2
    issues s 0 p.2 e && decide ((s.fresh 0 e).vec.vl.toNat ≤ vlenb s) && spMode (fIMM e) == 1 &&
    specAddr (s.fresh 0 e) (fIMM e) 64 64 64 == (p.1, [.gpr 2 (BitVec.ofNat 32 (p.1 + 64))], []) && (s.fresh 0 e).fl.sbuf == [] &&
    refusals s p.2 16 == []) = true := by decide
theorem test_witness_vector_own : Own 0 8 64 ∧ Own 0 0x0010_2000 64 ∧ Own 0 0x3FFF4 (3 * 4) := by
  unfold Own
  decide

theorem test_witness_vld_immediate : let e := op .vld (2 + 4 * 1) (some (65536 * 0x8FFF))
    issues (part broad) 0 .vld e = true ∧ spMode (fIMM e) = 8 := by decide

/-- The last three words of the palette and the first beyond it. -/
theorem test_witness_vector_refused : [OpKind.vld, .vst].all (fun k =>
    let s := part (vectorAt 0x3FFF4)
    issues s 0 k (enc k) && refusals s k 4 == [(3, 0x40000)] && !entryWaits (s.found 0 (enc k)) 0 6 3) = true := by decide +kernel

/-- The three parts of a VLD of three words of HBM, all to be fetched. -/
def farParts : List FarPiece := (List.range 3).map (fun i =>
  { maddr := 0x10_0000_0000 + 4 * i, len := 4, dst := 4 * i, vaddr := 0x4000_0000 + 4 * i, elem := i })

/-- A vent with VL 12 over an uncacheable window of HBM. -/
def farVector : Vent :=
  { broad with
    r := [(2, 0x4000_0000)]
    winbase := [(0, 0x0010_0001)]
    vec := { vl := 12 } }

theorem test_witness_vld_far : let s := part farVector
    let c := s.ctx 0 (enc .vld)
    let parts := (List.range 3).map (fun j => ({ va := 0x4000_0000 + 4 * j, len := 4, dst := 4 * j, elem := j } : LPart))
    issues s 0 .vld (enc .vld) = true ∧ refusals s .vld 3 = [] ∧ loadBuffer c parts = (none, false) ∧
    parts.map (partLoad c none) = farParts.map PartLoad.out ∧ ventNarrow c.vt = false := by decide +kernel
theorem test_witness_vld_far_port : portOut ((part farVector).found 0 (enc .vld)) 0 + (farParts.map (fun p => p.maddr / 64)).eraseDups.length ≤ 64 ∧
    issues (part (crowded farVector)) 0 .vld (enc .vld) = true ∧
    64 < portOut ((part (crowded farVector)).found 0 (enc .vld)) 0 + (farParts.map (fun p => p.maddr / 64)).eraseDups.length := by
  refine ⟨?_, by decide, Nat.lt_of_lt_of_le (by decide) (Nat.add_le_add_right (portOut_own _ 0 (by decide)) _)⟩
  rw [portOut_idle _ _ (by decide)]
  decide

theorem test_witness_vector_waits : let x : SbEntry := { block := calBase 0 + 0x2000, bytes := [(calBase 0 + 0x2000, 1)] }
    let s := part { vectorAt 0x0010_2000 with fl := { sbuf := [x] } }
    issues s 0 .vld (enc .vld) = true ∧ (loadBuffer (s.ctx 0 (enc .vld)) [{ va := 0x0010_2000, len := 4 }]).2 = true ∧
    refusals s .vld 16 = [] := by decide +kernel

/-- R210: where VST refuses its fourth element, the first three are stored and VRES holds 3. -/
theorem test_vector_refused : after (.vst 0 (enc .vst))
    (part { vectorAt 0x3FFF4 with vec := { vl := 64, v := [(1, 0x44444444_33333333_22222222_11111111)] } })
    (fun t => ((ventAt t 0).vec.vres, (ventAt t 0).m.faddr, reg 2 t, leNat (memBytes t.mem (palBase 0 + 0x3FFF4) 12))) =
      some (3, 0x40000, 0x3FFF4, 0x33333333_22222222_11111111) := by decide +kernel

/-- A broad vent with C1 4, A1 and A2 as given, for the string operations of `enc`, of bytes. -/
def stringAt (d a : Nat) : Vent := { broad with r := [(25, 4), (1, BitVec.ofNat 32 d), (2, BitVec.ofNat 32 a)] }

/-- The string operations. -/
def stringKinds : List OpKind := [.movs, .fils, .cmps, .scnsEq, .scnsNe]

theorem test_witness_stringOperations : [(0x100, 0x200), (0x0010_2000, 0x0010_3000)].all (fun p => stringKinds.all (fun k =>
    let s := part (stringAt p.1 p.2)
    let e := enc k
    let vt := s.fresh 0 e
    issues s 0 k e && regOf vt (24 + fld e 18 17) == 4 && regOf vt (fld e 22 19) == BitVec.ofNat 32 p.1 &&
    regOf vt (fld e 26 23) == BitVec.ofNat 32 p.2 && vt.fl.sbuf.isEmpty && fSZ e == 0 &&
    (List.range 4).all (fun j => elemFaults (s.ctx 0 e) k 1 p.1 p.2 j == []))) = true := by
  decide +kernel
theorem test_witness_string_own : Own 0 0x100 8 ∧ Own 0 0x200 8 ∧ Own 0 0x0010_2000 4 ∧ Own 0 0x0010_3000 4 ∧ Own 0 0xFFA 8 := by
  unfold Own
  decide

/-- The same of eight bytes with a soft interrupt pending, which a stop at element 4 takes. -/
def stringStopped : State :=
  part { stringAt 0x100 0x200 with
    stat := 0xB
    r := [(25, 8), (1, 0x100), (2, 0x200)]
    evt := { pend := 32, en := 0xFF0000 } }

theorem test_witness_string_stop : stringKinds.all (fun k =>
    issues stringStopped 0 k (enc k) && asyncWaits (stringStopped.ctx 0 (enc k)) &&
    (List.range 8).all (fun j => elemFaults (stringStopped.ctx 0 (enc k)) k 1 0x100 0x200 j == [])) = true ∧ 4 % (4 / 1) = 0 ∧ 4 < 8 := by
  decide +kernel

/-- Strings of eight bytes at level S, whose region entries cover the palette's first 4 KiB, which the first string leaves
after n bytes, and caldera memory. -/
def stringRefused (n : Nat) : State :=
  part { stringAt 0x100 0x200 with
    stat := 1
    rgn := [(0, 1 + 2 * 12 + 0x7FC0), (1, 1 + 2 * 20 + 0x7FC0 + 0x100 * 2 ^ 44)]
    r := [(25, 8), (1, BitVec.ofNat 32 (0x1000 - n)), (2, 0x200)] }

theorem test_witness_string_refused : [2, 6].all (fun n => stringKinds.all (fun k =>
    let c := (stringRefused n).ctx 0 (enc k)
    issues (stringRefused n) 0 k (enc k) && (List.range n).all (fun j => elemFaults c k 1 (0x1000 - n) 0x200 j == []) &&
    (elemFaults c k 1 (0x1000 - n) 0x200 n).map (fun f => (f.cause, f.faddr)) == [(7, 0x1000)])) = true ∧
    2 / 4 * 4 = 0 ∧ 6 / 4 * 4 ≠ 0 := by decide +kernel

/-- MOVS of halfwords. -/
def movsHalf : OpEnc := op .movs (1 + 4 * 1 + 16 * 1 + 256 * 2)
theorem test_witness_string_skewed : issues (part (stringAt 0x101 0x200)) 0 .movs movsHalf = true ∧ 0x101 % 2 ≠ 0 ∧
    issues (part (stringAt 0x100 0x201)) 0 .movs movsHalf = true ∧ 0x201 % 2 ≠ 0 ∧
    entryWaits ((part (stringAt 0x101 0x200)).found 0 movsHalf) 0 5 3 = false := by decide
theorem test_witness_string_overlaps : let s := part (stringAt 0x102 0x100)
    issues s 0 .movs (enc .movs) = true ∧ Own 0 0x102 4 ∧ Own 0 0x100 4 ∧ ¬ 0x102 ≤ 0x100 := by
  refine ⟨by decide, ?_, ?_, by decide⟩ <;>
  · unfold Own
    decide
/-- R196: a copy of four bytes two bytes on repeats the first two. -/
theorem test_movs_overlap : after (.movs 0 (enc .movs) none) { part (stringAt 0x102 0x100) with
    mem := [(palBase 0 + 0x100, 1), (palBase 0 + 0x101, 2)] } (fun t => memBytes t.mem (palBase 0 + 0x100) 6) = some [1, 2, 1, 2, 1, 2] := by
  decide +kernel

theorem test_witness_keccakAndNtt : let s := part { broad with r := [(2, 64)] }
    [OpKind.vkeccak, .vntt].all (fun k => issues s 0 k (enc k) && ventLoc (s.fresh 0 (enc k)) 0 64 == .pal 64) = true ∧
    palOperand (s.ctx 0 (enc .vkeccak)) 64 200 8 = [] ∧ palOperand (s.ctx 0 (enc .vntt)) 64 512 64 = [] := by decide
/-- A vent whose VKECCAK was stopped before round 23, a soft interrupt pending. -/
def keccakStopped : Vent :=
  { broad with
    stat := 0xB
    r := [(2, 64)]
    vec := { lprog := 0x37 }
    evt := { pend := 32, en := 0xFF0000 } }

theorem test_witness_keccak_resumed : let s := part keccakStopped
    let e := enc .vkeccak
    issues s 0 .vkeccak e = true ∧ (s.fresh 0 e).vec.lprog.toNat % 32 = 23 ∧ (s.fresh 0 e).vec.lprog.toNat / 32 % 4 = 1 ∧
    asyncWaits (s.ctx 0 e) = true ∧ nextAsync s 0 = some (23, 0) := by decide

/-- What vectorElements, vectorMoves, maskOperations, scalarFloat and vectorFloat ask beside issue
(test_witness_issues_broad): VL
within VLENB, and no floating-point trap enabled. -/
theorem test_witness_vectors : let x := (part broad).fresh 0 (enc .vadd)
    x.vec.vl.toNat ≤ vlenb (part broad) ∧ fpEnables x = 0 ∧ elementKinds.all (fun k => ops.contains k) = true ∧ 15 < elemCount x 32 := by
  decide
theorem test_witness_vsete_ends : let e := fun n => op .vsete (2 + 4 * 1 + 128 * 2) (some (16 + 65536 * n))
    issues (part broad) 0 .vsete (e 15) = true ∧ (elemB ((part broad).fresh 0 (e 15)) (e 15) 32 0).toNat = 15 ∧
    issues (part broad) 0 .vsete (e 16) = true ∧ (elemB ((part broad).fresh 0 (e 16)) (e 16) 32 0).toNat = vlenb (part broad) * 8 / 32 := by
  decide
theorem test_witness_kmov : (List.range 4).all (fun j =>
    let e := op .kmov (4 * 1 + 128 * 2) (some (32 * j))
    issues (part broad) 0 .kmov e && fSUB e == j) = true ∧
    issues (part broad) 0 .kpop (op .kpop (2 + 4 * 1 + 128 * 2) (some 32)) = true := by decide

/-- A broad vent at level l whose region entry 0 lets S and U do everything below 2^31. -/
def atLevel (l : BitVec 32) : Vent :=
  { broad with
    stat := l
    rgn := [(0, 1 + 2 * 31 + 0x1C0 + 0xE00 + 0x7000)] }

theorem test_witness_preciseFaults :
    Fetched (part broad) 0 .nop (op .nop 1) ∧ encOk .nop (op .nop 1) 1 false = false ∧
    Fetched { part broad with fuses := { variant := .sz0800A } } 0 .vkeccak (enc .vkeccak) ∧
    hasGlaze { part broad with fuses := { variant := .sz0800A } } = false :=
  ⟨⟨⟨by decide, by decide, by decide, by decide, by decide⟩, by decide, by decide, by decide⟩, by decide,
    ⟨⟨by decide, by decide, by decide, by decide, by decide⟩, by decide, by decide, by decide⟩, by decide⟩
/-- R187, R200: a word whose opcode is reserved spells no operation, and is fetched as any operation's. -/
theorem test_witness_reserved_opcode : let e := opEnc true false 0 0 0x1B 0 0
    e.op = none ∧ Fetched (part broad) 0 .add e ∧ encOk .add e 1 false = false :=
  ⟨by decide, ⟨⟨by decide, by decide, by decide, by decide, by decide⟩, by decide, by decide, by decide⟩, by decide⟩
theorem test_witness_levels : let at_ := fun (l : BitVec 32) (k : OpKind) => ventLevel ((part (atLevel l)).fresh 0 (enc k))
    issues (part (atLevel 1)) 0 .retm (enc .retm) = true ∧ at_ 1 .retm = 1 ∧ issues (part (atLevel 0)) 0 .rets (enc .rets) = true ∧
    at_ 0 .rets = 0 ∧ issues (part (atLevel 0)) 0 .mts (sysOp .mts 0) = true ∧
    issues (part (atLevel 0)) 0 .mfs (sysOp .mfs 0) = true := by decide
/-- A broad vent with every floating-point trap enabled and the largest binary32 value in F2 and F3. -/
def trapping : Vent :=
  { broad with vec := {
      vl := 64
      fpctl := 0xFFFF
      v := [(2, 0x7F7FFFFF), (3, 0x7F7FFFFF)] } }

theorem test_witness_traps : let s := part { broad with r := [], astat := 0x100 }
    let x := (part trapping).fresh 0 (enc .fadd)
    issues (part { broad with r := [(2, 6)] }) 0 .jr (enc .jr) = true ∧ srcB s 0 .div (enc .div) = { val := 0 } ∧
    issues s 0 .div (enc .div) = true ∧ issues (part trapping) 0 .fadd (enc .fadd) = true ∧
    fpEnables x &&& (fpOp .fadd fmt32 (fctl x) 0 0x7F7FFFFF 0x7F7FFFFF).2 ≠ 0 := by decide

/-- A vent at S whose region entries and pc are as given. -/
def regioned (rgn : FMap DWord) (pc : Word) : Vent :=
  { a5 0x0010_2000 with
    stat := 1
    pc := pc
    rgn := rgn }

/-- Entry 0 covers the megabyte of caldera memory from 0x0010_0000 on with the permission bits p, and entry 1 everything below
2^31 with none. -/
def regions (p : Nat) : FMap DWord := [(0, BitVec.ofNat 64 (1 + 2 * 20 + p + 0x100 * 2 ^ 44)), (1, BitVec.ofNat 64 (1 + 2 * 31))]

/-- What RgnCovers and RgnRefused say, as values to compute. -/
def covers (x : Vent) (a n : Nat) : Bool :=
  let w := (fget 0 x.rgn n).toNat
  let size := w / 2 % 32
  let base := w / 2 ^ 44 * 4096 / 2 ^ size * 2 ^ size
  w % 2 == 1 && decide (12 ≤ size) && decide (base ≤ a) && decide (a < base + 2 ^ size)
theorem covers_iff (x : Vent) (a n : Nat) : RgnCovers x n a ↔ covers x a n = true := by
  simp [RgnCovers, covers, and_assoc]
/-- The number of the permission bit of a kind of access at U. -/
def kindBit : Acc → Nat
  | .rd => 0
  | .wr => 1
  | .ex => 2
theorem refused_iff (x : Vent) (lvl a : Nat) (k : Acc) (why : Nat) : RgnRefused x lvl a k why ↔
    (why == 6 && (List.range 16).any (fun n => covers x a n && (List.range n).all (fun m => !covers x a m) &&
      !(fget 0 x.rgn n).getLsbD (6 + 3 * min lvl 2 + kindBit k)) ||
    why == 7 && lvl != 3 && (List.range 16).all (fun n => !covers x a n)) = true := by
  cases k <;> simp [RgnRefused, covers_iff, kindBit, and_assoc]

theorem test_witness_regions : let x := regioned (regions 0xA00) 0x0010_0000
    RgnRefused x 1 0x0010_2000 .wr 6 ∧ RgnRefused x 1 0x0020_0000 .rd 6 ∧ RgnRefused x 1 0x8000_0000 .rd 7 ∧
    ¬RgnRefused x 1 0x0010_2000 .rd 6 ∧ ¬RgnRefused x 3 0x8000_0000 .rd 7 := by
  simp only [refused_iff]
  decide
theorem test_witness_refused : let s := part (regioned (regions 0xA00) 0x0010_0000)
    let c := s.ctx 0 (enc .st)
    issues s 0 .st (enc .st) = true ∧ AccRefused c .wr 0x0010_2020 4 false 6 0x0010_2020 ∧
    specAddr c.vt 0x508 4 4 4 = (0x0010_2020, [], []) ∧ entryWaits c.s 0 6 1 = false := by
  refine ⟨by decide, ?_, by decide, by decide⟩
  refine .inr (.inr (.inl ⟨by decide, ?_, .inl ?_, rfl, rfl⟩)) <;>
  · simp only [refused_iff]
    decide
theorem test_witness_refused_far : let s := part { a5 0x4000_0000 with winbase := [(0, 0x0010_0001)] }
    let e := toMem .add 2
    issues s 0 .add e = true ∧ opD .add e = .spec 0x500 ∧ AccRefused (s.ctx 0 e) .wr 0x4000_0000 4 true 6 0x4000_0000 ∧
    opndMem (opA .add e) = false ∧ opndMem (opB .add e) = false := by
  refine ⟨by decide, by decide, .inr (.inr (.inl ⟨by decide, ?_, .inr (.inr ⟨rfl, by decide⟩), rfl, rfl⟩)), by decide, by decide⟩
  simp only [refused_iff]
  decide
/-- R184, R161, R242, R243, R258: at S a load below a region without read permission, outside every region, unmapped or
misaligned, and a fetch from where execution is denied, from the palette and from a word that is uncorrectable. -/
theorem test_refusals :
    let cause := fun (t : State) => ((ventAt t 0).m.cause.toNat % 64, (ventAt t 0).m.faddr)
    after (.ld 0 (enc .ld)) (part (regioned (regions 0x800) 0x0010_0000)) cause = some (6, 0x0010_2020) ∧
    after (.ld 0 (enc .ld)) (part { regioned (regions 0xA00) 0x0010_0000 with r := [(5, 0x8000_0000)] }) cause = some (7, 0x8000_0020) ∧
    after (.ld 0 (enc .ld)) (part (a5 0x0050_0000)) cause = some (6, 0x0050_0020) ∧
    after (.ld 0 (enc .ld)) (part (a5 0x0010_2002)) cause = some (5, 0x0010_2022) ∧
    after (.nop 0 (enc .nop)) (part (regioned (regions 0x600) 0x0010_0000)) cause = some (3, 0x0010_0000) ∧
    after (.nop 0 (enc .nop)) (part { broad with pc := 0x100 }) cause = some (4, 0x100) ∧
    after (.nop 0 (enc .nop)) { part broad with hbm := { badWords := [(calBase 0 + 60) / 4] } } cause = some (4, 0x0010_0000) := by
  decide +kernel
theorem test_witness_fetch_refused : let s := part (regioned (regions 0x600) 0x0010_0000)
    let x := s.early 0
    ventRuns s 0 = true ∧ RgnRefused x (ventLevel x) 0x0010_0000 .ex 6 ∧ narrowWaits x = false ∧ narrowDue x = false ∧
    fetchBlocked (setVent s 0 x) 0 x.pc.toNat 1 = false ∧ entryWaits (setVent s 0 x) 0 3 1 = false := by
  refine ⟨by decide, ?_, by decide, by decide, by decide, by decide⟩
  simp only [refused_iff]
  decide

theorem test_witness_register_error : let s := part { broad with badRegs := [2] }
    Lone s 0 .add (enc .add) ∧ guardOn (s.fresh 0 (enc .add)) (enc .add) = true ∧
    issueWaits (s.found 0 (enc .add)) (s.fresh 0 (enc .add)) [⟨.add, enc .add, none⟩] = false ∧
    (evalOp (s.ctx 0 (enc .add)) ⟨.add, enc .add, none⟩).wait = false ∧
    readsBad 64 (s.fresh 0 (enc .add)).badRegs .add (enc .add) = true ∧ entryWaits (s.found 0 (enc .add)) 0 49 3 = false :=
  ⟨⟨⟨⟨by decide, by decide, by decide, by decide, by decide⟩, by decide, by decide, by decide⟩, by decide, by decide⟩, by decide,
    by decide, by decide, by decide, by decide⟩

theorem test_witness_addressingModes : spMode 0x5000 = 5 ∧ (16 : Nat) = 2 ^ 4 ∧ (262144 : Nat) = 2 ^ 18 ∧
    (fget 0 ({ broad with loop := { cl := [(0, 16)] } } : Vent).loop.cl 0).toNat = 2 ^ 4 := by decide

/-! ### A drained caldera -/

theorem ffind_append {α : Type} (a b : FMap α) (k : Nat) :
    ffind (a ++ b) k = match ffind a k with
      | some x => some x
      | none => ffind b k := by
  induction a with
  | nil => rfl
  | cons p r ih =>
    obtain ⟨n, y⟩ := p
    simp only [List.cons_append, ffind]
    split
    · rfl
    · exact ih
theorem ffind_run {α : Type} (x : α) (n k : Nat) :
    ffind ((List.range n).map (fun b => (b, x))) k = if k < n then some x else none := by
  induction n with
  | zero => rfl
  | succ n ih =>
    rw [List.range_succ, List.map_append, ffind_append, ih]
    by_cases h : k < n
    · simp [h, Nat.lt_succ_of_lt h]
    · by_cases h2 : n = k
      · subst h2; simp [ffind]
      · have : ¬ k < n + 1 := by omega
        simp [h, this, ffind, h2]

/-- s with every entry of bank 0 naming vent 8, no other bank in use, and the calderas of x excluded. -/
def awayFrom0 (x : BitVec 12) (s : State) : State :=
  { s with easel := { s.easel with
      steer := (List.range 4096).map (fun b => (b, { vent := 8, valid := true }))
      excl := x } }

theorem awayFrom0_steer (x : BitVec 12) (s : State) (j b : Nat) (hb : b < 4096) :
    steerAt (awayFrom0 x s) j b = if j = 0 then { vent := 8, valid := true } else {} := by
  have h : ffind (awayFrom0 x s).easel.steer (4096 * j + b) = if 4096 * j + b < 4096 then some { vent := 8, valid := true } else none := by
    unfold awayFrom0
    generalize 4096 = n
    exact ffind_run _ n _
  unfold steerAt
  rw [h]
  by_cases hj : j = 0
  · subst hj
    have : 4096 * 0 + b < 4096 := by omega
    simp [hb]
  · have : ¬ 4096 * j + b < 4096 := by omega
    simp [hj, this]

theorem awayFrom0_entries (x : BitVec 12) (s : State) : calEntries (awayFrom0 x s) 0 = 0 := by
  unfold calEntries
  generalize List.range (5 * 4096) = l
  induction l with
  | nil => rfl
  | cons i r ih =>
    rw [List.filter_cons]
    rw [awayFrom0_steer x s _ _ (Nat.mod_lt _ (by decide))]
    by_cases h : i / 4096 = 0
    · simpa [h, setHits] using ih
    · simpa [h] using ih

theorem awayFrom0_drained (x : BitVec 12) : drained (awayFrom0 x (part broad)) 0 = true := by
  unfold drained
  rw [awayFrom0_entries]
  rfl

/-! ### Witnesses: registers, events of a vent -/

/-- The primed part with its PCIe link up and every VF enabled; functions 0 and 63 master the bus. -/
def hosted : State :=
  let f : Func := {
    bme := true
    msixEn := true }
  { part broad with hb := {
      linkup := true
      numvf := 63
      funcs := [(0, f), (63, f)] } }

theorem mvWrites : CanWrite (part broad) .mv := ⟨by decide, by simp⟩
theorem hostWrites : CanWrite hosted (.host 0) := ⟨by decide, by simp⟩

theorem test_witness_registerWrites : masterReady hosted (.host 0) = true ∧ masterReady hosted .mv = true ∧
    hosted.glob.phase = .primed ∧ State.reset.glob.phase ≠ .primed := by decide

/-- The primed part with the admin rings open. -/
def opened : State :=
  { part broad with hb := {
      linkup := true
      cfg := 0x8C6
      rings := [(0, { log := 6, prod := 1 }), (1, { kind := .admcq, log := 6 })]
      funcs := [(0, { bme := true })] } }

theorem test_witness_registerReads : masterReady hosted (.host 63) = true ∧ ringAt hosted 5 = none ∧
    (let s : State := { hosted with hb := { hosted.hb with rings := [(5, { kind := .tohost, func := 63 }), (6, { kind := .tohost })] } }
     masterReady s (.host 63) = true ∧ ringAt s 5 = some { kind := .tohost, func := 63 } ∧
     ringAt s 6 = some { kind := .tohost }) ∧
    regLoc hosted 0x80D00000 = .unmapped ∧ regLoc hosted 0x80000050 ≠ .unmapped := by decide
theorem test_witness_registerMasters : masterReady (part broad) (.vent 0) = true ∧ Master.vent 0 ≠ .jtag ∧
    masterReady { part broad with jtag := { ir := 0x10 } } .jtag = true := by decide

theorem test_witness_admCfg : (part broad).hb.cfg.getLsbD 11 = false ∧ (0x8C6 : BitVec 24).getLsbD 11 = true ∧
    (0x8C6 : BitVec 24).toNat % 32 = 6 ∧ (0x8C6 : BitVec 24).toNat / 32 % 32 = 6 ∧ (0xA10 : BitVec 24).toNat % 32 = 16 ∧
    (0xA10 : BitVec 24).toNat / 32 % 32 = 16 ∧ opened.hb.cfg.getLsbD 11 = true ∧ (0x0C6 : BitVec 24) ||| 0x800 = opened.hb.cfg ∧
    (0x0C7 : BitVec 24) ||| 0x800 ≠ opened.hb.cfg := by decide
theorem test_witness_commandRegisters : (0x1000000000 + hbmSize (part broad) - 0x1000000) % 0x1000000 = 0 ∧
    (part broad).easel.migs = [] ∧ (part broad).power.calgate.getLsbD 0 = false ∧ (part broad).easel.excl.getLsbD 0 = false := by decide
theorem test_witness_ringCtl : (let x : Ring := { halted := true, late := true, prod := 1 }
     x.cons ≠ x.prod) ∧ ({ halted := true } : Ring).cons = ({ halted := true } : Ring).prod ∧ funcLive hosted 0 = true ∧
    funcLive (part broad) 0 = false := by decide +kernel
/-- The same with bit 0 of PWR_CALGATE set or not. -/
def gatedBit (w : BitVec 12) : State := awayFrom0 1 { part broad with power := { calgate := w } }
theorem test_witness_gating : ∀ w : BitVec 12, (gatedBit w).easel.excl.getLsbD 0 = true ∧ drained (gatedBit w) 0 = true ∧
    0 < nCals (gatedBit w) ∧ (calAt (gatedBit w) 0).power ≠ .gating :=
  fun w => ⟨show (1 : BitVec 12).getLsbD 0 = true by decide, by
    unfold drained gatedBit
    rw [awayFrom0_entries]
    rfl, show 0 < nCals (part broad) by decide, show CalPower.on ≠ .gating by decide⟩

theorem test_witness_ventRegisters : (part broad).glob.phase = .primed ∧ 95 < 8 * nCals (part broad) ∧
    (calAt (part broad) (0 / 8)).power = .on ∧ (part broad).store.kemSealed ≠ some (0 / 8) ∧
    (16 : Nat) ≤ (0x01010000 : Word).toNat / 2 ^ 12 % 2 ^ 11 ∧ (ventAt (part broad) 0).inp.cfg.getLsbD 24 = false ∧
    (ventAt (part { broad with inp := { cfg := 0x01010000 } }) 0).inp.cfg.getLsbD 24 = true := by decide

/-- A broad vent with a long operation, a far load and failed far writes outstanding and DEFERQ in use. -/
def busy : Vent :=
  { broad with fl := {
      longs := [{ writes := [.gpr 1 5] }]
      far := [{ dest := .gpr 4 4 true, pieces := [{ maddr := 0x10_0000_0000, len := 4 }] }]
      farWrites := [(.error, { vaddr := 0x4000_0000 })]
      sbuf := [{ block := calBase 0, bytes := [(calBase 0, 1)] }]
      deferq := [{ addr := 3 }] } }

theorem test_witness_ventEvents : let s := part busy
    let vt := ventAt s 0
    vt.fl.longs[0]? = some { writes := [.gpr 1 5] } ∧ vt.fl.deferq.length < 4 ∧ ventLevel vt ≠ 0 ∧ vt.isolating = false ∧
    vt.fl.sbuf = { block := calBase 0, bytes := [(calBase 0, 1)] } :: [] ∧ sbBlocked s 0 = false ∧
    (ventAt (part broad) 0).fl.far = [] ∧ (ventAt (part broad) 0).fl.farWrites = [] ∧ sbBlocked (part broad) 0 = true ∧
    0 < nCals s ∧ (calAt s 0).power = .on ∧ s.store.kemSealed ≠ some 0 := by decide
theorem test_witness_timers : let e : VentEvt := { timecmp := 5, wdog := 1, wdDue := 10 }
    let s : State := { part { broad with evt := e } with timebase := 10 }
    (ventAt s 0).evt.timecmp ≤ s.timebase ∧ (calAt s (0 / 8)).tbCopy < (ventAt s 0).evt.timecmp ∧
    (ventAt s 0).evt.wdog.toNat % 2 ^ 24 ≠ 0 ∧ (ventAt s 0).evt.wdDue ≤ s.timebase ∧ ventLocked (ventAt s 0) = false ∧
    ventLocked { broad with evt := { e with excStat := 1 } } = true := by decide
/-- R123: a vent that was in reset for all of a period reports from its release on. -/
theorem test_release_reports : after (.ventRelease 0) { part { held := true, downAt := 1 } with timebase := 250000 }
    (fun t => (ventAt t 0).upAt) = some 250000 ∧
    after (.ventRelease 0) { part { held := true, downAt := 1 } with timebase := 150000 } (fun t => (ventAt t 0).upAt) = some 0 := by decide
theorem farDrain (x : SbEntry) (l : List DLine) (hx : x.far = true)
    (h : matLocked (ventMaster 0) x.block (part { broad with fl := { sbuf := [x], dcache := l } }) = false) :
    sbBlocked (part { broad with fl := { sbuf := [x], dcache := l } }) 0 = false := by
  have hp := portOut_idle (part { broad with fl := { sbuf := [x], dcache := l } }) 0 (by
    intro y _
    by_cases hy : y = 0
    · subst hy; exact ⟨rfl, rfl⟩
    · rw [show ventAt (part { broad with fl := { sbuf := [x], dcache := l } }) y = {} from by
        simp [ventAt, part, fget, Ne.symm hy]]
      exact ⟨rfl, rfl⟩)
  simp only [sbBlocked, show (ventAt (part { broad with fl := { sbuf := [x], dcache := l } }) 0).fl = { sbuf := [x], dcache := l }
    from rfl, List.any_nil, hx, h, portRoom, hp]
  rfl
theorem test_witness_far_drain : let x : SbEntry := { block := 0x10_0000_0000, far := true, cache := true }
    let s := fun l => part { broad with fl := { sbuf := [x], dcache := l } }
    (∀ l, (ventAt (s l) 0).fl.sbuf = x :: []) ∧ sbBlocked (s []) 0 = false ∧ sbBlocked (s [{ block := 0x10_0000_0000 }]) 0 = false :=
  ⟨fun _ => rfl, farDrain _ _ rfl (by decide), farDrain _ _ rfl (by decide)⟩

theorem test_witness_asyncEntriesAndResponses : let s := part busy
    ventRuns s 0 = true ∧ (ventAt s 0).shadowOpen = false ∧ (ventAt s 0).evt.mcPend = none ∧ (ventAt s 0).hold.count = 0 ∧
    (ventAt s 0).hold.ovr = false ∧ (ventAt s 0).evt.wdPend = false ∧ 10 ∉ (ventAt s 0).fl.handlers ∧
    (∃ d ∈ (ventAt s 0).fl.deferq, d.wait = none) ∧ ventNarrow (ventAt s 0) = false ∧
    ([10, 48, 49, 50, 51, 16, 23].all (fun c => !entryWaits s 0 c (ventLevel (ventAt s 0)))) = true := by decide
/-- R246: a deferred fault of a load that the handler under way found outstanding waits, and one of the handler's own
does not. -/
theorem test_deferred_waits : [(some 0, none), (some 1, some (10, 3)), (none, some (10, 3))].all (fun (p : Option Nat × Option (Nat × Nat)) =>
    nextAsync (part { broad with fl := { deferq := [{ addr := 3, wait := p.1 }], handlers := [23] } }) 0 == p.2) = true := by decide
theorem test_witness_interrupt : [16, 18, 23].all (fun c =>
    let e : VentEvt := { pend := if c = 16 then 0 else 1 <<< (c - 18), en := 0xFF0000, timecmp := if c = 16 then 0 else BitVec.allOnes 64 }
    let s := part { broad with stat := 0xB, evt := e }
    nbit (vintPend s 0) c && nbit (vintEn (ventAt s 0)) c &&
    (List.range 8).all (fun b => b + 16 == c || !nbit (vintPend s 0) (b + 16)) && (ventAt s 0).stat.getLsbD 3) = true := by decide
theorem test_witness_far_response : let p : FarPiece := { maddr := 0x10_0000_0000, len := 4 }
    let l : FarLoad := { dest := .gpr 4 4 true, pieces := [p] }
    let s := part { busy with fl := { busy.fl with sbuf := [], farWrites := [] } }
    (ventAt s 0).fl.far[0]? = some l ∧ farBlocked s 0 l = false ∧ (matRead (ventMaster 0) 0x10_0000_0000 4 s).1 = .okay ∧
    (matRead (ventMaster 0) 0x40_0000_0000 4 s).1 ≠ .okay ∧ farBlocked s 0 { l with absorbed := true } = false ∧
    farBlocked { s with mx := { locks := [{ target := 33 }] } } 0 l = true ∧ farBlocked s 0 { l with pieces := [{ p with ended := true }] } = false ∧
    (∃ x, RegW.gpr 4 x ∈ [RegW.gpr 4 7]) ∧ (∀ x, RegW.gpr 4 x ∉ ({ l with later := [] } : FarLoad).later) := by
  refine ⟨by decide +kernel, by decide +kernel, by decide +kernel, by decide +kernel, by decide +kernel, by decide +kernel,
    by decide +kernel, ⟨7, List.mem_singleton.mpr rfl⟩, fun x => List.not_mem_nil⟩
theorem test_witness_interrupt_held : let s := part { broad with stat := 3, evt := { pend := 32, en := 0xFF0000 } }
    nbit (vintPend s 0) 23 = true ∧ nbit (vintEn (ventAt s 0)) 23 = true ∧ ventLevel (ventAt s 0) = 3 ∧
    (ventAt s 0).stat.getLsbD 3 = false := by decide

/-! ### Witnesses: the step, host requests, environment -/

theorem test_witness_stepRuns : (part broad).pending = [] ∧ (part broad).glob.phase ≠ .reset ∧ State.reset.glob.phase = .reset := by
  decide
theorem test_witness_everyStepKeeps : State.reset.MemOk ∧ State.reset.VlOk ∧ ∃ t, step State.reset = .next t :=
  ⟨⟨by decide, by decide⟩, fun _ => Nat.zero_le _, _, rfl⟩
/-- An encoding that no MOV has: class 7. -/
def badClass : OpEnc := opEnc true false 7 0 (BitVec.ofNat 6 (codeOf .mov).2) (enc .mov).lo 0

theorem test_witness_commandOutcomes : Lone (part broad) 0 .br brIf ∧ guardOn ((part broad).fresh 0 brIf) brIf = false ∧
    issueWaits ((part broad).found 0 brIf) ((part broad).fresh 0 brIf) [] = false ∧ ventRuns (part broad) 1 = false ∧
    opSpelt .mov (enc .mov) = true ∧ opSpelt .mov badClass = false ∧ addFirst.last = false ∧ opWords addFirst < 8 ∧
    (0x100000 ≤ ((part broad).early 0).pc.toNat ∧ ((part broad).early 0).pc.toNat + 128 ≤ 0x500000) :=
  ⟨⟨⟨⟨by decide, by decide, by decide, by decide, by decide⟩, by decide, by decide, by decide⟩, by decide, by decide⟩, by decide,
    by decide, by decide, by decide, by decide, by decide, by decide, by decide⟩
theorem test_witness_bundle_conflict : Pair assembling 0 .add addFirst .add (addLast 0) ∧ addFirst.cls = (addLast 0).cls ∧
    entryWaits (assembling.foundN 0 2) 0 2 3 = false :=
  ⟨⟨⟨by decide, by decide, by decide, by decide, by decide⟩, by decide, by decide, by decide, by decide⟩, by decide, by decide⟩

/-- The hosted part with an event ring 2 of function 0, and n events held and k lost. -/
def eventful (n k : Nat) : State :=
  { hosted with hb := { hosted.hb with
      rings := [(2, { kind := .event })]
      funcs := [(0, { bme := true, held := List.replicate n {}, lost := k })] } }

theorem test_witness_eventsAndMessages : eventRing hosted 0 = none ∧ funcLive hosted 0 = true ∧ funcLive (part broad) 0 = false ∧
    eventRing (eventful 0 1) 0 = some 2 ∧ ringAt (eventful 0 1) 2 = some { kind := .event } ∧
    (∀ k < 2, funcLive (eventful 0 k) 0 = true ∧ (funcAt (eventful 0 k) 0).held = [] ∧ (funcAt (eventful 0 k) 0).lost = k) ∧
    ringRoom { kind := .event } = true ∧ ringFill { kind := .event } + 2 < 2 ^ 6 ∧
    (funcAt { eventful 256 0 with hb := { (eventful 256 0).hb with rings := [] } } 0).held.length = 256 := by decide +kernel
theorem test_witness_msix : (63 : Nat) ≤ hosted.hb.numvf ∧ (63 : Nat) < (if (63 : Nat) = 0 then 2048 else 64) ∧
    (let s : State := { hosted with timebase := 3000, hb := { hosted.hb with vecs := [(0, { n := 1, time := 3 })] } }
     (vecAt s 0 0).n ≠ 0 ∧ (vecAt s 0 0).time ≠ 0 ∧ (vecAt s 0 0).t0.toNat + 1000 * (vecAt s 0 0).time.toNat ≤ s.timebase.toNat) := by
  decide
theorem test_witness_functionsAndResets : hosted.glob.phase ≠ .reset ∧ hosted.glob.cfgReady = true ∧ hosted.jtag.taken = false ∧
    hosted.balls.perstN = true ∧ hosted.hb.ari = false ∧ State.reset.glob.cfgReady = false ∧
    (∀ p ∈ hosted.hb.vecs, p.2.pba = false) ∧ (∀ p ∈ hosted.hb.rings, p.2.skip = none) ∧ hosted.store.kemQueue = [] ∧
    (1 : Nat) ≤ hosted.hb.numvf ∧ ({ hosted with balls := { perstN := false } } : State).balls.perstN = false := by decide
theorem test_witness_nothing_held : ∀ f, (funcAt hosted f).held = [] ∧ (funcAt hosted f).lost = 0 := by
  intro f
  by_cases h : f = 0 ∨ f = 63
  · rcases h with rfl | rfl <;> exact ⟨rfl, rfl⟩
  · rw [show funcAt hosted f = {} from by
      have h0 : ¬ 0 = f := by omega
      have h1 : ¬ 63 = f := by omega
      simp [funcAt, hosted, fget, h0, h1]]
    exact ⟨rfl, rfl⟩

/-- The hosted part with a TOHOST ring 5 of 64 entries, four of them filled, and an open lock on HBM. -/
def ringed : State :=
  { hosted with
    timebase := 300
    hb := { hosted.hb with rings := [(5, { kind := .tohost, prod := 4 }), (6, { kind := .fromhost, prod := 4 })] }
    mx := { locks := [{ target := 24, addr := 0x0100_0000, bytes := zeros 8 }] } }

theorem test_witness_hostRequests : masterReady ringed (.host 0) = true ∧ ringAt ringed 7 = none ∧
    ringAt ringed 5 = some { kind := .tohost, prod := 4 } ∧ (let fill := (4 + 64 - 0) % 64; let d := (4 + 64 - 0) % 64; d ≤ fill) ∧
    (let fill := (4 + 64 - 0) % 64; let d := (63 + 64 - 0) % 64; fill ≤ d) ∧
    ringed.mx.locks = [{ target := 24, addr := 0x0100_0000, bytes := zeros 8 }] ∧ ringed.hb.stagebase.toNat + 0 = 0x0100_0000 := by
  decide
/-- The hosted part with HBM staged for the host. -/
def staged : State := { hosted with hb := { hosted.hb with stagebase := 0x10_0000_0000 } }

theorem hbmRead0 : matRead (.host 0) 0x10_0000_0000 8 staged = (.okay, zeros 8, staged) := by
  simp only [matRead, matRead0]
  rw [show matLoc (.host 0) 0x10_0000_0000 staged = .hbm 0 by decide]
  simp only []
  rw [if_neg (by decide)]
  simp only [hbmReadBytes]
  rw [if_neg (by decide)]
  exact congrArg (fun b => (RespCode.okay, b, staged)) (by decide)

theorem test_witness_atomics : staged.mx.locks = [] ∧ atomRegion (matLoc (.host 0) 0x10_0000_0000 staged) = true ∧
    atomRegion (matLoc (.host 0) 0x4000_0000 hosted) = false := by decide

theorem test_witness_resetsAndTap : State.reset.glob.phase = .reset ∧ State.reset.power.railLow = false ∧
    State.reset.power.tripped = false ∧ (part broad).balls.poresetN = true := by decide
theorem test_witness_debugPort : let s : State := { part broad with jtag := { ir := 0x10 } }
    s.jtag.ir = 0x10 ∧ s.glob.phase ≠ .reset ∧ 7 / 8 < nCals s ∧ (calAt s (7 / 8)).power = .on ∧
    s.store.kemSealed ≠ some (7 / 8) ∧ matLocked .jtag 0x10_0000_0000 s = false ∧
    matLocked .jtag 0x10_0000_0000 { s with mx := { locks := [{ target := 33, addr := 0x10_0000_0000 }] } } = true := by decide

/-- Priming at the given place. -/
def primingAt (p : Phase) : State := { State.reset with glob := { phase := p } }

theorem mvPriming (p : Phase) (h : p ≠ .reset) : CanWrite (primingAt p) .mv := by
  refine ⟨?_, by simp⟩
  cases p <;> first | exact absurd rfl h | decide

theorem bdBlank : bdCheck (primingAt .verify) = .inl (7, 0xFF) := by
  simp only [bdCheck]
  rw [if_pos (by decide)]

/-- The part that verifies a board description without records, of 16 bytes, and a blank image. -/
def described : State :=
  { primingAt .verify with mem := [(bdBase, 0x53), (bdBase + 1, 0x5A), (bdBase + 2, 0x42), (bdBase + 3, 0x44), (bdBase + 4, 1),
      (bdBase + 8, 16)] }

theorem bdEmpty : bdCheck described = .inr [] := by decide +kernel

/-- (An image that passes every check carries Sorzu's signature; none is written out here.) -/
theorem test_witness_priming : ((primingAt .stageA).fuses.testLock && (primingAt .stageA).balls.testEn) = false ∧
    ({ primingAt .stageA with balls := { testEn := true } } : State).fuses.testLock = true ∧
    (∃ c d, bdCheck (primingAt .verify) = .inl (c, d)) ∧ (∃ rs, bdCheck described = .inr rs) ∧ Memory.wf described.mem ∧
    (∃ c d, imageCheck described (imageAt described mvBase) true = some (c, d)) ∧ (primingAt .stageB).glob.phase = .stageB := by
  refine ⟨by decide, by decide, ⟨7, 0xFF, bdBlank⟩, ⟨[], bdEmpty⟩, by decide, ⟨1, 0, ?_⟩, rfl⟩
  simp only [imageCheck]
  rw [if_pos (by decide)]
theorem test_witness_railsAndTemperatures : (part broad).glob.phase ≠ .reset ∧ (part broad).glob.phase ≠ .stageA ∧
    sensorFitted (part broad) 0 = true ∧ (100 * 675 < 750 * (100 - 3) ∧ 90 * 750 ≤ 100 * 675) ∧
    ({ part broad with glob := { phase := .failed, fail := 15 } } : State).glob.phase = .failed ∧ (part broad).power.shut = false ∧
    State.reset.glob.phase ≠ .primed ∧ (part broad).power.shutdown.toNat + 64 = 174 ∧ (part broad).power.syslost = false ∧ (portAt (part broad) 3).reflost = false ∧
    (portAt { part broad with ports := [(3, { reflost := true })] } 3).reflost = true := by decide
theorem test_witness_laneFaults : let x : Port := { losPend := 1, txfault := 2, los := 4 }
    let s : State := { part broad with timebase := 100000000, ports := [(0, x)] }
    (portAt s 0).los.getLsbD 0 = false ∧ (portAt s 0).txfault.getLsbD 7 = false ∧ (portAt s 0).los.getLsbD 2 = true ∧
    (portAt s 0).losPend.getLsbD 0 = true ∧ fget 0 (portAt s 0).losTick 0 + 100000000 ≤ s.timebase := by decide
theorem test_witness_linksAndBuses : canLink (part broad) 0 = true ∧ subUp (part broad) 0 = false ∧
    subRun (part broad) 0 = some (0, 8) ∧
    subUp { part broad with ports := [(0, { link := 1 })] } 0 = true ∧
    (portAt { part broad with ports := [(0, { newBrk := some (3, 1) })] } 0).newBrk = some (3, 1) ∧
    ({ part broad with mgmt := { i2cEn := 8, i2cSpeed := [(3, 1)] } } : State).mgmt.i2cEn.getLsbD 3 = true := by decide
theorem test_witness_i2cRetry : let s : State := { part broad with mgmt := { i2cSpeed := [(2, 1), (3, 1)] } }
    fget 0 s.mgmt.i2cSpeed 3 ≠ 0 ∧ fget 0 s.mgmt.i2cSpeed 2 ≠ 0 ∧ obsOf [(3, .sclLow)] 3 = .sclLow ∧ obsOf [(3, .sclLow)] 2 = .free := by
  decide

/-! ### Witnesses: admin commands -/

/-- A descriptor with OPCODE `op`, TAG 1, a parameter block of `plen` bytes and room for `rlen` result bytes (R293). -/
def desc (op plen rlen : Nat) : AdmDesc :=
  { bits := BitVec.ofNat 256 (op + plen * 2 ^ 32 + 2 ^ 48 + (if plen = 0 then 0 else 0x1000 * 2 ^ 64) +
      (if rlen = 0 then 0 else 0x2000 * 2 ^ 128) + rlen * 2 ^ 192) }

/-- The commands: OPCODE, parameter block and results. -/
def lengths : List (Nat × Nat × Nat) :=
  [(1, 56, 0), (2, 64, 0), (3, 48, 0), (4, 128, 0), (4, 128, 1568), (5, 48, 0), (5, 48, 32), (6, 8, 0), (7, 64, 0), (8, 0, 0),
   (9, 16, 0), (9, 64, 0), (0xA, 8, 0), (0xB, 16, 0), (0xC, 24, 0), (0xC, 72, 0), (0xD, 16, 0), (0xE, 8, 82432), (0xE, 8, 192),
   (0xF, 16, 32), (0xF, 16, 512), (0xF, 16, 64), (0x10, 32, 50176), (0x11, 24, 0), (0x12, 32, 0), (0x12, 32, 2), (0x12, 32, 256)]

theorem test_witness_accepts : ∀ p ∈ lengths,
    Accepts opened { log := 6, prod := 1 } (desc p.1 p.2.1 p.2.2) p.1 p.2.1 p.2.2 := by
  intro p hp
  refine ⟨?_, by decide, by decide, (fun c hc => nomatch hc), ?_, ?_, ?_⟩
  · revert p
    decide +kernel
  · revert p
    decide +kernel
  · revert p
    decide +kernel
  · revert p
    decide +kernel

theorem test_witness_sketchCommands : opened.sets.pending = false ∧ ({ opened with sets := { pending := true } } : State).sets.pending = true ∧
    pbBad 2 = false ∧ pbValid (blkOf (ctxAt opened 65535) (sketchE opened)) = false ∧ emFind (setAt opened (sketchE opened)) (zeros 24) = none ∧
    fhas (setAt opened (sketchE opened)).wild 16383 = false ∧ hasGlaze opened = true ∧ (∀ f ∈ profFields 0, f.1 = false) ∧
    profCheck opened 3 0 = none ∧ subExists opened 0 = true ∧ portPaired opened.sets.set0 0 = false ∧ portPaired opened.sets.set1 0 = false := by
  decide +kernel
theorem test_witness_rules : emFind (setAt { opened with sets := { set1 := { em := [(9, { key := zeros 24 })], wild := [(0, {})] } } } true)
    (zeros 24) = some 9 ∧ fhas ({ em := [], wild := [(0, {})] } : ConfigSet).wild 0 = true := by decide

theorem chunks_same (x : List Byte) (n m f : Nat) (hn : x.length = n) (h0 : 0 < n) (hf : m ≤ f) :
    chunks n f (List.replicate m x).flatten = List.replicate m x := by
  induction m generalizing f with
  | zero => cases f <;> rfl
  | succ m ih =>
    cases f with
    | zero => omega
    | succ f =>
      have hx : x ≠ [] := by
        intro h
        rw [h] at hn
        simp at hn
        omega
      rw [List.replicate_succ, List.flatten_cons]
      rw [show chunks n (f + 1) (x ++ (List.replicate m x).flatten) =
        (x ++ (List.replicate m x).flatten).take n :: chunks n f ((x ++ (List.replicate m x).flatten).drop n) from by
          cases x with
          | nil => exact absurd rfl hx
          | cons a r => rfl]
      rw [← hn, List.take_left, List.drop_left, hn, ih f (by omega)]

/-- A table pair whose every size is 128 and every interval 64, the least that R117 admits. -/
def leastTable : List Byte := (List.replicate 4096 (leBytes 2 128)).flatten ++ (List.replicate 4096 (leBytes 4 64)).flatten

theorem test_witness_table : leastTable.length = 24576 ∧ tableOk (tablePair leastTable) = true := by
  have hl : ∀ n (x : List Byte), (List.replicate n x).flatten.length = n * x.length := by
    intro n x
    simp
  have h2 : ((List.replicate 4096 (leBytes 2 128)).flatten : List Byte).length = 8192 := by rw [hl]; rfl
  have h4 : ((List.replicate 4096 (leBytes 4 64)).flatten : List Byte).length = 16384 := by rw [hl]; rfl
  refine ⟨by unfold leastTable; rw [List.length_append, h2, h4], ?_⟩
  have e : tablePair leastTable = { sizes := List.replicate 4096 128, intervals := List.replicate 4096 64 } := by
    unfold tablePair leastTable
    rw [← h2, List.take_left, List.drop_left, chunks_same _ 2 4096 4097 rfl (by omega) (by omega),
      chunks_same _ 4 4096 4097 rfl (by omega) (by omega), List.map_replicate, List.map_replicate]
    rfl
  rw [e]
  have h : ∀ n, tableOk { sizes := List.replicate n 128, intervals := List.replicate n 64 } = true := by
    intro n
    simp [tableOk]
  exact h 4096

/-- The opened part with a context 0 whose slots are: 0 LIVE, 1 READY, 2 LIVE with a window, 3 a SEALED X25519 key, 4 a
SEALED ML-KEM seed, 5 EMPTY. TXTAKE of vent 0 asks for it. -/
def keyed : State :=
  { opened with store := {
      ctxs := [(0, {
        slots := [(0, { state := .live, an := 1 }), (1, { state := .ready, an := 2 }), (2, { state := .live }),
          (3, { state := .slotSealed, klen := 3 }), (4, { state := .slotSealed, klen := 2 })]
        next := [(0, 5), (1, 1)]
        win := [(2, { wok := true })] })]
      txReq := [(0, 0)]
      txQueue := [0] } }

/-- The same with the given NEXTNUM of slots 0 and 1. -/
def keyedAt (a b : DWord) : State :=
  { keyed with store := { keyed.store with ctxs := [(0, { ctxAt keyed 0 with next := [(0, a), (1, b)] })] } }

theorem test_witness_keyCommands : (slotAt keyed 0 5).state = .empty ∧ winFree keyed ≠ 0 ∧ (slotAt keyed 0 0).state = .live ∧
    (slotAt keyed 0 2).state ≠ .empty ∧ (slotAt keyed 0 2).state ≠ .slotSealed ∧ (winAt keyed 0 2).wok = true ∧
    (slotAt keyed 0 1).state ≠ .live ∧ (ctxAt keyed 0).curTx = (0 == 1) ∧ (slotAt keyed 0 (1 - 0)).state = .ready ∧
    keyed.store.kemSealed = none ∧ (slotAt keyed 0 3).state = .slotSealed ∧ (slotAt keyed 0 3).klen = 3 ∧
    (slotAt keyed 0 4).state = .slotSealed ∧ (slotAt keyed 0 4).klen = 2 := by decide

/-- The 2^32 packets that the block's PROTO and suite leave a slot are its limit where none is set. -/
theorem test_witness_keyLifetimes : keyed.store.txQueue = [] ++ 0 :: [] ∧ (1 : Nat) ∉ keyed.store.txQueue ∧
    fget 0 keyed.store.txReq 0 = BitVec.ofNat 128 (0 + b2n false * 2 ^ 16 + (0 : DWord).toNat * 2 ^ 64) ∧ (ctxAt keyed 0).ue = 0 ∧
    (slotAt keyed 0 0).expiry = 0 ∧ (slotAt keyed 0 0).state = .live ∧
    (fget 0 (ctxAt (keyedAt 0 0) 0).next 0).toNat ≤ effLimit (slotAt (keyedAt 0 0) 0 0) 0 ∧
    ¬(fget 0 (ctxAt (keyedAt (BitVec.allOnes 64) 0) 0).next 0).toNat ≤ effLimit (slotAt (keyedAt (BitVec.allOnes 64) 0) 0 0) 0 ∧
    ¬(fget 0 (ctxAt (keyedAt 0 (BitVec.allOnes 64)) 0).next 1).toNat ≤ effLimit (slotAt (keyedAt 0 (BitVec.allOnes 64)) 0 1) 0 ∧
    (slotAt keyed 0 1).state = .ready := by decide

/-- The same with drains of slots 2 and 5, one of them to be loaded again. -/
def drainingKeys : State :=
  { keyed with store := { keyed.store with drains := [{ ctx := 0, slot := 2, cmd := 1 },
    { ctx := 0, slot := 5, load := some ({}, {}, 1), cmd := 2 }] } }

theorem test_witness_drains : let w : DrainJob := { ctx := 0, slot := 2, cmd := 1 }
    drainingKeys.store.drains.find? (fun w => w.ctx == 0 && w.slot == 2) = some w ∧
    drainingKeys.store.drains.find? (fun w => w.ctx == 0 && w.slot == 5) =
      some { ctx := 0, slot := 5, load := some ({}, {}, 1), cmd := 2 } ∧ slotBusy drainingKeys w = false ∧
    slotBusy { drainingKeys with path := { jobs := [{ desc := 0x200000000 }] } } w = true ∧
    slotBusy { drainingKeys with store := { drainingKeys.store with picks := [(0, 2)] } } w = true ∧
    slotBusy { drainingKeys with path := { frames := [(1, { stage := .atVent 3 })] } } { w with frames := [1] } = true := by
  decide +kernel
theorem test_witness_scan : let x : SlotMeta := { state := .live, expiry := 5 }
    let s : State := { keyed with store := { keyed.store with ctxs := [(0, { slots := [(0, x)] })] } }
    (slotAt s 0 0).state = .live ∧ (slotAt s 0 0).expiry ≠ 0 ∧ (slotAt s 0 0).softSent = false ∧
    (slotAt s 0 0).expiry.toNat ≤ s.timebase.toNat + s.store.softTime.toNat ∧
    keyed.store.scanned < ({ keyed with timebase := 10000000 } : State).timebase.toNat / 10000000 := by decide
theorem test_witness_seal : canSeal (awayFrom0 0 (part broad)) 0 = true := by
  unfold canSeal
  rw [awayFrom0_drained 0]
  rfl
/-- What an X25519 key of 0, which clamping makes 2^254, agrees on with the base point is not zero. -/
theorem test_witness_agree : (x25519 (leBytes 32 (keyAt keyed 0 3).key.toNat) x25519Base).any (fun b => b != 0) = true := by
  decide +kernel
theorem test_witness_unseal : ({ part broad with store := { kemSealed := some 0 } } : State).store.kemQueue = [] ∧
    (999999 : DWord).toNat < ({ part broad with store := { kemSealed := some 0 } } : State).store.kemIdleAt.toNat + 1000000 ∧
    ({ part broad with store := { kemSealed := some 0 } } : State).store.kemIdleAt.toNat + 1000000 ≤ (1000000 : DWord).toNat ∧
    (part broad).glob.sections = [] ∧ (part broad).adm.fw = none := by decide

/-- The opened part with queue 2 of sub-port 0 that holds frames 1 and 2, and TOHOST, FROMHOST and EVENT rings. -/
def queued : State :=
  let q : Queue := {
    valid := true
    limit := 100
    spillth := 16
    ondie := [1] }
  let f : Frame := {
    stage := .queued 2
    cells := [0]
    len := 60 }
  { opened with
    path := { frames := [(1, f)] }
    qm := { queues := [(2, q), (7, { valid := true, dkind := 2 })] }
    hb := { opened.hb with rings := opened.hb.rings ++ [(7, { kind := .tohost }), (8, { kind := .fromhost, prod := 1 }),
      (9, { kind := .event })] } }

theorem test_witness_queueCommands : (queueAt queued 3).valid = false ∧ ringAt queued 3 = none ∧ (queueAt queued 4095).valid = false ∧
    ringAt queued 4095 = none ∧ subExists queued 0 = true ∧ hasGlaze queued = true ∧ eventRing opened 0 = none ∧ (funcAt opened 0).held = [] ∧
    (funcAt opened 0).lost = 0 ∧ (queueAt queued 2).valid = true ∧ queueFrames (queueAt queued 2) = [1] ∧
    slotChan (frameAt queued 1) = none ∧ queueFrames (queueAt queued 7) = [] ∧ (queueAt queued 8).valid = false ∧
    ringAt queued 8 = some { kind := .fromhost, prod := 1 } ∧ hbmMarked queued (32 * 1048575 / 0x100000) = false ∧
    1048575 ∉ queued.hbm.poison := by decide
theorem test_witness_reportCommands : (1 : Nat) + 32 ≤ 33 ∧ (1048575 : Nat) + 1 ≤ 1048576 ∧ (queueAt queued 2).valid = true ∧
    ringAt queued 7 = some { kind := .tohost } ∧ (steerAt queued 0 0).mig = false ∧
    ({ queued with mgmt := { i2cEn := 1, mdioEn := 1 } } : State).mgmt.i2cEn.getLsbD 0 = true ∧
    ({ queued with mgmt := { i2cEn := 1, mdioEn := 1 } } : State).mgmt.mdioEn.getLsbD 0 = true ∧
    queued.mgmt.i2cEn.getLsbD 3 = false ∧ queued.mgmt.mdioEn.getLsbD 1 = false := by decide
theorem test_witness_completions : let c : AdmCmd := { id := 1, status := some 0, sqhead := 1 }
    let s : State := { opened with adm := { cmds := [c] } }
    s.adm.cmds = c :: [] ∧ ringAt s 1 = some { kind := .admcq, log := 6 } ∧ ringRoom { kind := .admcq, log := 6 } = true ∧
    funcLive s 0 = true ∧ s.adm.closing = false ∧ ringAt s 0 = some { log := 6, prod := 1 } := by decide

theorem test_witness_placementCommands : leavesOne opened 0xFFF (reserveMasks opened) = false ∧ leavesOne opened 0x001 (reserveMasks opened) = true ∧
    opened.easel.constrain = none ∧ fhas opened.easel.reserves 1 = false ∧ 0x002 &&& reservedMask opened = 0 ∧
    leavesOne opened opened.easel.excl.toNat (0x002 :: reserveMasks opened) = true ∧ srcPaired opened 0 = false ∧
    reserveThin opened = false ∧ (let s : State := { opened with easel := { reserves := [(1, { cals := 2, srcs := 1, func := 5 })] } }
     fhas s.easel.reserves 1 = true ∧ reserveThin s = true ∧ fhas s.easel.reserves 2 = false ∧ 0x001 &&& reservedMask s = 0 ∧
     ∃ p ∈ s.easel.reserves, p.2.func = 5) ∧
    srcPaired { opened with sets := { set0 := { sub := [(0, { partner := 8 }), (8, { partner := 0 })] } } } 0 = true := by decide +kernel
/-- The opened part a period after reset, with vent 0 enabled for input, as caldera 0's reservation finds it. -/
def enabled0 : State :=
  { opened with
    timebase := 100000
    vents := [(0, { broad with inp := { cfg := 0x01010000 } })]
    easel := { reserves := [(1, { cals := 1 })] } }
theorem test_witness_reserve_vents : freshVents enabled0 1 = [0] ∧ freshVents enabled0 0 = [] := by decide +kernel
theorem test_witness_reserve : bank0Off (awayFrom0 0 opened) 1 = true := by
  unfold bank0Off
  rw [List.all_eq_true]
  intro c hc
  by_cases h : (1 : BitVec 12).getLsbD c = true
  · have h0 : c = 0 := by
      have := List.mem_range.mp hc
      revert c
      decide
    subst h0
    rw [h]
    simp only [Bool.not_true, Bool.false_or, Bool.and_eq_true]
    refine ⟨rfl, ?_⟩
    rw [List.all_eq_true]
    intro b hb
    rw [awayFrom0_steer 0 opened 0 b (List.mem_range.mp hb)]
    rfl
  · rw [Bool.eq_false_iff.mpr h]
    rfl
theorem test_witness_image : stageRefusal opened hbmBase = some 1 := by
  simp only [stageRefusal, imageCheck]
  rw [if_pos (by decide)]
  rfl
theorem test_witness_replace : (List.range (nCals opened)).find? (fun c => !({ cmd := 1 } : FwJob).done.contains c) = some 0 ∧
    (calAt opened 0).power = .on ∧ (calAt opened 1).power = .off := by decide

theorem test_witness_easelPlacement : opened.glob.phase = .primed ∧ opened.easel.planned < (100000 : DWord).toNat / 100000 ∧
    opened.easel.constrain = none ∧ (∀ c < nCals opened, fget 0 (calAt opened c).hot (100000 / 100000 - 1) = 0) ∧
    (queueAt queued 2).valid = true ∧ (100 : Nat) ≤ (queueAt queued 2).limit ∧ 2 ∉ queued.qm.cache ∧ (winAt keyed 0 2).wok = true ∧
    8192 / 8192 ≠ (winAt keyed 0 2).handle / 8192 ∧ fhas keyed.store.winOwner 8192 = false ∧ (calAt opened 0).power = .on ∧
    1 ≤ copyCap opened ∧ 0 ∈ freshVents enabled0 1 ∧ reported enabled0 0 = true ∧ reported opened 0 = false ∧
    (reservedMask opened).testBit 0 = false := by decide +kernel
/-- R123: a vent in reset for all of the last period has not reported, and one that came back within it has. -/
theorem test_reported : [(50000, true), (150000, true)].all (fun (p : Nat × Bool) =>
    reported { opened with timebase := 250000, vents := [(0, { held := true, downAt := BitVec.ofNat 64 p.1 })] } 0 == decide (100000 < p.1)) = true := by
  decide

/-- A placement with bucket 5 of bank 0 at vent 0, and bucket 6 on its way from vent 8 to vent 0. -/
def moving (unacked : List Nat) (held : List Item) : State :=
  { opened with easel := {
      steer := [(5, { valid := true, spread := 1 }), (6, { valid := true, mig := true, fromV := 8 })]
      migs := [{
        migno := 1
        bucket := 6
        fromV := 8
        unacked := unacked
        arrived := [(8, 0)]
        held := held }]
      migno := 1
      switching := [(3, 1)] } }

theorem test_witness_migrations : let s := moving [8] []
    (steerAt s 0 5).valid = true ∧ (steerAt s 0 5).mig = false ∧ (steerAt s 0 5).spread ≠ 0 ∧ (steerAt s 0 5).ended = none ∧
    (steerAt s 0 6).mig = true ∧ s.easel.migs.length < 8 ∧ (migAt s 1).isSome = true ∧ (migAt s 1).any (fun m => m.unacked == [8]) = true ∧
    (migAt (moving [] []) 1).any (fun m => m.unacked == [] && m.held == [] && decide (m.bucket < 4096)) = true ∧
    (migAt (moving [] [.frame 1]) 1).any (fun m => m.held == [.frame 1]) = true ∧
    frameDealt (moving [] [.frame 1]) (frameAt (moving [] [.frame 1]) 1) = false ∧
    s.easel.switching.find? (fun p => p.1 == 3) = some (3, 1) ∧ srcBusy s 3 = false ∧ srcHeld s 3 = [] ∧ (slotsHeld s 3).1 = [] ∧
    s.easel.todo = [] := by decide

theorem test_witness_migration_reported : let s := moving [8] []
    ∀ u, (steerAt s 0 5).vent ≤ u → u < (steerAt s 0 5).vent + 1 → reported { s with timebase := 100000 } u = true := by
  intro s u h0 h1
  have : u = 0 := by
    have : u < 0 + 1 := h1
    omega
  subst this
  decide

/-- A migration of bucket 6 from vent 8 to vent 0, both calderas on and 64 bytes of state to a bucket. -/
def copying : State :=
  let s := moving [] []
  { s with
    cals := [(0, { power := .on, clk := 1500 }), (1, { power := .on, clk := 1500 })]
    easel := { s.easel with cfg := 0x00800001 } }

theorem test_witness_migration_moves : let off := slotOff copying 6
    slotBytes copying = 64 ∧ slotBytes (moving [] []) = 0 ∧ 8 / 8 ≠ 0 / 8 ∧
    (List.range 64).all (fun i => matLoc .intake (calBase 1 + off + i) copying == .cal 1 (off + i) &&
      matLoc .intake (calBase 0 + off + i) copying == .cal 0 (off + i) &&
      locAnswer .intake false (.cal 1 (off + i)) copying == .okay && locAnswer .intake true (.cal 0 (off + i)) copying == .okay) = true ∧
    badIn copying (calBase 1 + off) 64 = false ∧
    badIn { copying with hbm := { badWords := [(calBase 1 + off) / 4] } } (calBase 1 + off) 64 = true ∧ copying.mx.dma = [] ∧
    (matLocked .intake (calBase 1) copying = false ∧ matLocked .intake (calBase 0) copying = false) ∧
    matLocked .intake (calBase 0) { copying with mx := { locks := [{ target := 0, addr := calBase 0 }] } } = true := by
  decide +kernel
theorem test_witness_exclude : (∀ c < 12, (1 : BitVec 12).getLsbD c = true → drained (awayFrom0 1 (part broad)) c = true) ∧
    drained { part busy with easel := { steer := [(0, { valid := true })] } } 0 = false := by
  refine ⟨fun c hc h => ?_, ?_⟩
  · have : c = 0 := by
      revert c
      decide
    subst this
    exact awayFrom0_drained 1
  · unfold drained calEntries
    generalize hl : List.range (5 * 4096) = l
    cases l with
    | nil => exact absurd (congrArg List.length hl) (by rw [List.length_range]; decide)
    | cons i r =>
      have hi : i = 0 := by
        have := congrArg (fun l => l.head?) hl
        simpa [List.head?_range] using this.symm
      subst hi
      rfl

theorem test_witness_configurationSwap : setIssues opened = 0 ∧ opened.sets.pending = false ∧
    setIssues { opened with sets := { set1 := { wild := [(0, { res := { action := 2, ctx := 9 } })] } } } ≠ 0 ∧
    oldFrames queued (!queued.sets.epoch) = 0 ∧ oldFrames queued false ≠ 0 ∧ (List.range 32).length = 32 ∧ 32 ∉ List.range 32 := by decide +kernel

/-! ### Witnesses: DMA, power, memory -/

/-- The primed part with DMA channel 192 as given. -/
def channelled (x : Dma) : State := { part broad with mx := { dma := [(192, x)] } }

theorem test_witness_dma_start : let s : State := channelled { desc := 0x10_0000_0000 }
    CanWrite s .mv ∧ s.glob.phase = .primed ∧ (dmaAt s 192).state = .idle ∧
    matRead0 (.dma 192) 0x10_0000_0000 32 (channelled { state := .run, desc := 0x10_0000_0000 }) =
      (.okay, zeros 32, channelled { state := .run, desc := 0x10_0000_0000 }) := by
  refine ⟨⟨by decide, by simp⟩, by decide, by decide, ?_⟩
  simp only [matRead0]
  rw [show matLoc (.dma 192) 0x10_0000_0000 (channelled { state := .run, desc := 0x10_0000_0000 }) = .hbm 0 by decide]
  simp only []
  rw [if_neg (by decide)]
  simp only [hbmReadBytes]
  rw [if_neg (by decide)]
  exact congrArg (fun b => (RespCode.okay, b, channelled { state := .run, desc := 0x10_0000_0000 })) (by decide)

/-- The last descriptor of a program, with nothing set but LAST. -/
def lastDesc : BitVec 256 := BitVec.ofNat 256 (2 ^ 122)

/-- A channel that moves 16 bytes of the packet buffer under it. -/
def mover (st : DmaState) (left : Word) : Dma :=
  { state := st
    cur := some lastDesc
    src := 0x60000000
    dst := 0x60000100
    left := left }

theorem test_witness_dmaChannels : dmaDue (channelled (mover .run 16)) = [] ∧ (channelled (mover .run 16)).mx.waiting = [] ∧
    dmaHeld (channelled { desc := 0x10_0000_0000 }) 192 0x10_0000_0000 = false ∧
    (dmaAt (channelled (mover .run 16)) 192).state = .run ∧ (dmaAt (channelled (mover .run 16)) 192).cur = some lastDesc ∧
    (dmaAt (channelled (mover .run 16)) 192).failed = none ∧ lastDesc.getLsbD 120 = false ∧ lastDesc.getLsbD 122 = true ∧
    (dmaAt (channelled (mover .run 0)) 192).left = 0 ∧ 0 < (dmaAt (channelled (mover .run 16)) 192).left.toNat ∧
    nbits lastDesc.toNat 60 51 = 0 ∧ nbits lastDesc.toNat 116 112 = 0 ∧ nbits lastDesc.toNat 50 48 ≤ 3 ∧
    (channelled (mover .run 16)).hbm.badWords = [] ∧ (0x60000000 + 16 ≤ 0x60000100) := by decide
theorem test_witness_dma_retry : let x : Dma := { mover .wait 16 with failed := some .error, retries := 3, limit := 4 }
    (dmaAt (channelled x) 192).failed = some .error ∧ ¬(x.retries + 1 < x.limit) ∧ x.limit ≤ x.retries + 1 ∧
    (channelled x).timebase.toNat < x.failTick + 1000 ∧ x.failTick + 1000 ≤ ({ channelled x with timebase := 1000 } : State).timebase.toNat ∧
    ({ x with retries := 2 } : Dma).retries + 1 < x.limit := by decide
/-- R276: the cause of the halt is that of the last response; a retry waits for 1 µs. -/
theorem test_dma_last_response : let s : State := { channelled { mover .run 16 with failed := some .error, retries := 3, limit := 4 } with timebase := 1000 }
    after (.dmaRetry 192 false (some .ue)) s (fun t => ((dmaAt t 192).state, (dmaAt t 192).cause)) = some (.halted, 9) ∧
    after (.dmaRetry 192 false (some .ue)) { s with timebase := 999 } (fun t => (dmaAt t 192).state) = some .run := by decide
theorem test_witness_dma_pacing : let x : Dma := { mover .run 16 with cur := some (lastDesc ||| BitVec.ofNat 256 (2 ^ 120)), pace := 1 + 4 * 2 }
    paceFill { queued with mx := { dma := [(192, x)] } } x.pace = some 1 ∧ paceFill (channelled x) x.pace = none ∧
    (lastDesc ||| BitVec.ofNat 256 (2 ^ 120)).getLsbD 120 = true := by decide

theorem test_witness_dma_errors : let s := channelled (mover .run 16)
    let fresh : Dma := { mover .run 16 with cur := some (BitVec.ofNat 256 (0x60000000 + 0x60000100 * 2 ^ 64 + 16 * 2 ^ 128 + 2 ^ 122)) }
    dmaBlocked s 192 = false ∧ dmaFresh fresh = true ∧ burstLen (mover .run 16) lastDesc.toNat = 16 ∧
    (dmaBurst s 192).1 = .okay ∧ ({ state := .wait } : Dma).cur = none ∧
    (let y : Dma := { mover .wait 16 with desc := 0x10_0000_0000, src := 0x10_0000_0000, failed := some .error }
     let t : State := { channelled y with mx := { dma := [(192, y)], locks := [{ target := 33 }] } }
     dmaBlocked t 192 = true ∧ matLocked (.dma 192) (dmaAt t 192).desc.toNat t = true ∧ (dmaAt t 192).failed = some .error) := by decide +kernel

/-- Caldera 0 in the given power state, with the given vent 0. -/
def powered (p : CalPower) (x : Vent) : State := { part x with cals := [(0, { power := p })], timebase := 10000 }

theorem test_witness_calderaPower : (calAt (powered .gating busy) 0).gateTick + 10000 ≤ (powered .gating busy).timebase ∧
    calInFlight (powered .gating busy) 0 = true ∧ calInFlight (powered .gating broad) 0 = false ∧
    (calAt (powered .gating broad) 0).power = .gating ∧ (calAt (powered .powering broad) 0).power = .powering := by decide

theorem test_witness_accepted : let l : FarLoad := { pieces := [{ maddr := calBase 0, len := 4, accepted := true }] }
    let s : State := { powered .gating broad with vents := [(0, broad), (8, { broad with fl := { far := [l] } })] }
    calInFlight s 0 = true ∧ (calAt s 0).power = .gating := by decide
theorem test_witness_scrub : let s : State := { part broad with hbm := { trained := 15, latent := [(0, false), (1, true)] } }
    hbmMarked s 0 = false ∧ ffind s.hbm.latent (0 / 32) = some false ∧ ffind s.hbm.latent (32 / 32) = some true ∧
    ffind s.hbm.latent (64 / 32) = none ∧ ventFitted s 0 = true ∧ (0 : Nat) ≠ mvNum := by decide
theorem test_witness_memoryStores : storeLoc 0x1000000 = .key 0 0 ∧ storeLoc (0x1000000 + 59) = .key 0 59 ∧ storeLoc 0x60 = .ctx 0 0x60 ∧
    storeLoc 0xFFFFFF = .ctx 65535 0xFF ∧ (slotAt keyed 0 0).state ≠ .empty ∧ (part broad).hbm.badWords = [] ∧
    hbmMarked { part broad with hbm := { zeroing := true } } 0 = true ∧ hbmMarked (part broad) 0 = false ∧
    (part broad).hbm.trained.getLsbD (hbmStack (part broad) 0) = true ∧
    (part broad).hbm.trained.getLsbD (hbmStack (part broad) (hbmSize (part broad) - 1)) = true ∧
    (part broad).glob.phase = .primed := by decide

/-! ### Witnesses: the frame path -/

/-- The primed part with sub-port 0 up, whose misses go to the host, and the frames given. -/
def ported (fs : FMap Frame) (opensT : List OpenTicket) : State :=
  { opened with
    ports := [(0, { link := 1 })]
    sets := { set0 := { sub := [(0, { missHost := true })] } }
    path := { frames := fs, opens := opensT } }

/-- A frame of n bytes: broadcast, from 02:00:00:00:00:01, with a length field. -/
def ether (n : Nat) : List Byte := List.replicate 6 0xFF ++ [2, 0, 0, 0, 0, 1, 0, 0x2E] ++ zeros (n - 14)

theorem test_witness_frameIntake : let s := ported [] []
    subUp s 0 = true ∧ ¬(524288 < portFill s 0 + (subAt s 0).maxframe) ∧
    524288 < portFill (ported [(9, { stage := .heldSrc, len := 524288 })] []) 0 + (subAt s 0).maxframe ∧
    (ether 60).length + 4 = 64 ∧ (ether 59).length + 4 < 64 ∧ 8 * ((ether 60).length + 24) ≤ s.path.tokens ∧
    (max 1 ((60 + 255) / 256)) + 4096 ≤ pbFree s ∧ cellsOk s [196607] 1 = true ∧ (parseFrame (ether 60)).kind ≠ 11 ∧
    (let f := frameRecord s 0 0 60 [196607] (fit (ether 60) 128) (parseFrame (ether 60))
     f.hit = false ∧ f.action = 4 ∧ f.frag = false) ∧ s.easel.switching.any (fun p => p.1 == 0) = false ∧
    (moving [] []).easel.switching.any (fun p => p.1 == 3) = true := by decide
theorem test_witness_intake_drops : let s : State := { ported [] [] with sets := {} }
    (let f := frameRecord s 0 0 60 [0] (fit (ether 60) 128) (parseFrame (ether 60))
     f.hit = false ∧ f.action = 0) ∧
    ({ ported [] [] with path := { tokens := 671 } } : State).path.tokens < 8 * ((ether 60).length + 24) := by decide
/-- The ported part whose packet buffer holds a frame of the first n cells. -/
def filled (n : Nat) : State := ported [(1, { cells := List.range n })] []

theorem filled_free (n : Nat) : pbFree (filled n) = 196608 - n := by
  simp [pbFree, usedCells, filled, ported]

theorem test_witness_no_cells : pbFree (filled 192512) < 1 + 4096 := by
  rw [filled_free]
  decide
/-- The ported part with every entry of bank 0 migrating. -/
def migrating : State :=
  { ported [] [] with easel := { steer := (List.range 4096).map (fun b => (b, { valid := true, mig := true })) } }

theorem test_witness_migrating_entry : ∀ b < 4096, (steerAt migrating 0 b).mig = true := by
  intro b hb
  have h : ffind migrating.easel.steer b = some { valid := true, mig := true } := by
    unfold migrating
    generalize 4096 = n at hb ⊢
    simp only []
    rw [ffind_run]
    exact if_pos hb
  unfold steerAt
  rw [show 4096 * 0 + b = b by omega, h]

/-- A FROMHOST descriptor of n bytes at host address 0x3000. -/
def hostDesc (n : Nat) : List Byte := leBytes 32 (0x3000 + n * 2 ^ 64)

/-- The opened part with a FROMHOST ring 8 and a TOHOST ring 7, whose queue holds frame 1. -/
def ringFrames : State :=
  let f : Frame := {
    stage := .queued 7
    cells := [0]
    len := 60 }
  let q : Queue := {
    valid := true
    dkind := 2
    limit := 100
    ondie := [1] }
  { queued with
    path := { frames := [(1, f)] }
    qm := { queues := [(7, q)] }
    sets := { set0 := { wild := [(0, {
      value := zeros 12
      mask := zeros 12
      res := { action := 4, rdata := 7 } })] } } }

theorem test_witness_framesToVentsAndHost : ringAt ringFrames 8 = some { kind := .fromhost, prod := 1 } ∧ (hostDesc 60).length = 32 ∧
    funcLive ringFrames 0 = true ∧ ringFrames.easel.switching.any (fun p => p.1 == 32) = false ∧
    nbits (leNat (hostDesc 60)) 77 64 = 60 ∧ nbits (leNat (hostDesc 59)) 77 64 + nbits (leNat (hostDesc 59)) 93 80 < 60 ∧
    nbits (leNat (hostDesc 60)) 79 78 = 0 ∧ nbits (leNat (hostDesc 60)) 127 94 = 0 ∧ nbits (leNat (hostDesc 60)) 255 192 = 0 ∧
    (intakeFrame ringFrames 32 0 (ether 60) [5]).isSome = true ∧
    (intakeFrame ringFrames 32 0 (ether 60) [5]).bind (fun t => ringAt t 8) = some { kind := .fromhost, prod := 1 } ∧
    ringAt ringFrames 7 = some { kind := .tohost } ∧ (queueAt ringFrames 7).ondie = 1 :: [] ∧ (queueAt ringFrames 7).dkind = 2 ∧
    ringRoom { kind := .tohost } = true ∧ badCell ringFrames (frameAt ringFrames 1) = none := by decide

/-- Vent 0 with an enabled input ring of 16 entries and frame 1 waiting for it. -/
def waitingItem : State :=
  { part { broad with inp := { cfg := 0x01010000, items := [.frame 1] } } with
    path := { frames := [(1, { stage := .waiting 0, cells := [3], len := 60 })] } }

theorem test_witness_itemEntry : let x := (ventAt waitingItem 0).inp
    x.items = .frame 1 :: [] ∧ ventFitted waitingItem 0 = true ∧ nbits x.cfg.toNat 22 12 = 16 ∧ x.cfg.getLsbD 24 = true ∧
    (x.prod - x.cons).toNat < 16 ∧ (calAt waitingItem 0).power = .on ∧
    (itemEntry waitingItem (.frame 1)).any (fun p => p.1.length == 160 && p.2 == 1) = true ∧
    pbhOf (frameAt waitingItem 1) < 2 ^ 20 ∧ (frameAt waitingItem 1).rule < 2 ^ 17 ∧ matLocked .intake (palBase 0) waitingItem = false ∧
    matLocked .intake (palBase 0) { waitingItem with mx := { locks := [{ target := targetPort waitingItem (matLoc .intake (palBase 0) waitingItem) }] } } = true := by decide +kernel

/-- Frame 1 at vent 0 under ticket 1 of bucket 5, both tickets opened at tick 0; queue 2 is of sub-port 0, queue 6 full, queue 7
of the host. -/
def released (now : DWord) (st : Stage) (first : Word) : State :=
  let f : Frame := {
    stage := st
    cells := [3]
    len := 60
    bucket := 5
    ticket := 1
    queue := 2 }
  { opened with
    timebase := now
    path := {
      frames := [(1, f)]
      opens := [{ bucket := 5, ticket := first }, { bucket := 5, ticket := 1 }] }
    qm := { queues := [(2, { valid := true, limit := 1, spillth := 1 }), (6, { valid := true }),
      (7, { valid := true, dkind := 2, limit := 1 })] } }

theorem test_witness_queueEntrance : let soon := released 99999 (.atVent 0)
    frameOf (soon 1) 3 = some 1 ∧
    (∃ o, (soon 1).path.opens.find? (fun o => o.bucket == 5 && decide ((soon 1).timebase.toNat < o.tick.toNat + 100000)) = some o ∧
      o.ticket = 1) ∧
    (∃ o, (soon 0).path.opens.find? (fun o => o.bucket == 5 && decide ((soon 0).timebase.toNat < o.tick.toNat + 100000)) = some o ∧
      o.ticket ≠ 1) ∧
    (∃ o ∈ (soon 0).path.opens, o.bucket = 5 ∧ o.ticket = 1 ∧ (soon 0).timebase.toNat < o.tick.toNat + 100000) ∧
    ¬((released 100000 (.atVent 0) 1).timebase.toNat < (0 : DWord).toNat + 100000) ∧
    (queueAt (soon 1) 2).valid = true ∧ (queueAt (soon 1) 3).valid = false ∧
    (queueAt (soon 1) 6).limit * 4096 < 0 + 60 ∧ 0 + 60 ≤ (queueAt (soon 1) 2).limit * 4096 ∧ (queueAt (soon 1) 7).dkind = 2 := by
  refine ⟨by decide, ⟨{ bucket := 5, ticket := 1 }, by decide, rfl⟩, ⟨{ bucket := 5, ticket := 0 }, by decide, by decide⟩,
    ⟨{ bucket := 5, ticket := 1 }, by decide, rfl, rfl, by decide⟩, by decide,
    by decide, by decide, by decide, by decide, by decide⟩

theorem test_witness_rackTimeout : let s := released 100000 .inRack 1
    s.path.frames.find? (fun p => p.2.bucket == 5 && p.2.ticket == 1 && (p.2.stage == .inRack || p.2.stage == .piece)) =
      some (1, frameAt s 1) ∧ slotChan (frameAt s 1) = none ∧ (0 : DWord).toNat + 100000 ≤ s.timebase.toNat ∧
    (let t := released 100000 (.atVent 0) 1
     t.path.frames.any (fun p => p.2.bucket == 5 && p.2.ticket == 1 && (p.2.stage == .inRack || p.2.stage == .piece)) = false) := by
  decide

/-- Frame 1 of sub-port 0 under the given action, at vent 0; sub-ports 0 and 8 are a pair where `on`, context 0's receive slot 2
expires at tick 5, queue 2 of sub-port 8 takes frames and queue 3 has spilled to segment 1. -/
def paired (action : Nat) (on : Bool) (tick : DWord) : State :=
  let f : Frame := {
    stage := .atVent 0
    cells := [3]
    len := 60
    tick := tick
    bucket := 5
    ticket := 1
    kind := 3
    sec := { tci := 0x2C }
    action := action
    rdata := 7
    queue := 2 }
  let ok : Queue := {
    valid := true
    subport := 8
    limit := 1
    spillth := 1 }
  { opened with
    sets := { set0 := { sub := if on then [(0, { partner := 8 }), (8, { partner := 0, cipher := true })] else [] } }
    store := { ctxs := [(0, { blk0 := 0x181, slots := [(2, { state := .live, expiry := 5 })] })] }
    path := {
      frames := [(1, f)]
      opens := [{ bucket := 5, ticket := 1 }] }
    qm := { queues := [(2, ok), (3, { ok with spilled := true, segs := [(1, [])] })] } }

/-- Frame 1, stopped at QM's entrance by what the mode table gives its action and by its pair. -/
theorem test_witness_entranceModes :
    ventRefuses (paired 0 true 0) (frameAt (paired 0 true 0) 1) = some 13 ∧
    pairOf (setAt (paired 3 true 0) false) 0 = some 8 ∧
    ventRefuses (paired 3 true 0) (frameAt (paired 3 true 0) 1) = some 14 ∧
    ventRefuses (paired 1 true 0) (frameAt (paired 1 true 0) 1) = none ∧
    ventRefuses (paired 4 true 0) (frameAt (paired 4 true 0) 1) = none ∧
    pairOf (setAt (paired 1 true 0) false) 0 = some (queueAt (paired 1 true 0) 2).subport ∧
    pairOf (setAt (paired 1 false 0) false) 0 ≠ some (queueAt (paired 1 false 0) 2).subport ∧
    (queueAt (paired 1 true 0) 3).segs = [] ++ [(1, [])] ∧ (queueAt (paired 1 true 0) 3).tailUsed + 60 ≤ 65536 ∧
    hbmBase ≤ (paired 1 true 0).qm.spillBase * 2 ^ 16 + 1 * 65536 ∧
    (paired 1 true 0).qm.spillBase * 2 ^ 16 + 1 * 65536 + 60 ≤ hbmBase + hbmSize (paired 1 true 0) ∧
    (paired 1 true 0).hbm.zeroing = false ∧ badCell (paired 1 true 0) (frameAt (paired 1 true 0) 1) = none := by decide

/-- A job's frame waits in the rack, of action 1 or 4; one under RELAY is not let out before it is decrypted and encrypted. -/
theorem test_witness_entranceJobs :
    (∀ a ∈ [1, 4], let s := updFrame (paired a true 0) 1 (fun f => { f with stage := .inRack })
      (frameAt s 1).stage = .inRack ∧ ventRefuses s (frameAt s 1) = none ∧ (frameAt s 1).carrier = none) ∧
    (let s := updFrame (paired 3 true 0) 1 (fun f => { f with stage := .inRack })
     ventRefuses s (frameAt s 1) = some 14) ∧
    (let s := updFrame (paired 3 true 0) 1 (fun f => { f with role := true })
     (fget {} (setAt s false).sub 8).cipher = (frameAt s 1).role ∧ (frameAt s 1).decDone = false) := by decide

/-- A DECRYPT frame of a CIPHER sub-port whose receive slot 2 expires at tick 5. -/
def expiring (tick : DWord) : State :=
  updFrame (paired 3 true tick) 1 (fun f => { f with role := true })

theorem test_witness_entranceExpiry :
    ventRefuses (expiring 5) (frameAt (expiring 5) 1) = none ∧ tagRefused (expiring 5) (frameAt (expiring 5) 1) = false ∧
    (∀ t ∈ [0x3C, 0x24, 0x28], tagRefused (expiring 5) { frameAt (expiring 5) 1 with sec := { tci := t } } = true) ∧
    tagRefused (expiring 5) { frameAt (expiring 5) 1 with sec := { tci := 0x2C, sci := [1] } } = true ∧ (slotAt (expiring 5) 0 2).expiry ≤ (frameAt (expiring 5) 1).tick ∧
    (frameAt (expiring 4) 1).tick < (slotAt (expiring 4) 0 2).expiry ∧ (slotAt (expiring 5) 0 2).state = .live ∧
    (expiring 5).store.txQueue = [] ∧ (∃ p g, (frameAt (released 0 (.slotPlain 0 0) 1) 1).stage = .slotPlain p g ∧
      (frameAt (released 0 (.slotPlain 0 0) 1) 1).gfid = none) := by
  refine ⟨by decide +kernel, by decide +kernel, by decide +kernel, by decide +kernel, by decide, by decide, by decide, by decide, ⟨0, 0, by decide, by decide⟩⟩

/-- Queue 2 of sub-port 0 with frame 1 on die and frame 2 in HBM; frame 3 is being transmitted by sub-port 1. -/
def sending (link : Byte) (poison : List Nat) : State :=
  let q : Queue := {
    valid := true
    limit := 4
    spillth := 1
    spilled := true
    ondie := [1]
    hbm := [2] }
  let onDie : Frame := {
    stage := .queued 2
    cells := [3]
    len := 60 }
  let inHbm : Frame := {
    stage := .spilled 2
    len := 60
    spillAt := 0x1002000000 }
  { opened with
    ports := [(0, { link := link, brkout := 1 })]
    sets := { set0 := { wprof := [(0, 0x800)] } }
    subs := [(0, { active := [(0, [2])] }), (1, { txing := some 3 })]
    path := { frames := [(1, onDie), (2, inHbm), (3, { stage := .txing 1 })] }
    qm := { queues := [(2, q)] }
    hbm := { poison := poison } }

theorem test_witness_spillAndTransmit : (queueAt (sending 1 []) 2).hbm = 2 :: [] ∧
    framesLen (sending 1 []) (queueAt (sending 1 []) 2).ondie < (queueAt (sending 1 []) 2).spillth * 2048 ∧
    cellsOk (sending 1 []) [7] (cellsFor (frameAt (sending 1 []) 2).len) = true ∧
    hbmBase ≤ (frameAt (sending 1 []) 2).spillAt ∧
    (hbmReadBytes (sending 1 []) ((frameAt (sending 1 []) 2).spillAt - hbmBase) 60).1 = .okay ∧
    (hbmReadBytes (sending 1 [0x100001]) ((frameAt (sending 1 []) 2).spillAt - hbmBase) 60).1 ≠ .okay ∧ carriedOf (sending 1 []) 2 = none ∧
    subUp (sending 1 []) 0 = true ∧ (subAt (sending 1 []) 0).txing = none ∧
    (pickNode (sending 1 []) (.sub 0) (fun _ => true)).any (fun p => p.1 == 1 && badCell p.2 (frameAt p.2 1) == none) = true ∧
    fitsBefore (sending 1 []) 0 60 = true ∧ (subAt (sending 1 []) 1).txing = some 3 ∧ subUp (sending 0 []) 0 = false ∧
    downHeads (sending 0 []) 0 = [1] ∧ (frameAt (sending 0 []) 1).stage = .queued 2 := by decide

/-! ### Witnesses: ciphers and Glaze -/

/-- A MACsec job: no header, AAD 0 to 20, ECB of 40 bytes at 20, packet number 7; `add` sets more. -/
def macJob (add : Nat) : BitVec 512 := BitVec.ofNat 512 (3 * 2 ^ 40 + 60 * 2 ^ 64 + 20 * 2 ^ 88 + 20 * 2 ^ 96 + 40 * 2 ^ 110 +
  7 * 2 ^ 128 + 2 * 2 ^ 224 + add)

/-- Frame 1 of 60 bytes at vent 0 with a job of LCE 0 for it, under slot 2 of context 0. -/
def jobbed (add : Nat) : State :=
  { keyed with
    store := { ctxs := [(0, { slots := [(0, { state := .live })], win := [(2, { wok := true })] })] }
    path := {
      frames := [(1, { stage := .atVent 0, cells := [3], len := 60 })]
      jobs := [{ lce := 0, vent := 0, desc := macJob add }] } }

theorem test_witness_cipherJobs : let j := jobOf (macJob 0)
    (jobbed 0).path.jobs.find? (fun b => b.lce == 0) = some { lce := 0, vent := 0, desc := macJob 0 } ∧
    j.encStart + j.encLen ≤ 60 ∧ j.slpos = 0 ∧ j.ippos = 0 ∧ j.maxlen = 0 ∧ j.aadStart + j.aadLen ≤ j.encStart ∧ j.suite < 4 ∧
    frameOf (jobbed 0) j.pbh = some 1 ∧ j.isSeal = false ∧ j.op = 0 ∧ j.glaze = false ∧ jobRefused j 60 false false = false ∧
    keyRefused (jobbed 0) j = false ∧ (slotAt (jobbed 0) j.ctx j.slot).state = .live ∧ (slotAt (jobbed 0) j.ctx j.slot).klen = 0 ∧
    j.hlen = 0 ∧ badCell (jobbed 0) (frameAt (jobbed 0) 1) = none ∧ (frameBytes (jobbed 0) (frameAt (jobbed 0) 1)).length = 60 ∧
    jobRefused (jobOf (macJob (2 ^ 10))) 60 false false = true := by decide +kernel

/-- A job with a header of eight bytes in the output of vent 0, which a lock holds. -/
theorem test_witness_lockedHeader : let j := jobOf (macJob (palBase 0 * 2 ^ 256 + 8 * 2 ^ 288))
    let s := jobbed (palBase 0 * 2 ^ 256 + 8 * 2 ^ 288)
    j.hlen ≠ 0 ∧ matLocked (.lce 0) j.haddr { s with mx := { s.mx with
      locks := [{ target := targetPort s (matLoc (.lce 0) j.haddr s) }] } } = true := by decide +kernel
/-- A DECRYPT job for frame 1: AAD 0 to 20, 24 bytes of ciphertext and a tag, under receive slot 2; in the form given. -/
def unsealing (st : Stage) (desc : Nat) : State :=
  { jobbed 0 with
    store := { ctxs := [(0, { slots := [(2, { state := .live })], win := [(2, { wok := true })] })] }
    path := {
      frames := [(1, { stage := st, cells := [3], len := 60 })]
      jobs := [{ lce := 0, vent := 0, desc := BitVec.ofNat 512 (desc + 3 * 2 ^ 40 + 60 * 2 ^ 64 + 20 * 2 ^ 88 + 20 * 2 ^ 96 + 24 * 2 ^ 110 +
        7 * 2 ^ 128 + 2 * 2 ^ 224) }] } }

theorem test_witness_decryptJob : let s := unsealing (.atVent 0) (1 + 2 * 2 ^ 32)
    let j := jobOf ((s.path.jobs.head?.getD {}).desc)
    frameOf s j.pbh = some 1 ∧ j.isSeal = false ∧ j.op = 1 ∧ j.glaze = false ∧ j.chain = false ∧ jobRefused j 60 false false = false ∧
    (slotAt s j.ctx j.slot).state = .live ∧ (slotAt s j.ctx j.slot).klen = 0 ∧ 2 ≤ j.slot ∧ j.hlen = 0 ∧ badCell s (frameAt s 1) = none ∧
    j.encStart + j.encLen + 16 ≤ 60 ∧ (frameBytes s (frameAt s 1)).length = 60 ∧ j.suite < 4 ∧ j.maxlen = 0 ∧ [3].Nodup ∧
    cellsFor (j.encStart + j.encLen) ≤ 1 ∧ (kcFinal s j.ctx j.slot false j.num).1 = true := by decide +kernel
theorem test_witness_sealJob : let s := unsealing .inRack (2 ^ 255)
    let j := jobOf ((s.path.jobs.head?.getD {}).desc)
    frameOf s j.pbh = some 1 ∧ j.isSeal = true ∧ (frameAt s 1).stage = .inRack ∧
    (let t := unsealing (.slotPlain 0 0) (2 ^ 255)
     (frameAt t 1).stage = .slotPlain 0 0 ∧ 1 ∉ (chanAt t 0 0).slots ∧ 1 ∈ (chanAt { t with glaze := { chans := [(0, { slots := [1] })] } } 0 0).slots) ∧
    (let t := unsealing (.atVent 0) (2 ^ 254)
     (jobOf ((t.path.jobs.head?.getD {}).desc)).glaze = true ∧ hasGlaze t = true) := by decide +kernel
theorem encrypt_gives (j : LceJob) (k : KeySlot) (f : List Byte) (h : j.encStart + j.encLen ≤ f.length) (hc : j.cut = 0)
    (he : j.esp = false) (ht : tagUnsent f = false) (hm : j.maxlen = 0) (hl : j.encStart + j.encLen + 16 ≤ 16383) :
    ∃ bs, encryptBytes j k false [] f = .ok bs := by
  simp only [encryptBytes, hc, he, ht, hm, List.nil_append, List.drop_zero]
  rw [if_neg (by simpa using h), if_neg (Nat.not_lt.mpr (by simpa using hl)), if_neg (by simp)]
  exact ⟨_, rfl⟩
theorem encrypt_refuses (j : LceJob) (k : KeySlot) (f : List Byte) (h : f.length < j.encStart + j.encLen) (hc : j.cut = 0) :
    encryptBytes j k false [] f = .error 24 := by
  simp only [encryptBytes, hc, List.nil_append, List.drop_zero]
  rw [if_pos (.inl (by simpa using h))]

theorem test_witness_encrypt : cellsFor 76 = 1 ∧ ∃ bs, encryptBytes (jobOf (macJob 0)) {} false [] (zeros 60) = .ok bs :=
  ⟨by decide, encrypt_gives _ _ _ (by decide +kernel) (by decide +kernel) (by decide +kernel) (by decide +kernel) (by decide +kernel)
    (by decide +kernel)⟩

/-- SecTAGs that R35 never sends: SCB, E without C, C without E, ES with SC; one that it sends. -/
theorem test_witness_tagUnsent : let frame := fun (t : Byte) => zeros 12 ++ [0x88, 0xE5, t] ++ zeros 45
    [(0x1C : Byte), 0x08, 0x04, 0x6C].all (fun t => tagUnsent (frame t)) = true ∧ tagUnsent (frame 0x2C) = false ∧
    (jobOf (macJob 0)).cut = 0 ∧ (jobOf (macJob 0)).suite < 4 := by decide +kernel
theorem test_witness_encrypt_long : encryptBytes (jobOf (macJob (21 * 2 ^ 110))) {} false [] (zeros 60) = .error 24 :=
  encrypt_refuses _ _ _ (by decide +kernel) (by decide +kernel)

/-- The opened part with sub-port 0 up and channel 0 of port 0 in CONSTANT mode, its slot ended, with the slots given. -/
def glazed (c : Channel) (t : DWord) (frames : FMap Frame) : State :=
  { opened with
    timebase := t
    ports := [(0, { link := 1 })]
    sets := { set0 := { gprof := [(0, 1 + 256 * 2 ^ 32 + 64000 * 2 ^ 48 + 1000 * 2 ^ 80)] } }
    store := { ctxs := [(0, { blk0 := 3 })] }
    path := { frames := frames, nextFid := 50 }
    glaze := { chans := [(0, c)] } }

/-- A running channel whose slot is [0, 1000 ns). -/
def openSlot : Channel :=
  { running := true
    len := 64000
    size := 256
    prof := BitVec.ofNat 512 (1 + 256 * 2 ^ 32 + 64000 * 2 ^ 48 + 1000 * 2 ^ 80) }

theorem test_witness_slotFrames : let s := glazed openSlot 1000 []
    let x := (chanAt s 0 0).prof.toNat
    (chanAt s 0 0).running = true ∧ (0 + 64000) / 64 ≤ s.timebase.toNat ∧ pMode x = 1 ∧ pMode (gprofOf s false 0 0) = 1 ∧
    subUp s (8 * 0 + pSub x) = true ∧ chanEsp s (chanAt s 0 0).slotEp x = false ∧ 14 ≤ min 256 (subAt s 0).maxframe - chanOverhead s false x ∧
    0 < 256 - chanOverhead s false x - 14 ∧ (chanAt s 0 0).start / 64 < 2 ^ 64 ∧
    pickNode s (.chan 0 0) (slotReady s 1000) = none ∧ (chanAt s 0 0).carry = none ∧ (chanAt s 0 0).stale = false ∧
    cellsOk s [9] (cellsFor (256 - chanOverhead s false x)) = true := by decide +kernel
/-- Channel 0 with queue 2 of it holding frame 1 of epoch e, or with frame 1 carried from offset 30, its slot ended. -/
def slotted (e : Bool) (carried : Bool) : State :=
  let q : Queue := {
    valid := true
    dkind := 1
    limit := 4
    ondie := if carried then [] else [1] }
  let f : Frame := {
    stage := if carried then .staged 0 0 else .queued 2
    cells := [3]
    len := 60
    epoch := e }
  let c : Channel := { openSlot with
    active := [(0, [2])]
    carry := if carried then some (1, 30) else none }
  let s := glazed c 1000 [(1, f)]
  { s with
    sets := { s.sets with set0 := { s.sets.set0 with wprof := [(0, 0x800)] } }
    qm := { queues := [(2, q)] } }

theorem test_witness_slot_content : (chanAt (slotted false true) 0 0).carry = some (1, 30) ∧
    (∀ e, (pickNode (slotted e false) (.chan 0 0) (slotReady (slotted e false) 1000)).any
      (fun p => p.1 == 1 && (frameAt (slotted e false) p.1).epoch == e) = true) ∧
    (frameBytes (slotted false true) (frameAt (slotted false true) 1)).length = 60 ∧
    (let s := slotted false false
     14 ≤ min 256 (subAt s 0).maxframe - chanOverhead s false (chanAt s 0 0).prof.toNat ∧
     (frameAt s 1).epoch = (chanAt s 0 0).slotEp ∧ (frameAt (slotted true false) 1).epoch ≠ (chanAt (slotted true false) 0 0).slotEp) := by
  decide +kernel
theorem test_witness_slot_seed : (2 : Nat) ^ 24 ≤ ({ openSlot with draws := 2 ^ 24 } : Channel).draws ∧
    pMode (fget 0 ({ gprof := [(0, 2)] } : ConfigSet).gprof 0).toNat = 2 := by decide +kernel
theorem test_witness_wireTime :
    let f : Frame := { stage := .slotSealed 0 0, len := 60, desc := BitVec.ofNat 256 (3 * 2 ^ 84), wire := 64 * 2000 }
    let s := glazed { openSlot with slots := [1] } 2000 [(1, f)]
    let t : State := { s with sets := { set0 := { sub := [(0, { partner := 8 }), (8, { partner := 0, cipher := true })] } } }
    pairOf (setAt s false) 0 = none ∧ pairOf (setAt t false) 0 ≠ none ∧ subUp t 0 = true ∧
    (frameAt s 1).stage = .slotSealed 0 0 ∧ nbits f.desc.toNat 86 84 = 3 ∧ nbits f.desc.toNat 101 99 = 0 ∧ subUp s 0 = true ∧
    (subAt s 0).txing = none ∧ earlierWire s 0 0 f.wire = false ∧ f.wire / 64 ≤ s.timebase.toNat ∧
    badCell s (frameAt s 1) = none := by decide

/-- Channel 0 switched OFF, with queue 2 of it holding frame 1. -/
def offChannel : State :=
  let q : Queue := {
    valid := true
    dkind := 1
    limit := 4
    ondie := [1] }
  let s := glazed {} 1000 [(1, { stage := .queued 2, cells := [3], len := 60 })]
  { s with
    sets := { set0 := { wprof := [(0, 0x800)] } }
    glaze := { chans := [(0, { active := [(0, [2])] })] }
    qm := { queues := [(2, q)] } }

theorem test_witness_offChannel : (chanAt offChannel 0 0).running = false ∧ (chanAt offChannel 0 0).carry = none ∧ hasGlaze offChannel = true ∧
    subUp offChannel (8 * 0 + pSub (gprofOf offChannel false 0 0)) = true ∧ pMode (gprofOf offChannel false 0 0) = 0 ∧
    (pickNode offChannel (.chan 0 0) (fun _ => true)).any (fun p => p.1 == 1 && (frameAt offChannel p.1).epoch == false) = true ∧
    cellsOk offChannel [9] (cellsFor 60) = true := by decide +kernel

/-! ### Well-formedness refuses -/

/-- MOV, a whole word of it set beside the one it has. -/
def longMov : OpEnc := { w0 := (enc .mov).w0, w1 := 1 }

theorem test_wellFormed_operations : WellFormed (.mov 0 (enc .mov)) = true ∧ WellFormed (.mov 97 (enc .mov)) = false ∧
    WellFormed (.mov 0 badClass) = false ∧ WellFormed (.mov 0 longMov) = false ∧ WellFormed (.mov 0 (enc .add)) = false ∧
    WellFormed (.vfsgn 96 (enc .vfsgn)) = true ∧ WellFormed (.scns 97 (enc .scnsNe) true none) = false := by decide
theorem test_wellFormed_ports : WellFormed (.lossOfSignal 4 0) = false ∧ WellFormed (.transmitShort 0 8) = false ∧
    WellFormed (.immediateAdaptation 0 8 0) = false ∧ WellFormed (.portLaneclr .mv 4 0) = false ∧ WellFormed (.reflost 4) = false ∧
    WellFormed (.fecdegWindow 4 0) = false ∧ WellFormed (.linkUp 32 0) = false ∧ WellFormed (.linkDown 32) = false ∧
    WellFormed (.frameReceive 32 [] true []) = false ∧ WellFormed (.i2cLineCheck 4 .free) = false ∧
    WellFormed (.linkDown 31) = true := by decide
theorem test_wellFormed_host : WellFormed (.vfFlr 0) = false ∧ WellFormed (.vfFlr 64) = false ∧ WellFormed (.busMasterEnable 64 true) = false ∧
    WellFormed (.msixUnmask 0 2048 .enable) = false ∧ WellFormed (.msixTimeout 64 0) = false ∧ WellFormed (.doorbell 0 0 []) = false ∧
    WellFormed (.ringCtlSkip .mv 4096 0) = false ∧ WellFormed (.lockTimeout 45) = false ∧ WellFormed (.epochFlip 33) = false ∧
    WellFormed (.vfEnable 64) = false ∧ WellFormed (.vfFlr 63) = true := by decide
theorem test_wellFormed_units : WellFormed (.calderaSeal 12) = false ∧ WellFormed (.pwrCalgateGate .mv 12) = false ∧
    WellFormed (.txtake 96) = false ∧ WellFormed (.vinCfg .mv 96 0) = false ∧ WellFormed (.holdExpiry 97) = false ∧
    WellFormed (.farLoadResponse 97 0) = false ∧ WellFormed (.lceEncrypt 8 false []) = false ∧ WellFormed (.drainComplete 65536 0) = false ∧
    WellFormed (.drainComplete 0 6) = false ∧ WellFormed (.rackTimeout 4096 0) = false ∧ WellFormed (.spillReturn 1048576 []) = false ∧
    WellFormed (.glazeSlotClose 4 0 []) = false ∧ WellFormed (.glazeWireTime 0 1024) = false ∧ WellFormed (.dchCtlStart .mv 256) = false ∧
    WellFormed (.busError 256 .fetch .error) = false ∧ WellFormed (.busError 0 .fetch .okay) = false ∧ WellFormed (.dmaRetry 256 true) = false ∧
    WellFormed (.railLowReset 6) = false ∧ WellFormed (.holdExpiry 96) = true := by decide
theorem test_wellFormed_ill_formed_runs : after (.mov 0 badClass) (part broad) (fun _ => ()) = none := by decide

/-! ### Results the spec works out -/

/-- The three operations of the example in "Worked example: encoding a bundle" (spec/07), from its words. -/
theorem test_bundle_example :
    (let e : OpEnc := { w0 := 0x300D2A02, w1 := 0x80530106 }
     e.last = false ∧ e.long = true ∧ e.cls = 0 ∧ e.guard = 0 ∧ e.opc = 0x15 ∧ opSpelt .extu e = true ∧ opD .extu e = .reg 6 ∧
       opA .extu e = .spec 0x0106 ∧ opB .extu e = .spec 0x8053 ∧ fSZ e = 2) ∧
    (let e : OpEnc := { w0 := 0x3020A006, w1 := 0x8002010E }
     e.last = false ∧ e.long = true ∧ e.cls = 1 ∧ e.guard = 0 ∧ e.opc = 0x10 ∧ opSpelt .shl e = true ∧ opD .shl e = .reg 16 ∧
       opA .shl e = .spec 0x010E ∧ opB .shl e = .spec 0x8002 ∧ fSZ e = 1) ∧
    (let e : OpEnc := { w0 := 0x2043040B, w1 := 0x000080A0 }
     e.last = true ∧ e.long = true ∧ e.cls = 2 ∧ e.guard = 0 ∧ e.opc = 0x02 ∧ opSpelt .add e = true ∧ opD .add e = .reg 1 ∧
       opA .add e = .reg 1 ∧ opB .add e = .spec 0x80A0) := by decide

/-- R183's example: [A0 ++ circular] with 4,096 bytes at 0x3000, A0 0x3FC0 and M1 64; bit-reversed from 0x2010 by 16. -/
theorem test_address_modes :
    specAddr { broad with r := [(0, 0x3FC0), (17, 64)], loop := { cb := [(0, 0x3000)], cl := [(0, 4096)] } } 0x5001 4 4 4 =
      (0x3FC0, [.gpr 0 0x3000], []) ∧
    specAddr { broad with r := [(0, 0x2010), (16, 16)] } 0x6000 4 4 4 = (0x2010, [.gpr 0 0x2008], []) := by decide

/-- R190: NEG of 0x8000_0000 gives itself with OV; division of 7 by 0 gives 0x7FFF_FFFF; ADDS clamps with SAT. -/
theorem test_scalar_edges :
    after (.neg 0 (enc .neg)) (part { broad with r := [(2, 0x80000000)] }) (fun t => (reg 1 t, (ventAt t 0).astat)) =
      some (0x80000000, 1) ∧
    after (.adds 0 (enc .adds)) (part { broad with r := [(2, 0x7FFFFFFF), (3, 1)] }) (fun t => (reg 1 t, (ventAt t 0).astat)) =
      some (0x7FFFFFFF, 4) ∧
    after (.shl 0 (enc .shl)) (part { broad with r := [(2, 1), (3, 32)] }) (reg 1) = some 0 ∧
    after (.sar 0 (enc .sar)) (part { broad with r := [(2, 0x80000000), (3, 63)] }) (reg 1) = some 0xFFFFFFFF := by decide

/-- R214's example: VMULRH.H under NEARUP of 0x4000 and 0xA000 is 0xD000. -/
theorem test_vmulrh_example : after (.vmulrh 0 (op .vmulrh (1 + 4 * 1 + 128 * 2 + 4096 * 3)))
    (part { broad with vec := { vl := 64, vtype := 1, v := [(2, 0x4000), (3, 0xA000)] } })
    (fun t => ((fget 0 (ventAt t 0).vec.v 1).toNat % 65536, (ventAt t 0).astat)) = some (0xD000, 0) := by decide +kernel

/-- Context 0x300 of the TXTAKE example (R62), with the request of tick t at the port of vent 0. -/
def takes (t : DWord) (x y : SlotState) (a b : DWord) (cur : Bool) : State :=
  { opened with store := {
      ctxs := [(0x300, {
        slots := [(0, { state := x, expiry := 1000000000, limit := BitVec.allOnes 56 }), (1, { state := y, limit := BitVec.allOnes 56 })]
        next := [(0, a), (1, b)]
        curTx := cur })]
      txReq := [(0, BitVec.ofNat 128 (0x300 + t.toNat * 2 ^ 64))]
      txQueue := [0] } }

/-- Frame A takes 0x9000 of slot 0; B, at the slot's expiry, takes 1 of slot 1. -/
theorem test_txtake_example :
    after (.txtake 0) (takes 999999999 .live .ready 0x9000 1 false) (fun t => ((fget 0 t.store.txRes 0).toNat % 2 ^ 65)) = some 0x9000 ∧
    after (.txtake 0) (takes 1000000000 .live .ready 0x9000 1 false) (fun t => ((fget 0 t.store.txRes 0).toNat % 2 ^ 65,
      (slotAt t 0x300 0).state, (slotAt t 0x300 1).state)) = some (2 ^ 64 + 1, .spent, .live) := by decide +kernel

/-- Receive slot 2 of context 0 with W 64, H and the window bits given (R69). -/
def window (h : DWord) (bits : BitVec 1024) : State :=
  { opened with store := {
      ctxs := [(0, {
        blk0 := 64 * 2 ^ 16
        slots := [(2, { state := .live, limit := BitVec.allOnes 56 })]
        high := [(2, h)]
        win := [(2, { wok := true })] })]
      windows := [(0, bits)] } }

/-- The example of R70: 1,000 seen, 937 accepted, 936 refused, 1,001 slides; then 937 is below the window. -/
theorem test_replay_example :
    (kcFinal (window 1000 (BitVec.ofNat 1024 (2 ^ 1000))) 0 2 false 1000).1 = false ∧
    (kcFinal (window 1000 (BitVec.ofNat 1024 (2 ^ 1000))) 0 2 false 937).1 = true ∧
    (kcFinal (window 1000 (BitVec.ofNat 1024 (2 ^ 1000))) 0 2 false 936).1 = false ∧
    fget 0 (ctxAt (kcFinal (window 1000 (BitVec.ofNat 1024 (2 ^ 1000))) 0 2 false 1001).2 0).high 2 = 1001 ∧
    (kcFinal (window 1001 0) 0 2 false 937).1 = false := by decide +kernel

/-- The example of R355: a transmit lane of LINE0 at 1×800G shorts, and LINE0:0 goes down with its lane's TXFAULT set. -/
theorem test_short_example : after (.transmitShort 2 5) { part broad with ports := [(2, { link := 1, signal := 0xFF })] }
    (fun t => ((portAt t 2).txfault, subUp t 16)) = some (0x20, false) := by decide

/-! ### Witnesses: what has run out, is locked, or has failed before a command comes -/

/-- Vent 8 has not acknowledged the marker of a migration that reached its palette 50 µs ago. -/
theorem test_witness_lateMarker : let s : State := { moving [8] [] with timebase := 50000 }
    s.easel.migs.any (ackLate s 8) = true ∧ (moving [8] []).easel.migs.any (ackLate (moving [8] []) 8) = false ∧
    (marksLate s 8).easel.err.getLsbD 0 = true := by decide
theorem test_witness_wdog_out : let e : VentEvt := { wdog := 1, wdDue := 10 }
    let s : State := { part { broad with evt := e } with timebase := 10 }
    wdExpires s 0 = true ∧ wdExpires { s with timebase := 9 } 0 = false := by decide
theorem test_witness_domainDue : let s := powered .gating busy
    domainDue s 0 = true ∧ (List.range 11).all (fun d => !domainDue s (d + 1)) = true ∧
    (List.range 12).all (fun d => !domainDue (domainStop s 0) d) = true ∧
    (List.range 12).all (fun d => !domainDue (part busy) d) = true := by decide
theorem test_witness_loop_fetch : let s := part { broad with r := [] }
    fetchBlocked (s.found 0 (enc .loop)) 0 0x0010_0100 (bundleLen (s.found 0 (enc .loop)) 0 8 0x0010_0100 0) = false := by decide
/-- A vent whose table has an uncorrectable word at cause 6. -/
theorem test_witness_handler_unread : let s : State := { part broad with hbm := { badWords := [(palBase 0 + 24) / 4] } }
    ventMcact (ventAt s 0) = false ∧ ventLoc (ventAt s 0) 0 (4 * 6) = .pal 24 ∧ badIn s (palBase 0 + 24) 4 = true ∧
    ventLoc (ventAt s 0) 0 (4 * 49) = .pal 196 ∧ badIn s (palBase 0 + 196) 4 = false := by decide
/-- R238, R246: the handler of the machine check alone is then under way. -/
theorem test_handler_unread : (ventAt (ventEnter { part broad with hbm := { badWords := [(palBase 0 + 24) / 4] } } 0
    { cause := 6, lvl := 0 }) 0).fl.handlers = [49] := by decide

/-- PREF by a circular buffer that is none. -/
def prefNowhere : OpEnc := op .pref (2 + 4096 * 2) (some 0x5001)

theorem test_witness_pref_nowhere : issues (part broad) 0 .pref prefNowhere = true ∧ opA .pref prefNowhere = .spec 0x5001 ∧
    (specAddr ((part broad).fresh 0 prefNowhere) 0x5001 4 4 4).2.2 ≠ [] := by decide
theorem test_witness_operand_error : let s : State := { part (a5 0x0010_2000) with hbm := { badWords := [(calBase 0 + 0x2020) / 4] } }
    let held : State := { part { a5 0x0010_2000 with fl := { sbuf := [{
      block := calBase 0 + 0x2000
      bytes := (List.range 4).map (fun i => (calBase 0 + 0x2020 + i, 1)) }] } } with hbm := s.hbm }
    (oneOperand (s.ctx 0 (enc .ld)) 0x0010_2020 4).map (fun f => (f.cause, f.faddr)) = [(49, 0x0010_2020)] ∧
    (loadBuffer (held.ctx 0 (enc .ld)) [{ va := 0x0010_2020, len := 4 }]).1.isSome = true := by decide
theorem test_witness_vector_device : let c := (part (vectorAt 0x8FF0_0000)).ctx 0 (enc .vld)
    let m := vmemOf c .vld (enc .vld)
    m.imm = none ∧ 0 ∈ m.act ∧ reachesDev c m = true ∧ (vmemFaults c m 0).map (fun f => f.cause) = [6] := by decide

theorem portLoad_idle (s : State) (p : Nat) (h : ∀ x < 97, (ventAt s x).fl.far = [] ∧ (ventAt s x).fl.farWrites = []) :
    portLoad s p = 0 := by
  unfold portLoad
  apply sum_zeros
  intro n hn
  obtain ⟨x, hx, rfl⟩ := List.mem_map.mp hn
  have := h x (List.mem_range.mp hx)
  simp [this.1, this.2]
theorem test_witness_dma_port : ∀ p, portLoad (part broad) p < 64 := by
  intro p
  rw [portLoad_idle _ _ (by decide)]
  decide
theorem test_witness_dma_locked : let s : State := { channelled { desc := 0x10_0000_0000 } with
      mx := { dma := [(192, { desc := 0x10_0000_0000 })], locks := [{ target := 33 }] } }
    dmaHeld s 192 0x10_0000_0000 = true ∧ dmaDue s = [] ∧ s.mx.waiting = [] := by decide
theorem test_witness_spanLocked : spanLocked .mv 0x10_0000_0000 24576 opened = false ∧ matLocked .mv (calBase 0) opened = false ∧
    spanLocked .mv 0x10_0000_0000 24576 { opened with mx := { locks := [{ target := 33 }] } } = true ∧
    matLocked .mv (calBase 0) { opened with mx := { locks := [{ target := 0 }] } } = true := by decide

/-- A lock 212 ns old, and one of 213 ns (`ringed`'s is older). -/
theorem test_witness_lock_time : let l : Lock := { target := 24, addr := 0x0100_0000, bytes := zeros 8 }
    lockOver { ringed with timebase := 212 } l = false ∧ lockOver { ringed with timebase := 213 } l = true := by decide
theorem test_witness_lane_back : let x : Port := { losPend := 1 }
    let s : State := { part broad with timebase := 100000000, ports := [(0, x)] }
    (portAt s 0).los.getLsbD 0 = false ∧ (portAt s 0).losPend.getLsbD 0 = true ∧
    fget 0 (portAt s 0).losTick 0 + 100000000 ≤ s.timebase := by decide
/-- Channel 0 has its first profile, CONSTANT, in set 0, and the epoch flips to that set. -/
theorem test_witness_first_profile : let s : State := { opened with sets := { epoch := true, pending := true, set0 := { gprof := [(0, 1)] } } }
    0 ∈ knownChans s ∧ chanFrames s 0 0 = [] ∧ (fget {} s.glaze.chans 0 : Channel).running = false ∧
    (fget {} s.glaze.chans 0 : Channel).turn = none ∧ pMode (gprofOf s (!s.sets.epoch) 0 0) = 1 := by decide +kernel
theorem test_witness_channel_leaves : let c : Channel := { openSlot with epoch := true, slotEp := false }
    let s : State := { glazed c 0 [] with sets := { epoch := true, set1 := { gprof := [(0, 2)] } } }
    (fget {} s.glaze.chans 0 : Channel).epoch = s.sets.epoch ∧ (fget {} s.glaze.chans 0 : Channel).running = true ∧
    pMode (gprofOf s s.sets.epoch 0 0) = 2 := by decide +kernel

end Sys2Proof.Tests
end

section
/-! PROOFS. Register accesses (O30): BAR0, the matrix, the debug access port and single registers. -/

namespace Sys2Proof.Machine

/-! ### Words as bytes -/

theorem length_leBytes (n x : Nat) : (leBytes n x).length = n := by
  induction n generalizing x with
  | zero => rfl
  | succ n ih => simp [leBytes, ih]

theorem leNat_leBytes (n x : Nat) : leNat (leBytes n x) = x % 256 ^ n := by
  induction n generalizing x with
  | zero => simp [leBytes, leNat, Nat.mod_one]
  | succ n ih =>
    have hp : 256 ^ (n + 1) = 256 * 256 ^ n := Nat.pow_succ'
    rw [leBytes, leNat, ih, BitVec.toNat_ofNat, hp, Nat.mod_mul]

theorem ofNat_leNat_word (w : Word) : BitVec.ofNat 32 (leNat (leBytes 4 w.toNat)) = w := by
  rw [leNat_leBytes, show (256 : Nat) ^ 4 = 2 ^ 32 from rfl, Nat.mod_eq_of_lt w.isLt, BitVec.ofNat_toNat, BitVec.setWidth_eq]

theorem slice_append_right (a b : List Byte) (i n : Nat) : slice (a ++ b) (a.length + i) n = slice b i n := by
  simp [slice, List.drop_append, List.drop_eq_nil_of_le]

theorem slice_append_left (a b : List Byte) : slice (a ++ b) 0 a.length = a := by
  simp [slice]

theorem slice_word (x : Nat) : slice (leBytes 4 x) 0 4 = leBytes 4 x := by
  simpa [length_leBytes] using slice_append_left (leBytes 4 x) []

/-- Word i of the bytes of a list of words. -/
theorem slice_words (ws : List Word) (i : Nat) (hi : i < ws.length) :
    slice (ws.flatMap (fun w => leBytes 4 w.toNat)) (4 * i) 4 = leBytes 4 (ws.getD i 0).toNat := by
  induction ws generalizing i with
  | nil => simp at hi
  | cons w r ih =>
    have hl := length_leBytes 4 w.toNat
    rw [List.flatMap_cons]
    cases i with
    | zero => simpa [hl] using slice_append_left (leBytes 4 w.toNat) (r.flatMap (fun w => leBytes 4 w.toNat))
    | succ k =>
      have h := slice_append_right (leBytes 4 w.toNat) (r.flatMap (fun w => leBytes 4 w.toNat)) (4 * k) 4
      rw [hl] at h
      rw [show 4 * (k + 1) = 4 + 4 * k by omega, h, ih k (by simpa using hi), List.getD_cons_succ]

theorem length_words (ws : List Word) : (ws.flatMap (fun w => leBytes 4 w.toNat)).length = 4 * ws.length := by
  induction ws with
  | nil => rfl
  | cons w r ih => rw [List.flatMap_cons, List.length_append, length_leBytes, ih, List.length_cons]; omega

/-- Two folds whose steps agree on the members of the list. -/
theorem foldl_congr_mem {α β : Type} (f g : β → α → β) (l : List α) (h : ∀ x, ∀ a ∈ l, f x a = g x a) (x : β) :
    l.foldl f x = l.foldl g x := by
  induction l generalizing x with
  | nil => rfl
  | cons a r ih =>
    rw [List.foldl_cons, List.foldl_cons, h x a (List.mem_cons_self ..), ih (fun y b hb => h y b (List.mem_cons_of_mem _ hb))]

/-! ### ERR_STAT -/

theorem errStat_unmapped (s : State) :
    errStat s 0 = { s with glob := { s.glob with errStat := s.glob.errStat ||| 1 } } := rfl

theorem errStat_narrow (s : State) :
    errStat s 1 = { s with glob := { s.glob with errStat := s.glob.errStat ||| 2 } } := rfl

theorem errStat_narrow_unmapped (s : State) :
    errStat (errStat s 1) 0 = { s with glob := { s.glob with errStat := s.glob.errStat ||| 3 } } := by
  have h : s.glob.errStat ||| 2 ||| 1 = s.glob.errStat ||| 3 := BitVec.or_assoc _ _ _
  simp only [errStat_unmapped, errStat_narrow, h]

/-! ### BAR0 -/

/-- R257, R283: whole aligned words written to BAR0, in ascending order. -/
theorem barWrite_words (s : State) (f o : Nat) (ws : List Word) (ho : o % 4 = 0) :
    barWrite s f o (ws.flatMap (fun w => leBytes 4 w.toNat)) =
      (List.range ws.length).foldl (fun t i => barWordWrite f t (o + 4 * i) (ws.getD i 0)) s := by
  have hlo : (o + 3) / 4 * 4 = o := by omega
  have hk : (o + 4 * ws.length) / 4 - o / 4 = ws.length := by omega
  unfold barWrite
  simp only [length_words]
  rw [if_neg (by omega), hlo, if_pos (by omega), if_pos ho, hk]
  refine foldl_congr_mem _ _ _ (fun t i hi => ?_) s
  rw [Nat.sub_self, Nat.zero_add, slice_words ws i (List.mem_range.mp hi), ofNat_leNat_word]

theorem barWrite_word (s : State) (f o : Nat) (w : Word) (ho : o % 4 = 0) :
    barWrite s f o (leBytes 4 w.toNat) = barWordWrite f s o w := by
  simpa using barWrite_words s f o [w] ho

/-- R7: the words that some of n bytes touch. -/
theorem barNarrow_eq (s : State) (f o n : Nat) (hn : 0 < n) : barNarrow s f o n =
    if ∀ i < n, barMapped s f ((o + i) / 4 * 4) = true then errStat s 1 else errStat (errStat s 1) 0 := by
  have hall : ((List.range ((o + n + 3) / 4 - o / 4)).map (fun i => o / 4 * 4 + 4 * i)).all (fun o => barMapped s f o) = true ↔
      ∀ i < n, barMapped s f ((o + i) / 4 * 4) = true := by
    simp only [List.all_map, List.all_eq_true, List.mem_range, Function.comp_apply]
    constructor
    · intro h i hi
      have hw := h ((o + i) / 4 - o / 4) (by omega)
      rwa [show o / 4 * 4 + 4 * ((o + i) / 4 - o / 4) = (o + i) / 4 * 4 by omega] at hw
    · intro h j hj
      have hb := h (o / 4 * 4 + 4 * j - o) (by omega)
      rwa [show (o + (o / 4 * 4 + 4 * j - o)) / 4 * 4 = o / 4 * 4 + 4 * j by omega] at hb
  simp only [barNarrow, hall]

/-- R257: a write of BAR0 of at most 8 bytes that is not whole aligned words. -/
theorem barWrite_narrow (s : State) (f o : Nat) (bs : List Byte) (hlen : bs.length ≤ 8) (hal : o % 4 ≠ 0 ∨ bs.length % 4 ≠ 0) :
    barWrite s f o bs = barNarrow s f o bs.length := if_pos ⟨hlen, hal⟩

theorem barRead_word (s : State) (f o : Nat) (ho : o % 4 = 0) :
    barRead s f o 4 = { (barWordRead f s o).2 with hb := { (barWordRead f s o).2.hb with
      cpl := .ok (leBytes 4 (barWordRead f s o).1) } } := by
  have hn : (o + 4 + 3) / 4 - o / 4 = 1 := by omega
  have hlo : o / 4 * 4 = o := by omega
  simp only [barRead, hn, hlo, ho, barReadWords, List.append_nil, slice_word]

/-- R282: the registers of ring r in a VF's BAR0. -/
theorem vfLoc_ring (r i : Nat) (hr : r < 4096) (hi : i < 4) : vfLoc (16 * r + 4 * i) = .ring r i := by
  rw [vfLoc, if_pos (by omega), show (16 * r + 4 * i) / 16 = r by omega, show (16 * r + 4 * i) % 16 / 4 = i by omega]

/-- Ring r is not a ring of function f (R282). -/
def NotOwner (s : State) (f r : Nat) : Prop := ∀ x, ringAt s r = some x → x.func ≠ f

theorem vfWordRead_notOwner (s : State) (f r i : Nat) (hr : r < 4096) (hi : i < 4) (h : NotOwner s f r) :
    vfWordRead s f (16 * r + 4 * i) = (0, s) := by
  simp only [vfWordRead, vfLoc_ring r i hr hi]
  cases hx : ringAt s r with
  | none => rfl
  | some x => simp only [if_neg (h x hx)]

theorem vfWordRead_owner (s : State) (f r i : Nat) (x : Ring) (hr : r < 4096) (hi : i < 4) (hx : ringAt s r = some x)
    (hf : x.func = f) : vfWordRead s f (16 * r + 4 * i) = (ringRegs s r i, s) := by
  simp only [vfWordRead, vfLoc_ring r i hr hi, hx, if_pos hf]

theorem vfWordWrite_notOwner (s : State) (f r i : Nat) (w : Word) (hr : r < 4096) (hi : i < 4) (h : NotOwner s f r) :
    vfWordWrite s f (16 * r + 4 * i) w = s := by
  simp only [vfWordWrite, vfLoc_ring r i hr hi]
  cases hx : ringAt s r with
  | none => rfl
  | some x => exact if_neg (fun hc => h x hx hc.1)

/-- The matrix address that a PF BAR0 offset below 0x2000000 reaches (R256). -/
def bar0At (o : Nat) : Nat := if o < 0x1000000 then 0x80000000 + o else 0x8F000000 + o

theorem bar0Addr_eq (o : Nat) : bar0Addr o = if 0x2000000 ≤ o then none else some (bar0At o) := by
  unfold bar0Addr bar0At
  by_cases h1 : o < 0x1000000
  · rw [if_pos h1, if_neg (by omega), if_pos h1]
  · by_cases h2 : o < 0x2000000
    · rw [if_neg h1, if_pos h2, if_neg (by omega), if_neg h1,
        show 0x90000000 + (o - 0x1000000) = 0x8F000000 + o by omega]
    · rw [if_neg h1, if_neg h2, if_pos (by omega)]

theorem pfWordWrite_eq (s : State) (o : Nat) (w : Word) :
    let r := regWrite (.host 0) (bar0At o) w s
    pfWordWrite s o w = if 0x2000000 ≤ o then errStat s 0 else if r.1 = .okay then r.2 else hbErr r.2 6 := by
  unfold pfWordWrite
  rw [bar0Addr_eq]
  by_cases h : 0x2000000 ≤ o
  · simp only [if_pos h]
  · simp only [if_neg h]

theorem pfWordRead_eq (s : State) (o : Nat) :
    let r := regRead (.host 0) (bar0At o) s
    pfWordRead s o = if 0x2000000 ≤ o then (0, errStat s 0) else if r.1 = .okay then r.2 else (0, hbErr r.2.2 6) := by
  unfold pfWordRead
  rw [bar0Addr_eq]
  by_cases h : 0x2000000 ≤ o
  · simp only [if_pos h]
  · simp only [if_neg h]

theorem barMapped_pf (s : State) (o : Nat) :
    barMapped s 0 o = true ↔ o < 0x2000000 ∧ regLoc s (bar0At o) ≠ .unmapped := by
  unfold barMapped
  rw [if_pos rfl, bar0Addr_eq]
  by_cases h : 0x2000000 ≤ o
  · simp only [if_pos h, Bool.false_eq_true, false_iff, not_and]
    exact fun hlt => absurd h (Nat.not_le_of_lt hlt)
  · simp only [if_neg h, bne_iff_ne, ne_eq, Nat.lt_of_not_le h, true_and]

/-! ### Registers through the matrix -/

theorem matLoc_dev (m : Master) (a : Nat) (s : State) (hlo : 0x80000000 ≤ a) (hhi : a < 0xA0000000) : matLoc m a s = .reg := by
  simp only [matLoc]
  rw [if_neg (by omega), if_neg (by omega), if_neg (by omega), if_neg (by omega), if_neg (by omega), if_neg (by omega),
    if_pos (by simp [isDevAddr]; omega)]

/-- The four bytes of an aligned word are written as that word (R257). -/
theorem regWriteBytes_four (m : Master) (a : Nat) (s : State) (b0 b1 b2 b3 : Byte) (ha : a % 4 = 0) :
    regWriteBytes m [(a, b0), (a + 1, b1), (a + 2, b2), (a + 3, b3)] s =
      regWrite m a (BitVec.ofNat 32 (leNat [b0, b1, b2, b3])) s := by
  have hws : wordsOf [(a, b0), (a + 1, b1), (a + 2, b2), (a + 3, b3)] = [a] := by
    have h0 : a / 4 * 4 = a := by omega
    have h1 : (a + 1) / 4 * 4 = a := by omega
    have h2 : (a + 2) / 4 * 4 = a := by omega
    have h3 : (a + 3) / 4 * 4 = a := by omega
    simp [wordsOf, h0, h1, h2, h3, List.eraseDups_cons]
  simp [regWriteBytes, hws, List.range_succ, ffind]

/-- A word written to the register space through the matrix, with the DMA channels that it starts (R257, R271). -/
theorem matWrite_word (m : Master) (a : Nat) (w : Word) (s : State) (hlo : 0x80000000 ≤ a) (hhi : a < 0xA0000000) (ha : a % 4 = 0) :
    matWrite m (addrBytes a (leBytes 4 w.toNat)) s = ((regWrite m a w s).1, dmaSettle (regWrite m a w s).2) := by
  have hw := ofNat_leNat_word w
  have hb : addrBytes a (leBytes 4 w.toNat) = [(a, BitVec.ofNat 8 w.toNat), (a + 1, BitVec.ofNat 8 (w.toNat / 256)),
      (a + 2, BitVec.ofNat 8 (w.toNat / 256 / 256)), (a + 3, BitVec.ofNat 8 (w.toNat / 256 / 256 / 256))] := rfl
  simp only [matWrite, matWrite0, hb, matLoc_dev m a s hlo hhi, regWriteBytes_four m a s _ _ _ _ ha]
  rw [show BitVec.ofNat 32 (leNat [_, _, _, _]) = w from hw]

/-- One byte written to the register space through the matrix (R7, R257). -/
theorem matWrite_byte (m : Master) (a : Nat) (b : Byte) (s : State) (hlo : 0x80000000 ≤ a) (hhi : a < 0xA0000000) :
    matWrite m [(a, b)] s =
      (.okay, dmaSettle (if regLoc s (a / 4 * 4) = .unmapped then errStat (errStat s 1) 0 else errStat s 1)) := by
  have hmiss : (List.range 4).all (fun i => (ffind [(a, b)] (a / 4 * 4 + i)).isSome) = false := by
    rw [List.all_eq_false]
    by_cases h : a % 4 = 0
    · exact ⟨1, by simp, by simp [ffind]; omega⟩
    · exact ⟨0, by simp, by simp [ffind]; omega⟩
  simp [matWrite, matWrite0, matLoc_dev m a s hlo hhi, regWriteBytes, wordsOf, List.eraseDups_cons, hmiss]

/-- A word of the register space read through the matrix: zero where the answer is not OKAY (R257, R262). -/
theorem matRead_word (m : Master) (a : Nat) (s : State) (hlo : 0x80000000 ≤ a) (hhi : a < 0xA0000000) (ha : a % 4 = 0) :
    let y := regRead m a s
    matRead m a 4 s = (y.1, if y.1 = .okay then leBytes 4 y.2.1 else leBytes 4 0, y.2.2) := by
  have hn : (a + 4 + 3) / 4 - a / 4 = 1 := by omega
  have hal : a / 4 * 4 = a := by omega
  have hc : ∀ c : RespCode, (if c = .okay then .okay else c) = c := fun c => by split <;> simp [*]
  simp only [matRead, matRead0, matLoc_dev m a s hlo hhi, regReadBytes, hn, hal, regReadWords, hc, Nat.sub_self, List.append_nil,
    slice_word]
  rfl

/-! ### The command -/

theorem isDevAddr_of (a : Nat) (hlo : 0x80000000 ≤ a) (hhi : a < 0xA0000000) : isDevAddr a = true := by
  simp [isDevAddr, hlo, hhi]

theorem exec_registerWrite (s : State) (m : Master) (a : Nat) (acc : HostAccess) :
    exec (.registerWrite m a acc) s = .next (registerAccess s m a acc) := rfl

theorem exec_hostWrite (s : State) (f o : Nat) (bs : List Byte) (h : masterReady s (.host f) = true) :
    exec (.registerWrite (.host f) o (.write bs)) s = .next (dmaSettle (barWrite s f o bs)) := by
  rw [exec_registerWrite]
  simp only [registerAccess, h, Bool.not_true, Bool.false_eq_true, if_false]

/-- R283: a word of BAR0 is read, and the host's completion carries it. -/
theorem exec_hostReadWord (s t : State) (f o x : Nat) (h : masterReady s (.host f) = true) (ho : o % 4 = 0)
    (hx : barWordRead f s o = (x, t)) :
    exec (.registerWrite (.host f) o (.read 4)) s = .next { t with hb := { t.hb with cpl := .ok (leBytes 4 x) } } := by
  rw [exec_registerWrite]
  simp only [registerAccess, h, Bool.not_true, Bool.false_eq_true, if_false, barRead_word s f o ho, hx]

theorem exec_devWrite (s : State) (m : Master) (a : Nat) (bs : List Byte) (h : masterReady s m = true) (hh : ∀ f, m ≠ .host f)
    (hj : m ≠ .jtag) (hlo : 0x80000000 ≤ a) (hhi : a < 0xA0000000) :
    exec (.registerWrite m a (.write bs)) s = .next (matWrite m (addrBytes a bs) s).2 := by
  rw [exec_registerWrite]
  cases m with
  | host f => exact absurd rfl (hh f)
  | jtag => exact absurd rfl hj
  | _ => simp only [registerAccess, h, Bool.not_true, Bool.false_eq_true, if_false, isDevAddr_of a hlo hhi, if_true, matPut]

theorem exec_dap (s : State) (a : Nat) (acc : HostAccess) (h : masterReady s .jtag = true) (hlo : 0x80000000 ≤ a)
    (hhi : a < 0xA0000000) : exec (.registerWrite .jtag a acc) s = .next (dapAccess s a acc) := by
  rw [exec_registerWrite]
  simp only [registerAccess, h, Bool.not_true, Bool.false_eq_true, if_false, isDevAddr_of a hlo hhi, if_true]

/-- R264: an access of the register space waits for no lock but one on port 45, the number of the targets without locks. -/
theorem matLocked_reg (s : State) (m : Master) (a : Nat) (hlo : 0x80000000 ≤ a) (hhi : a < 0xA0000000)
    (hl : ∀ l ∈ s.mx.locks, l.target = 45 → l.ended = true) : matLocked m a s = false := by
  have hany : s.mx.locks.any (fun l => !l.ended && l.target == 45) = false := by
    rw [List.any_eq_false]
    intro l hm
    simp only [Bool.and_eq_true, Bool.not_eq_true', beq_iff_eq, not_and]
    intro he ht
    exact absurd (hl l hm ht) (ne_true_of_eq_false he)
  simp only [matLocked, matLoc_dev m a s hlo hhi, targetPort, hany, Bool.and_false]

theorem matLoc_cal_lt (m : Master) (a : Nat) (s : State) (c o : Nat) (h : matLoc m a s = .cal c o) : c < 12 := by
  by_cases hr : 0x10000000 ≤ a ∧ a < 0x1C000000
  · rw [matLoc, if_neg (by omega), if_neg (by omega), if_pos hr, MLoc.cal.injEq] at h
    omega
  · simp only [matLoc, if_neg hr] at h
    repeat' split at h
    all_goals cases h

/-- R264: the port that an AtomicOp locks is one of those that have locks. -/
theorem targetPort_of_atomRegion (m : Master) (a : Nat) (s : State) (h : atomRegion (matLoc m a s) = true) :
    targetPort s (matLoc m a s) < 45 := by
  cases hl : matLoc m a s with
  | cal c o =>
    have hc := matLoc_cal_lt m a s c o hl
    simp only [targetPort]
    omega
  | hbm o =>
    have hs : o / 4096 % nStacks s < 4 := by
      unfold nStacks
      split <;> omega
    simp only [targetPort, hbmStack]
    omega
  | mv o => simp [targetPort]
  | pb o =>
    simp only [targetPort]
    omega
  | _ => simp [hl, atomRegion] at h

/-- R351: the debug access port writes a word, and keeps the answer. -/
theorem dapAccess_writeWord (s : State) (a : Nat) (w : Word) (hlo : 0x80000000 ≤ a) (hhi : a < 0xA0000000) (ha : a % 4 = 0)
    (hl : matLocked .jtag a s = false) :
    let x := regWrite .jtag a w s
    let t := dmaSettle x.2
    dapAccess s a (.write (leBytes 4 w.toNat)) = { t with jtag := { t.jtag with dapCode := x.1 } } := by
  simp only [dapAccess, hl, Bool.false_eq_true, if_false, matWrite_word .jtag a w s hlo hhi ha]

/-- R351: the debug access port reads a word, and keeps it. -/
theorem dapAccess_readWord (s : State) (a : Nat) (hlo : 0x80000000 ≤ a) (hhi : a < 0xA0000000) (ha : a % 4 = 0)
    (hl : matLocked .jtag a s = false) :
    let y := regRead .jtag a s
    dapAccess s a (.read 4) = { y.2.2 with jtag := { y.2.2.jtag with
      dapData := if y.1 = .okay then leBytes 4 y.2.1 else leBytes 4 0
      dapCode := y.1 } } := by
  simp only [dapAccess, hl, Bool.false_eq_true, if_false, matRead_word .jtag a s hlo hhi ha]

/-! ### Words that nothing maps, silent blocks, and single registers -/

/-- R256: the addresses outside the blocks. -/
theorem regLoc_unmapped (s : State) (a : Nat)
    (h : a < 0x80000000 ∨ 0x80D00000 ≤ a ∧ a < 0x90000000 ∨ 0x90C00000 ≤ a) : regLoc s a = .unmapped := by
  unfold regLoc
  rw [if_neg (by omega), if_neg (by omega)]

/-- R322: before PRIMED only GLOBAL and HB respond. -/
theorem regLoc_silent (s : State) (a : Nat) (hp : s.glob.phase ≠ .primed)
    (h : 0x80200000 ≤ a ∧ a < 0x80D00000 ∨ 0x90000000 ≤ a ∧ a < 0x90C00000) : regLoc s a = .silent := by
  unfold regLoc
  rcases h with ⟨hlo, hhi⟩ | ⟨hlo, hhi⟩
  · have hb : 1 < (a - 0x80000000) / 0x100000 := by omega
    rw [if_pos (by omega)]
    simp [hp, hb]
  · rw [if_neg (by omega), if_pos (by omega)]
    simp [hp]

/-- GLOBAL and HB respond in every phase (R322). -/
theorem regLoc_early (s : State) (b o : Nat) (hb : b < 2) (ho : o < 0x100000) :
    regLoc s (0x80000000 + 0x100000 * b + o) = .block b o := by
  have hq : (0x80000000 + 0x100000 * b + o - 0x80000000) / 0x100000 = b := by omega
  have hm : (0x80000000 + 0x100000 * b + o) % 0x100000 = o := by omega
  unfold regLoc
  rw [if_pos (by omega), hq, hm]
  simp [Nat.not_lt.mpr (Nat.le_of_lt_succ hb), show b ≠ 5 by omega]

/-- The blocks but GLAZE respond once the part is primed (R2, R256). -/
theorem regLoc_primed (s : State) (b o : Nat) (hp : s.glob.phase = .primed) (hb : b < 13) (h5 : b ≠ 5) (ho : o < 0x100000) :
    regLoc s (0x80000000 + 0x100000 * b + o) = .block b o := by
  have hq : (0x80000000 + 0x100000 * b + o - 0x80000000) / 0x100000 = b := by omega
  have hm : (0x80000000 + 0x100000 * b + o) % 0x100000 = o := by omega
  unfold regLoc
  rw [if_pos (by omega), hq, hm]
  simp [hp, h5]

theorem regWrite_unmapped (m : Master) (a : Nat) (w : Word) (s : State) (h : regLoc s a = .unmapped) :
    regWrite m a w s = (.okay, errStat s 0) := by simp only [regWrite, h]

theorem regRead_unmapped (m : Master) (a : Nat) (s : State) (h : regLoc s a = .unmapped) :
    regRead m a s = (.okay, 0, errStat s 0) := by simp only [regRead, h]

theorem regWrite_silent (m : Master) (a : Nat) (w : Word) (s : State) (h : regLoc s a = .silent) :
    regWrite m a w s = (.okay, s) := by simp only [regWrite, h]

theorem regRead_silent (m : Master) (a : Nat) (s : State) (h : regLoc s a = .silent) :
    regRead m a s = (.okay, 0, s) := by simp only [regRead, h]

theorem regWrite_block (m : Master) (a : Nat) (w : Word) (s : State) {b o : Nat} (h : regLoc s a = .block b o) (h9 : b ≠ 9) :
    regWrite m a w s = (.okay, blockWrite s m b o w) := by simp [regWrite, h, h9]

theorem regRead_block (m : Master) (a : Nat) (s : State) {b o : Nat} (h : regLoc s a = .block b o) (h9 : b ≠ 9) :
    regRead m a s = (.okay, readLatched s a (blockRead s b o)) := by simp [regRead, h, h9]

/-! ### The statement at one state -/

/-- What O30 says of one state and one word: the body of its statement (`registerWrites_iff`). -/
def RegisterWritesAt (s : State) (w : Word) : Prop :=
  let word := leBytes 4 w.toNat
  let stat := fun (b : BitVec 3) (t : State) => ({ t with glob := { t.glob with errStat := t.glob.errStat ||| b } } : State)
  let at_ := fun (o : Nat) => if o < 0x1000000 then 0x80000000 + o else 0x8F000000 + o
  let refused := fun (t : State) => ({ t with hb := { t.hb with err := t.hb.err ||| 64 } } : State)
  let put := fun (o : Nat) (w : Word) (t : State) =>
    let r := regWrite (.host 0) (at_ o) w t
    if 0x2000000 ≤ o then stat 1 t else if r.1 = .okay then r.2 else refused r.2
  (masterReady s (.host 0) = true → ∀ o : Nat,
    (o % 4 = 0 → ∀ ws : List Word, exec (.registerWrite (.host 0) o (.write (ws.flatMap (fun w => leBytes 4 w.toNat)))) s =
      .next (dmaSettle ((List.range ws.length).foldl (fun t i => put (o + 4 * i) (ws.getD i 0) t) s))) ∧
    (∀ bs : List Byte, 0 < bs.length → bs.length ≤ 8 → o % 4 ≠ 0 ∨ bs.length % 4 ≠ 0 →
      let lost := ∃ i < bs.length, 0x2000000 ≤ o + i ∨ regLoc s (at_ ((o + i) / 4 * 4)) = .unmapped
      (lost → exec (.registerWrite (.host 0) o (.write bs)) s = .next (dmaSettle (stat 3 s))) ∧
      (¬lost → exec (.registerWrite (.host 0) o (.write bs)) s = .next (dmaSettle (stat 2 s)))) ∧
    (o % 4 = 0 →
      let reads := fun (x : Nat) (t : State) => exec (.registerWrite (.host 0) o (.read 4)) s = .next { t with
        hb := { t.hb with cpl := .ok (leBytes 4 x) } }
      let r := regRead (.host 0) (at_ o) s
      (0x2000000 ≤ o → reads 0 (stat 1 s)) ∧
      (o < 0x2000000 → r.1 = .okay → reads r.2.1 r.2.2) ∧ (o < 0x2000000 → r.1 ≠ .okay → reads 0 (refused r.2.2)))) ∧
  (∀ f r i : Nat, masterReady s (.host (f + 1)) = true → r < 4096 → i < 4 →
    let reads := fun (x : Nat) => exec (.registerWrite (.host (f + 1)) (16 * r + 4 * i) (.read 4)) s = .next { s with
      hb := { s.hb with cpl := .ok (leBytes 4 x) } }
    ((∀ x, ringAt s r = some x → x.func ≠ f + 1) → reads 0 ∧
      exec (.registerWrite (.host (f + 1)) (16 * r + 4 * i) (.write word)) s = .next (dmaSettle s)) ∧
    (∀ x, ringAt s r = some x → x.func = f + 1 → reads (ringRegs s r i))) ∧
  (∀ (m : Master) (a : Nat), masterReady s m = true → (∀ f, m ≠ .host f) → m ≠ .jtag → 0x80000000 ≤ a → a < 0xA0000000 →
    (a % 4 = 0 → exec (.registerWrite m a (.write word)) s = .next (dmaSettle (regWrite m a w s).2)) ∧
    (∀ b : Byte,
      (regLoc s (a / 4 * 4) = .unmapped → exec (.registerWrite m a (.write [b])) s = .next (dmaSettle (stat 3 s))) ∧
      (regLoc s (a / 4 * 4) ≠ .unmapped → exec (.registerWrite m a (.write [b])) s = .next (dmaSettle (stat 2 s))))) ∧
  (∀ a : Nat, masterReady s .jtag = true → 0x80000000 ≤ a → a < 0xA0000000 → a % 4 = 0 →
    let x := regWrite .jtag a w s
    let y := regRead .jtag a s
    let t := dmaSettle x.2
    exec (.registerWrite .jtag a (.write word)) s = .next { t with jtag := { t.jtag with dapCode := x.1 } } ∧
    exec (.registerWrite .jtag a (.read 4)) s = .next { y.2.2 with jtag := { y.2.2.jtag with
      dapData := if y.1 = .okay then leBytes 4 y.2.1 else leBytes 4 0
      dapCode := y.1 } }) ∧
  (∀ (m : Master) (a : Nat), a % 4 = 0 →
    (a < 0x80000000 ∨ 0x80D00000 ≤ a ∧ a < 0x90000000 ∨ 0x90C00000 ≤ a → regWrite m a w s = (.okay, stat 1 s) ∧ regRead m a s = (.okay, 0, stat 1 s)) ∧
    (s.glob.phase ≠ .primed → 0x80200000 ≤ a ∧ a < 0x80D00000 ∨ 0x90000000 ≤ a ∧ a < 0x90C00000 →
      regWrite m a w s = (.okay, s) ∧ regRead m a s = (.okay, 0, s)) ∧
    regWrite m 0x80000050 w s = (.okay, { s with glob := { s.glob with errStat := s.glob.errStat &&& ~~~(w.truncate 3) } }) ∧
    regWrite m 0x80100004 w s = (.okay, { s with hb := { s.hb with err := s.hb.err &&& ~~~(w.truncate 7) } }) ∧
    (s.glob.phase = .primed →
      (∃ x < 65536, regRead m 0x80C0001C s = (.okay, x, { s with freeCtr := s.freeCtr + 1 })) ∧
      regWrite m 0x80C00004 w s = (.okay, { s with power := { s.power with err := s.power.err &&& ~~~(w.truncate 7) } }) ∧
      regWrite m 0x80C00008 w s = (.okay, { s with power := { s.power with alerten := w.truncate 7 } }) ∧
      regWrite m 0x80700010 w s = (.okay, { s with store := { s.store with err := s.store.err &&& ~~~(w.truncate 7) } })))

theorem registerWrites_iff : Obligations.registerWrites ↔ ∀ s w, RegisterWritesAt s w := Iff.rfl

/-- Where no lock that still holds lies on port 45, the statement is right: the debug access port then waits for nothing. -/
theorem registerWritesAt_of_port45_free (s : State) (w : Word) (hl : ∀ l ∈ s.mx.locks, l.target = 45 → l.ended = true) :
    RegisterWritesAt s w := by
  unfold RegisterWritesAt
  intro word stat at_ refused put
  refine ⟨fun hr o => ⟨fun ho ws => ?_, fun bs hpos hlen hal => ?_, fun ho => ?_⟩, fun f r i hr hrr hi => ?_,
    fun m a hr hh hj hlo hhi => ⟨fun ha => ?_, fun b => ?_⟩, fun a hr hlo hhi ha => ?_, fun m a ha => ?_⟩
  · rw [exec_hostWrite s 0 o _ hr, barWrite_words s 0 o ws ho]
    refine congrArg (fun t => Host.Outcome.next (dmaSettle t)) (foldl_congr_mem _ _ _ (fun t i _ => ?_) s)
    exact pfWordWrite_eq t (o + 4 * i) (ws.getD i 0)
  · have hword : ∀ i, barMapped s 0 ((o + i) / 4 * 4) = true ↔
        ¬(0x2000000 ≤ o + i ∨ regLoc s (at_ ((o + i) / 4 * 4)) = .unmapped) := by
      intro i
      rw [barMapped_pf, not_or]
      exact and_congr (by omega) Iff.rfl
    rw [exec_hostWrite s 0 o _ hr, barWrite_narrow s 0 o bs hlen hal, barNarrow_eq s 0 o _ hpos]
    refine ⟨fun ⟨i, hi, hlost⟩ => ?_, fun hkept => ?_⟩
    · rw [if_neg (fun h => (hword i).mp (h i hi) hlost), errStat_narrow_unmapped]
    · rw [if_pos (fun i hi => (hword i).mpr (fun hlost => hkept ⟨i, hi, hlost⟩))]
      rfl
  · have hread := pfWordRead_eq s o
    refine ⟨fun hge => exec_hostReadWord s _ 0 o _ hr ho ?_, fun hlt hok => exec_hostReadWord s _ 0 o _ hr ho ?_,
      fun hlt hno => exec_hostReadWord s _ 0 o _ hr ho ?_⟩
    · exact hread.trans (if_pos hge)
    · exact hread.trans ((if_neg (by omega)).trans (if_pos hok))
    · exact hread.trans ((if_neg (by omega)).trans (if_neg hno))
  · have ho : (16 * r + 4 * i) % 4 = 0 := by omega
    refine ⟨fun hno => ⟨?_, ?_⟩, fun x hx hf => ?_⟩
    · exact exec_hostReadWord s s (f + 1) _ 0 hr ho (vfWordRead_notOwner s (f + 1) r i hrr hi hno)
    · rw [exec_hostWrite s _ _ _ hr, barWrite_word s _ _ w ho]
      exact congrArg (fun t => Host.Outcome.next (dmaSettle t)) (vfWordWrite_notOwner s (f + 1) r i w hrr hi hno)
    · exact exec_hostReadWord s s (f + 1) _ _ hr ho (vfWordRead_owner s (f + 1) r i x hrr hi hx hf)
  · rw [exec_devWrite s m a _ hr hh hj hlo hhi, matWrite_word m a w s hlo hhi ha]
  · have hx : exec (.registerWrite m a (.write [b])) s = .next (matWrite m [(a, b)] s).2 :=
      exec_devWrite s m a [b] hr hh hj hlo hhi
    rw [hx, matWrite_byte m a b s hlo hhi]
    refine ⟨fun hu => ?_, fun hu => ?_⟩
    · rw [if_pos hu, errStat_narrow_unmapped]
    · rw [if_neg hu]
      rfl
  · have hfree := matLocked_reg s .jtag a hlo hhi hl
    rw [exec_dap s a _ hr hlo hhi, exec_dap s a _ hr hlo hhi]
    exact ⟨congrArg Host.Outcome.next (dapAccess_writeWord s a w hlo hhi ha hfree),
      congrArg Host.Outcome.next (dapAccess_readWord s a hlo hhi ha hfree)⟩
  · refine ⟨fun h => ?_, fun hp h => ?_, ?_, ?_, fun hp => ⟨?_, ?_, ?_, ?_⟩⟩
    · exact ⟨regWrite_unmapped m a w s (regLoc_unmapped s a h), regRead_unmapped m a s (regLoc_unmapped s a h)⟩
    · exact ⟨regWrite_silent m a w s (regLoc_silent s a hp h), regRead_silent m a s (regLoc_silent s a hp h)⟩
    · exact regWrite_block m _ w s (regLoc_early s 0 0x50 (by omega) (by omega)) (by omega)
    · exact regWrite_block m _ w s (regLoc_early s 1 0x04 (by omega) (by omega)) (by omega)
    · exact ⟨Config.freeNat s.freeCtr % 2 ^ 16, Nat.mod_lt _ (by omega),
        regRead_block m _ s (regLoc_primed s 12 0x1C hp (by omega) (by omega) (by omega)) (by omega)⟩
    · exact regWrite_block m _ w s (regLoc_primed s 12 0x04 hp (by omega) (by omega) (by omega)) (by omega)
    · exact regWrite_block m _ w s (regLoc_primed s 12 0x08 hp (by omega) (by omega) (by omega)) (by omega)
    · exact regWrite_block m _ w s (regLoc_primed s 7 0x10 hp (by omega) (by omega) (by omega)) (by omega)

/-- A part whose TAP has selected the debug access port, with a lock on port 45. -/
def locked45 : State :=
  { State.reset with
    glob := { phase := .primed }
    jtag := { ir := 0x10 }
    mx := { locks := [{ target := 45 }] } }

theorem exec_dap_locked (s : State) (a : Nat) (acc : HostAccess) (h : masterReady s .jtag = true) (hlo : 0x80000000 ≤ a)
    (hhi : a < 0xA0000000) (hl : matLocked .jtag a s = true) : exec (.registerWrite .jtag a acc) s = .next s := by
  rw [exec_dap s a acc h hlo hhi]
  exact congrArg Host.Outcome.next (if_pos hl)

/-- Refutes O30: with a lock on port 45 the debug access port's read waits (R264) and keeps nothing, where the statement has it
done. Port 45 is the model's number for the targets without locks, and no AtomicOp locks it (`targetPort_of_atomRegion`), so
the state is one that the part does not reach; but the statement is made of every state. Without such a lock it holds
(`registerWritesAt_of_port45_free`). -/
theorem not_registerWrites : ¬ Obligations.registerWrites := by
  intro h
  obtain ⟨-, -, -, hdap, -⟩ := h locked45 0
  obtain ⟨-, hread⟩ := hdap 0x80000000 (by decide) (by decide) (by decide) (by decide)
  have hwaits : exec (.registerWrite .jtag 0x80000000 (.read 4)) locked45 = .next locked45 :=
    exec_dap_locked locked45 0x80000000 (.read 4) (by decide) (by decide) (by decide) (by decide)
  have hdata := congrArg (fun t => t.jtag.dapData.length) (Host.Outcome.next.inj (hwaits.symm.trans hread))
  simp only [apply_ite List.length, length_leBytes, ite_self] at hdata
  exact absurd hdata (by decide)

end Sys2Proof.Machine
end

section
/-! PROOFS. The registers of a vent in its caldera's block, and its reset (O32). -/

namespace Sys2Proof.Machine

/-! ### A word written to a vent's register (R256) -/

theorem nCals_le (s : State) : nCals s ≤ 12 := by
  unfold nCals
  split <;> omega

/-- A register command of a master that reaches the register blocks is the write of the word (R283). -/
theorem regCmd_of_canWrite {s : State} {m : Master} (hw : CanWrite s m) (a : Nat) (w : Word)
    (h : (regWrite m a w s).1 = .okay) : regCmd s m a w = dmaSettle (regWrite m a w s).2 := by
  obtain ⟨hr, hf⟩ := hw
  cases m with
  | host f =>
    obtain rfl := hf f rfl
    simp [regCmd, hr, h]
  | _ => simp [regCmd, hr, regPut]

/-- R256: the register of a vent lies in the block of its caldera. -/
theorem regLoc_ventReg (s : State) (v o : Nat) (hp : s.glob.phase = .primed) (hv : v < 8 * nCals s) (ho : o < 0x1000) :
    regLoc s (ventReg v o) = .cal (v / 8) (v % 8 * 0x1000 + o) := by
  have hn := nCals_le s
  have hc : (ventReg v o - 0x90000000) / 0x100000 = v / 8 := by unfold ventReg; omega
  have hm : ventReg v o % 0x100000 = v % 8 * 0x1000 + o := by unfold ventReg; omega
  have hfit : calFitted s (v / 8) = true := by simp only [calFitted, decide_eq_true_eq]; omega
  unfold regLoc
  rw [if_neg (by unfold ventReg; omega), if_pos (by unfold ventReg; omega), hc, hm]
  simp [hp, hfit]

/-- R75, R277: the registers of a caldera that is on and not sealed answer. -/
theorem calAnswer_on (s : State) (m : Master) (c : Nat) (hon : (calAt s c).power = .on) (hk : s.store.kemSealed ≠ some c) :
    calAnswer s m c = (.okay, true) := by
  simp [calAnswer, hon, hk]

/-- A word of a caldera's block that answers (R256). -/
theorem regWrite_cal (s : State) (m : Master) (a : Nat) (w : Word) {c o : Nat} (hl : regLoc s a = .cal c o)
    (ha : calAnswer s m c = (.okay, true)) (ho : o < 0x8000) :
    regWrite m a w s = ventRegWrite s m (8 * c + o / 0x1000) (o % 0x1000) w := by
  simp [regWrite, hl, ha, ho]

section VentBlock
variable {s : State} {m : Master} {v : Nat} (hw : CanWrite s m) (hp : s.glob.phase = .primed) (hv : v < 8 * nCals s)
  (hon : (calAt s (v / 8)).power = .on) (hk : s.store.kemSealed ≠ some (v / 8))
include hp hv hon hk

/-- A word written to a register of a vent whose caldera answers (R75, R277). -/
theorem regWrite_ventReg (o : Nat) (w : Word) (ho : o < 0x1000) :
    regWrite m (ventReg v o) w s = ventRegWrite s m v o w := by
  rw [regWrite_cal s m _ w (regLoc_ventReg s v o hp hv ho) (calAnswer_on s m _ hon hk) (by omega)]
  congr 1 <;> omega

include hw in
/-- The commands of a vent's registers but for those of its job queue (0x040 to 0x07F). -/
theorem ventCmd_eq (o : Nat) (w : Word) (ho : o < 0x1000) (hj : o < 0x40 ∨ 0x80 ≤ o) :
    ventCmd s m v o w = dmaSettle (ventRegWrite s m v o w).2 := by
  have hn := nCals_le s
  have hr := regWrite_ventReg (m := m) hp hv hon hk o w ho
  have hok : (ventRegWrite s m v o w).1 = .okay := by rw [ventRegWrite, if_neg (by omega)]
  rw [ventCmd, if_pos (by omega), regCmd_of_canWrite hw _ _ (by rw [hr, hok]), hr]

include hw

/-! The commands of a vent's registers, each through the operation that its register has. -/

theorem exec_vinCfg (w : Word) : exec (.vinCfg m v w) s = .next (dmaSettle (vinCfgWrite s v w)) :=
  congrArg Host.Outcome.next (ventCmd_eq hw hp hv hon hk 0x000 w (by omega) (by omega))

theorem exec_vinCons (w : Word) : exec (.vinCons m v w) s = .next (dmaSettle (vinConsWrite s v w)) :=
  congrArg Host.Outcome.next (ventCmd_eq hw hp hv hon hk 0x004 w (by omega) (by omega))

theorem exec_vwdog (w : Word) : exec (.vwdog m v w) s = .next (dmaSettle (vwdogWrite s m v w)) :=
  congrArg Host.Outcome.next (ventCmd_eq hw hp hv hon hk 0x118 w (by omega) (by omega))

theorem exec_vnmiRaise : exec (.vnmiRaise m v) s =
    .next (dmaSettle (updVent s v (fun x => { x with evt := { x.evt with nmiPend := true } }))) :=
  congrArg Host.Outcome.next (ventCmd_eq hw hp hv hon hk 0x11C 1 (by omega) (by omega))

theorem exec_vintSetMsg : exec (.vintSetMsg m v) s = .next (dmaSettle (latchInt s v 19)) :=
  congrArg Host.Outcome.next (ventCmd_eq hw hp hv hon hk 0x108 0x80000 (by omega) (by omega))

theorem exec_vintSetSoft : exec (.vintSetSoft m v) s = .next (dmaSettle (latchInt s v 23)) :=
  congrArg Host.Outcome.next (ventCmd_eq hw hp hv hon hk 0x108 0x800000 (by omega) (by omega))

theorem exec_vctlReset : exec (.vctlReset m v) s = .next (dmaSettle (resetVent s v)) :=
  congrArg Host.Outcome.next (ventCmd_eq hw hp hv hon hk 0x128 1 (by omega) (by omega))

end VentBlock

theorem wbits_low {n : Nat} (w : BitVec n) (hi : Nat) : wbits w hi 0 = w.toNat % 2 ^ (hi + 1) := by
  simp [wbits, nbits]

/-! ### VIN_CFG, VIN_CONS -/

/-- R154: the input ring of a VIN_CFG value fits the palette. -/
abbrev VinFits (c : Word) : Prop :=
  16 ≤ c.toNat / 2 ^ 12 % 2 ^ 11 ∧ c.toNat / 2 ^ 12 % 2 ^ 11 ≤ 1024 ∧
    c.toNat % 2 ^ 12 * 64 + 161 * (c.toNat / 2 ^ 12 % 2 ^ 11) + 16 ≤ 262144

/-- The input ring's registers after VIN_CFG is written with c (R154): a ring that fits opens empty, and while EN is 1 its
BASE and DEPTH stand. -/
def vinAfterCfg (x : VentIn) (c : Word) : VentIn :=
  let bad : VentIn := { x with stat := x.stat ||| 1 }
  if x.cfg.getLsbD 24 = true then (if c.toNat % 2 ^ 23 = x.cfg.toNat % 2 ^ 23 then { x with cfg := c } else bad)
  else if c.getLsbD 24 = true then
    (if VinFits c then { x with
      cfg := c
      prod := 0
      cons := 0
      count := 0 } else bad)
  else { x with cfg := c }

theorem vinCfgWrite_eq (s : State) (v : Nat) (w : Word) :
    vinCfgWrite s v w =
      setVent s v { ventAt s v with inp := vinAfterCfg (ventAt s v).inp (w &&& 0x01FFFFFF) } := by
  generalize hvt : ventAt s v = vt
  generalize hc : (w &&& 0x01FFFFFF : Word) = c
  have hfit : (decide (wbits c 22 12 < 16) || decide (1024 < wbits c 22 12) ||
      decide (262144 < wbits c 11 0 * 64 + 161 * wbits c 22 12 + 16)) = !decide (VinFits c) := by
    have hor : ∀ p q r : Prop, [Decidable p] → [Decidable q] → [Decidable r] →
        (decide p || decide q || decide r) = decide ((p ∨ q) ∨ r) := by simp
    rw [hor, ← decide_not]
    congr 1
    simp only [VinFits, wbits, nbits, Nat.shiftRight_eq_div_pow, Nat.pow_zero, Nat.div_one, eq_iff_iff]
    omega
  simp only [vinCfgWrite, updVent, hvt, hc, wbits_low _ 22, hfit, vinAfterCfg]
  cases hen : vt.inp.cfg.getLsbD 24 with
  | true =>
    simp only [if_true, bne_iff_ne, ne_eq, ite_not, Bool.not_true, Bool.and_false, Bool.false_eq_true, if_false]
    split <;> rfl
  | false => cases hon : c.getLsbD 24 with
    | false => simp only [Bool.false_and, Bool.false_eq_true, if_false]
    | true =>
      simp only [Bool.false_eq_true, if_false, if_true, Bool.true_and, Bool.not_false, Bool.not_eq_true', decide_eq_false_iff_not,
        ite_not]
      split <;> rfl

/-- VIN_CONS written (R156). -/
theorem vinConsWrite_eq (s : State) (v : Nat) (w : Word) :
    let x := (ventAt s v).inp
    vinConsWrite s v w = setVent s v { ventAt s v with inp :=
      if x.cfg.toNat / 2 ^ 12 % 2 ^ 11 < (x.prod - w).toNat then { x with stat := x.stat ||| 2 } else { x with cons := w } } := by
  simp only [vinConsWrite, updVent, wbits, nbits, Nat.shiftRight_eq_div_pow]
  split <;> rfl

/-! ### VWDOG -/

/-- R241: when a vent's watchdog count has run out. -/
theorem wdExpires_iff (s : State) (v : Nat) : wdExpires s v = true ↔
    (ventAt s v).evt.wdog.toNat % 2 ^ 24 ≠ 0 ∧ (ventAt s v).evt.wdDue ≤ s.timebase ∧ ventLocked (ventAt s v) = false := by
  simp [wdExpires, and_assoc]

theorem exec_watchdog (s : State) (v : Nat) (h : wdExpires s v = true) : exec (.watchdog v) s = .next (wdExpire s v) :=
  congrArg Host.Outcome.next (if_pos h)

/-- VWDOG written once the count has run out (R241): the expiry comes first, and a write of a vent that it resets is
absorbed. -/
theorem vwdogWrite_late (s : State) (m : Master) (v : Nat) (w : Word) (h : wdExpires s v = true) :
    vwdogWrite s m v w = if (ventAt s v).evt.wdOnce = true ∧ m = .vent v then wdExpire s v
      else updVent (wdExpire s v) v (fun x => { x with evt := { x.evt with
        wdog := w &&& 0xFFFFFF
        wdDue := s.timebase + BitVec.ofNat 64 (1000 * wbits w 23 0)
        wdOnce := false } }) := by
  simp [vwdogWrite, h]

/-! ### VCTL.RESET -/

/-- R130: the report of a late marker sets EASEL_ERR.MARKLATE. -/
theorem markLate_err (s : State) (v : Nat) (m : Migration) : (markLate s v m).easel.err.getLsbD 0 = true := by
  simp [markLate, easelErr]

theorem marksLate_err (s : State) (v : Nat) (h : ∃ m ∈ s.easel.migs, ackLate s v m = true) :
    (marksLate s v).easel.err.getLsbD 0 = true := by
  obtain ⟨m, hm, hl⟩ := h
  unfold marksLate
  rcases List.eq_nil_or_concat (s.easel.migs.filter (ackLate s v)) with hnil | ⟨l, x, hx⟩
  · exact absurd (List.mem_filter.mpr ⟨hm, hl⟩) (by simp [hnil])
  · rw [hx, List.concat_eq_append, List.foldl_append]
    exact markLate_err _ _ _

/-- R252: what the reset of a vent changes beside the vent itself. -/
theorem ventReset_eq (s : State) (v : Nat) : ventReset s v = { s with
    vents := fset v (ventAt (ventReset s v) v) s.vents
    easel := { s.easel with migs := s.easel.migs.map (fun g => { g with unacked := g.unacked.filter (· != v) }) }
    store := { s.store with picks := s.store.picks.filter (fun x => x.1 != v) } } := by
  have hat : ∀ x, ventAt { ackMarkers (setVent s v x) v with store := { s.store with
      picks := s.store.picks.filter (fun x => x.1 != v) } } v = x := fun x => ventAt_setVent_same s v x
  simp only [ventReset]
  rw [show (ackMarkers (setVent s v _) v).store = s.store from rfl, hat]
  rfl

/-- R252, R123: the vent after its reset. -/
theorem ventAt_ventReset (s : State) (v : Nat) :
    let vt := ventAt s v
    ventAt (ventReset s v) v = {
      held := vt.held
      halted := vt.halted
      single := vt.single
      pc := vt.evt.boot
      inp := vt.inp
      upAt := vt.upAt
      downAt := if vt.held = true ∨ vt.isolating = true then vt.downAt else s.timebase
      isolating := !(vt.fl.far.isEmpty && vt.fl.farWrites.isEmpty)
      evt := { vt.evt with
        excStat := vt.evt.excStat &&& 0xFE
        mcPend := none
        wdPend := false }
      fl := { far := vt.fl.far.map (fun l => { l with absorbed := true }), farWrites := vt.fl.farWrites } } := by
  intro vt
  refine (ventAt_setVent_same s v _).trans ?_
  by_cases hd : vt.held = true ∨ vt.isolating = true
  · simp [ventDown, vt, hd]
  · simp [ventDown, vt, hd]

@[simp] theorem ventAt_marksLate (s : State) (v n : Nat) : ventAt (marksLate s v) n = ventAt s n := by simp [ventAt]

theorem resetVent_eq (s : State) (v : Nat) :
    let told := marksLate s v
    resetVent s v = { told with
      vents := fset v (ventAt (resetVent s v) v) s.vents
      easel := { told.easel with migs := told.easel.migs.map (fun g => { g with unacked := g.unacked.filter (· != v) }) }
      store := { s.store with picks := s.store.picks.filter (fun x => x.1 != v) } } := by
  simpa only [resetVent, marksLate_frame] using ventReset_eq (marksLate s v) v

theorem ventAt_resetVent (s : State) (v : Nat) : ventAt (resetVent s v) v = ventAt (ventReset s v) v := by
  simp only [resetVent, ventAt_ventReset, ventAt_marksLate, marksLate_frame]

/-- Settles O32: each command goes through the operation of its register, and the conditions of the clauses are that
operation's own cases. -/
theorem ventRegisters : Obligations.ventRegisters := by
  intro s m v hw hp hv hon hk vt put inp evt
  refine ⟨fun w => ?_, ?_, ?_, ?_, ?_, ?_, ?_⟩
  · intro c base depth bad fits
    have hcfg : exec (.vinCfg m v w) s = .next (inp (vinAfterCfg vt.inp c)) := by
      rw [exec_vinCfg hw hp hv hon hk, vinCfgWrite_eq]; rfl
    refine ⟨fun hoff hen hf => ?_, fun hoff hen hf => ?_, fun hoff hen => ?_, fun hen => ⟨fun h => ?_, fun h => ?_⟩, ?_, ?_⟩
    · rw [hcfg, vinAfterCfg, if_neg (ne_true_of_eq_false hoff), if_pos hen, if_pos hf]
    · rw [hcfg, vinAfterCfg, if_neg (ne_true_of_eq_false hoff), if_pos hen, if_neg hf]
    · rw [hcfg, vinAfterCfg, if_neg (ne_true_of_eq_false hoff), if_neg (ne_true_of_eq_false hen)]
    · rw [hcfg, vinAfterCfg, if_pos hen, if_pos h]
    · rw [hcfg, vinAfterCfg, if_pos hen, if_neg h]
    · rw [exec_vinCons hw hp hv hon hk, vinConsWrite_eq]; rfl
    · intro loaded out
      refine ⟨fun hin => ?_, fun hout u hu => ?_⟩
      · rw [exec_vwdog hw hp hv hon hk,
          vwdogWrite_early s m v w (Bool.eq_false_iff.mpr (fun h => hin ((wdExpires_iff s v).mp h))), wbits_low]
        rfl
      · have hx := (wdExpires_iff s v).mpr hout
        obtain rfl := Host.Outcome.next.inj ((exec_watchdog s v hx).symm.trans hu)
        rw [exec_vwdog hw hp hv hon hk, vwdogWrite_late s m v w hx, wbits_low]
        refine ⟨fun honce hm => by rw [if_pos ⟨honce, hm⟩], fun hor => ?_⟩
        rw [if_neg (fun h => hor.elim (fun hf => absurd h.1 (ne_true_of_eq_false hf)) (fun hm => hm h.2))]
        rfl
  · rw [exec_vnmiRaise hw hp hv hon hk]; rfl
  · rw [exec_vintSetMsg hw hp hv hon hk]; rfl
  · rw [exec_vintSetSoft hw hp hv hon hk]; rfl
  · intro h
    exact marksLate_idle s v (fun g hg => Bool.eq_false_iff.mpr (fun hl => h g hg ((ackLate_iff s v g).mp hl)))
  · rintro ⟨g, hg, hl⟩
    exact marksLate_err s v ⟨g, hg, (ackLate_iff s v g).mpr hl⟩
  · exact ⟨resetVent s v, exec_vctlReset hw hp hv hon hk, resetVent_eq s v, (ventAt_resetVent s v).trans (ventAt_ventReset s v)⟩

end Sys2Proof.Machine
end
